-- ==== Sys2Proof/Word.lean ====
section
/-!
DEFINITION. The words of the machine: register values, lane masks, instruction words and bytes (01 R20, 06 R137).
-/

namespace Sys2Proof

/-- A byte of memory. -/
abbrev Byte := BitVec 8
/-- A vector or scalar register (06 R137). -/
abbrev W32 := BitVec 32
/-- A register pair, an instruction word, or a 64-bit special register (01 R20, 02 R42). -/
abbrev W64 := BitVec 64
/-- A lane mask of one slice: bit L is lane L of the slice (02 R67). -/
abbrev Mask4 := BitVec 4
/-- A lane mask of one wave, by wave lane number (02 R85 lmask). -/
abbrev Mask64 := BitVec 64
/-- A measurement, hash or seed of 512 bits (27 R457). -/
abbrev W512 := BitVec 512
/-- A key, device secret or hash of 256 bits (27 R446, R448). -/
abbrev W256 := BitVec 256

end Sys2Proof
end

