-- ==== Sys2Proof/Config.lean ====
section
/-!
DEFINITION. What the spec leaves open: values that an implementation, a run or the manufacture fixes.  Every constant is
opaque and has no body, so no proof can lean on a value of it; each names its row of notes/assumptions.
-/

namespace Sys2Proof.Config

/-- The n-th free choice of a run, as a number (log 2): unpredictable values, choices and orders (00 R9). -/
opaque pick : Nat → Nat
/-- The n-th free 64-bit value: fresh handle values, entropy, counters the model leaves open (log 2). -/
opaque freeWord : Nat → W64
/-- Nanoseconds that pass at the n-th step (log 3). -/
opaque elapse : Nat → Nat
/-- Arithmetic-clock cycles that pass at the n-th step (log 3). -/
opaque cyclesPassed : Nat → Nat
/-- Nanoseconds by which a cluster's counter runs ahead of the package's time at a step (02 R85, log 3). -/
opaque clockDrift : Nat → Nat
/-- Does this signature by this key over this message verify: SLH-DSA-SHAKE-256s (27 R452, R455; log 24). -/
opaque verifies : (key message signature : List Byte) → Bool
/-- The attestation key derived from a device secret, and its signature over a message (27 R458; log 24). -/
opaque attestKey : (secret : List W64) → List Byte
opaque attestSign : (secret : List W64) → (message : List Byte) → List Byte
/-- The conditioned output of the entropy source, n-th word (27 R459; log 24). -/
opaque entropy : Nat → W64
/-- The bodies of the capability list that no rule gives values for: clock and rate figures by word (25 R432; log 26). -/
opaque capability : Nat → W64
/-- The compute die whose HBM holds a line (12 R243; log 27). -/
opaque lineDie : Nat → Nat
/-- Die stepping in IDCODE (27 R453; log 25). -/
opaque stepping : BitVec 4
/-- The bytes of the second tier (25 R427, R432; log 26). -/
opaque tier2Bytes : Nat
/-- Where the boot ROM puts the firmware image in HBM, the address its code is reached at, and the roots of the system half
and of the supervisor's process that it leaves in force (27 R455; log 37). -/
opaque imageBase : Nat
/-- The region of HBM that firmware reserves for the object table (19 R338; log 58). -/
opaque objectTable : Nat
opaque imageCode : W64
opaque bootRoot : Bool → W64

end Sys2Proof.Config
end

