-- ==== Sys2Proof/Syntax.lean ====
section
/-!
DEFINITION. The instructions of the machine as data: one constructor of Instr for each row of the opcode table.
The operand structures follow the field layouts of 01 R21 to R31 and of each reference entry.  A row that is half of
a dual word carries the whole word, named by half X.  A row that is an event carries what the event brings with it
from outside the machine, or names the agent it happens to.
-/

namespace Sys2Proof

/-! ### Operand fields -/

/-- A register of field kind R (01 R26). -/
inductive Reg where
  | v (n : BitVec 7)
  | s (n : BitVec 6)
  | q (n : BitVec 3)
deriving DecidableEq, Repr

/-- A source operand with its last-read bit (01 R21, R31). -/
structure Src where
  reg : Reg
  last : Bool
deriving DecidableEq, Repr

/-- The guard of a full word: a predicate and whether it is complemented (01 R30). -/
structure Guard where
  pred : BitVec 6
  neg : Bool
deriving DecidableEq, Repr

/-- A predicate field (01 R27 kind P). -/
abbrev PReg := BitVec 6
/-- An s register field. -/
abbrev SReg := BitVec 6
/-- An even s pair, by half its number. -/
abbrev SPair := BitVec 5
/-- Four s registers sN to sN+3, by a quarter of N. -/
abbrev SQuad := BitVec 4

/-- Type codes (01 R29); code 15 is no type. -/
inductive Ty where
  | n32 | s32 | n64 | s64 | f32 | f16x2 | bf16x2 | f64
  | n16x2 | s16x2 | n8x4 | s8x4 | e4m3x4 | e5m2x4 | b32
deriving DecidableEq, Repr

/-- Rounding field (01 R21). -/
inductive Rnd where
  | rne | rz | rup | rdn
deriving DecidableEq, Repr

/-- Scopes (10 R200). -/
inductive Scope where
  | wv | tm | cl | dv | cq | sy
deriving DecidableEq, Repr

/-- Integer conditions (02 R51). -/
inductive Cond where
  | eq | ne | lt | le | gt | ge
deriving DecidableEq, Repr

/-- Conditions of a monitor (10 R209). -/
inductive MonCond where
  | eq | ne | lt | le | gt | ge | any
deriving DecidableEq, Repr

/-- Floating-point conditions (04 R111). -/
inductive FCond where
  | eq | ne | lt | le | gt | ge | num | nan
deriving DecidableEq, Repr

/-- Global memory or scratch, where an instruction chooses (10 R200). -/
inductive Space where
  | global | scratch
deriving DecidableEq, Repr

/-! ### Integer, floating-point and move operands -/

/-- Full A with one source and the modifier layout of 01 R21. -/
structure Alu1 where
  look : BitVec 4
  g : Option Guard
  d : Reg
  a : Src
  ty : Ty
  rnd : Rnd
  sat : Bool
deriving DecidableEq, Repr

/-- Full A with two sources and the modifier layout of 01 R21. -/
structure Alu2 where
  look : BitVec 4
  g : Option Guard
  d : Reg
  a : Src
  b : Src
  ty : Ty
  rnd : Rnd
  sat : Bool
deriving DecidableEq, Repr

/-- Full A with three sources and the modifier layout of 01 R21. -/
structure Alu3 where
  look : BitVec 4
  g : Option Guard
  d : Reg
  a : Src
  b : Src
  c : Src
  ty : Ty
  rnd : Rnd
  sat : Bool
deriving DecidableEq, Repr

/-- Full B arithmetic: a register and a 26-bit immediate (01 R22). -/
structure AluI where
  g : Option Guard
  d : Reg
  a : Reg
  imm : BitVec 26
deriving DecidableEq, Repr

/-- Full B MOV (02 R55). -/
structure MovI where
  g : Option Guard
  d : Reg
  imm : BitVec 26
deriving DecidableEq, Repr

/-- BFE (02 R48). -/
structure BfeOp where
  g : Option Guard
  d : Reg
  a : Src
  b : Src
  signed : Bool
deriving DecidableEq, Repr

/-- BFI and BSEL: three sources, no free modifier (02 R48, R49). -/
structure Bits3Op where
  g : Option Guard
  d : Reg
  a : Src
  b : Src
  c : Src
deriving DecidableEq, Repr

/-- ICMP (02 R51). -/
structure IcmpOp where
  g : Option Guard
  d : PReg
  a : Src
  b : Src
  ty : Ty
  cond : Cond
deriving DecidableEq, Repr

/-- PICK (02 R52). -/
structure PickOp where
  g : Option Guard
  d : Reg
  a : Src
  b : Src
  c : PReg
  ty : Ty
deriving DecidableEq, Repr

/-- Which way MOVX moves: reading with a v destination, or writing from a data register (02 R56). -/
inductive MovxDir where
  | read (d : BitVec 7)
  | write (a : Reg)
deriving DecidableEq, Repr

/-- MOVX (02 R56). -/
structure MovxOp where
  g : Option Guard
  dir : MovxDir
  idx : Reg
  off : BitVec 7
deriving DecidableEq, Repr

/-- SHMAP (02 R57). -/
structure ShmapOp where
  g : Option Guard
  d : BitVec 7
  a : SReg
  count : BitVec 6
deriving DecidableEq, Repr

/-- Direction of QCFG (02 R58). -/
inductive QDir where
  | unbind | load | store
deriving DecidableEq, Repr

/-- QCFG (02 R58). -/
structure QcfgOp where
  g : Option Guard
  q : BitVec 3
  quad : SQuad
  dir : QDir
  space : Space
  wide : Bool
deriving DecidableEq, Repr

/-- LEA (02 R50). -/
structure LeaOp where
  g : Option Guard
  d : Reg
  a : Src
  b : Src
  sh : BitVec 3
  signed : Bool
deriving DecidableEq, Repr

/-- FCMP (04 R111). -/
structure FcmpOp where
  g : Option Guard
  d : PReg
  a : Src
  b : Src
  ty : Ty
  cond : FCond
deriving DecidableEq, Repr

/-- FCLASS (04 R112). -/
structure FclassOp where
  g : Option Guard
  d : PReg
  a : Src
  b : Src
  ty : Ty
deriving DecidableEq, Repr

/-- FRND (04 R113). -/
structure FrndOp where
  g : Option Guard
  d : Reg
  a : Src
  exact : Bool
  ty : Ty
  rnd : Rnd
deriving DecidableEq, Repr

/-- CVT (04 R116): fields the code does not read are none. -/
structure CvtOp where
  g : Option Guard
  d : Reg
  a : Reg
  b : Option Reg
  c : Option Reg
  last : Bool
  code : BitVec 6
  rnd : Rnd
  sat : Bool
deriving DecidableEq, Repr

/-! ### Cross-lane and predicate operands -/

/-- Shuffles (04 R124): the segment is 4 lanes shifted left by seg. -/
structure ShflOp where
  look : BitVec 4
  g : Option Guard
  d : BitVec 7
  a : BitVec 7
  aLast : Bool
  b : Src
  ty : Ty
  seg : BitVec 3
deriving DecidableEq, Repr

/-- Modes of VOTE (04 R125). -/
inductive VoteMode where
  | all | any | uni
deriving DecidableEq, Repr

/-- VOTE (04 R125). -/
structure VoteOp where
  g : Option Guard
  d : PReg
  a : PReg
  mode : VoteMode
deriving DecidableEq, Repr

/-- BALLOT (04 R125). -/
structure BallotOp where
  g : Option Guard
  d : SPair
  a : PReg
deriving DecidableEq, Repr

/-- REDL and SCANL (04 R127). -/
structure LaneRedOp where
  look : BitVec 4
  g : Option Guard
  d : BitVec 7
  a : BitVec 7
  last : Bool
  seg : BitVec 2
  ty : Ty
  op : BitVec 3
deriving DecidableEq, Repr

/-- RDLANE (04 R126): mode 0 carries the lane index register, mode 1 carries none. -/
structure RdlaneOp where
  g : Option Guard
  d : SReg
  a : BitVec 7
  aLast : Bool
  b : Option (SReg × Bool)
  ty : Ty
deriving DecidableEq, Repr

/-- Two-input predicate operations (02 R53). -/
inductive POp where
  | and | or | xor
deriving DecidableEq, Repr

/-- PCOMB (02 R53). -/
structure PcombOp where
  g : Option Guard
  d : PReg
  a : PReg
  b : PReg
  c : PReg
  na : Bool
  nb : Bool
  nc : Bool
  f : POp
  h : POp
deriving DecidableEq, Repr

/-- P2S (02 R54): high chooses p32 to p63. -/
structure P2sOp where
  g : Option Guard
  d : BitVec 7
  high : Bool
deriving DecidableEq, Repr

/-- S2P (02 R54). -/
structure S2pOp where
  g : Option Guard
  high : Bool
  a : Reg
deriving DecidableEq, Repr

/-! ### Control and system operands -/

/-- BRA (02 R69, R70). -/
structure BraOp where
  g : Option Guard
  target : BitVec 9
  join : BitVec 9
  valid : Bool
deriving DecidableEq, Repr

/-- BRX (02 R71). -/
structure BrxOp where
  g : Option Guard
  a : Src
deriving DecidableEq, Repr

/-- CALL (02 R72). -/
structure CallOp where
  g : Option Guard
  d : SReg
  target : BitVec 9
deriving DecidableEq, Repr

/-- RET, WAITC's threshold, XKICK, XSUSP: one s source with its last-read bit. -/
structure S1Op where
  g : Option Guard
  a : SReg
  last : Bool
deriving DecidableEq, Repr

/-- REGANG (02 R73). -/
structure RegangOp where
  g : Option Guard
  slices : BitVec 16
deriving DecidableEq, Repr

/-- JMPF (02 R74). -/
structure JmpfOp where
  seg : BitVec 12
  idx : BitVec 9
deriving DecidableEq, Repr

/-- CFETCH (02 R75). -/
structure CfetchOp where
  g : Option Guard
  seg : BitVec 12
deriving DecidableEq, Repr

/-- ENTER and BRK: a 16-bit immediate (02 R80, R83). -/
structure Imm16Op where
  g : Option Guard
  imm : BitVec 16
deriving DecidableEq, Repr

/-- SVC (02 R81): a eighth of the first register's number. -/
structure SvcOp where
  g : Option Guard
  a : BitVec 3
  num : BitVec 16
deriving DecidableEq, Repr

/-- RSR (02 R84): an s pair, or a v register for laneid. -/
inductive RsrDst where
  | pair (p : SPair)
  | lane (v : BitVec 7)
deriving DecidableEq, Repr

/-- RSR (02 R84). -/
structure RsrOp where
  g : Option Guard
  d : RsrDst
  num : BitVec 12
deriving DecidableEq, Repr

/-- WSR (02 R84). -/
structure WsrOp where
  g : Option Guard
  a : SPair
  num : BitVec 12
deriving DecidableEq, Repr

/-- An s pair under a guard: the special-register rows that name their register (02 R85, 09 R183). -/
structure PairOp where
  g : Option Guard
  p : SPair
deriving DecidableEq, Repr

/-! ### Memory operands -/

/-- Plain loads and stores (01 R23, 02 R59). -/
structure MemOp where
  look : BitVec 4
  g : Option Guard
  data : Reg
  base : Reg
  policy : SReg
  off : BitVec 18
deriving DecidableEq, Repr

/-- PREF (10 R210). -/
structure PrefOp where
  g : Option Guard
  base : Reg
  policy : SReg
  off : BitVec 18
deriving DecidableEq, Repr

/-- Operations of ATOM (10 R200). -/
inductive AtomKind where
  | add | min | max | and | or | xor | xchg | cas
deriving DecidableEq, Repr

/-- Types of ATOM (10 R200). -/
inductive AtomTy where
  | n32 | s32 | n64 | s64 | f32 | f16x2 | bf16x2 | b32
deriving DecidableEq, Repr

/-- ATOM (10 R200): c is present for CAS only. -/
structure AtomOp where
  g : Option Guard
  d : Reg
  a : Reg
  b : Reg
  c : Option Reg
  kind : AtomKind
  ty : AtomTy
  space : Space
  scope : Scope
deriving DecidableEq, Repr

/-- Operations of RED.M (10 R206). -/
inductive RedKind where
  | add | min | max
deriving DecidableEq, Repr

/-- RED.M (10 R206). -/
structure RedMOp where
  g : Option Guard
  a : Reg
  b : Src
  kind : RedKind
  ty : Ty
deriving DecidableEq, Repr

/-- Kinds of FENCE (10 R208). -/
inductive FenceKind where
  | acqrel | acq | rel
deriving DecidableEq, Repr

/-- FENCE (10 R208). -/
structure FenceOp where
  g : Option Guard
  kind : FenceKind
  scope : Scope
deriving DecidableEq, Repr

/-- FENCE.M (10 R207). -/
structure FenceMOp where
  g : Option Guard
  scope : Scope
deriving DecidableEq, Repr

/-- Types of a monitor (10 R209). -/
inductive MonTy where
  | n32 | s32 | n64 | s64
deriving DecidableEq, Repr

/-- WAITCMP (10 R209). -/
structure WaitcmpOp where
  g : Option Guard
  d : Reg
  a : Reg
  b : Reg
  c : SReg
  space : Space
  cond : MonCond
  ty : MonTy
  scope : Scope
deriving DecidableEq, Repr

/-- WAITC (02 R65). -/
structure WaitcOp where
  g : Option Guard
  a : SReg
  last : Bool
  path : BitVec 3
deriving DecidableEq, Repr

/-- BINIT (10 R212). -/
structure BinitOp where
  g : Option Guard
  a : SReg
  aLast : Bool
  b : SReg
  bLast : Bool
deriving DecidableEq, Repr

/-- BARV and BWAIT (10 R212). -/
structure BarOp where
  g : Option Guard
  d : SReg
  a : SReg
  b : SReg
  scope : Scope
deriving DecidableEq, Repr

/-- XSTAT (10 R216). -/
structure XstatOp where
  g : Option Guard
  d : SPair
  a : SReg
  last : Bool
deriving DecidableEq, Repr

/-! ### Matrix operands -/

/-- Operand formats (14 R278). -/
inductive MFmt where
  | bf16 | f16 | e4m3 | e5m2 | s8 | n8 | q4
deriving DecidableEq, Repr

/-- Accumulator and tile types (14 R278). -/
inductive AccTy where
  | f32 | s32
deriving DecidableEq, Repr

/-- OBRES (14 R278): wide is block length 32. -/
structure ObresOp where
  g : Option Guard
  d : BitVec 4
  quad : SQuad
  last : Bool
  fmt : MFmt
  wide : Bool
deriving DecidableEq, Repr

/-- OBREL (14 R278). -/
structure ObrelOp where
  g : Option Guard
  d : BitVec 4
deriving DecidableEq, Repr

/-- WLD (14 R278). -/
structure WldOp where
  g : Option Guard
  d : BitVec 3
  quad : SQuad
  last : Bool
  fmt : MFmt
  wide : Bool
  z : Bool
deriving DecidableEq, Repr

/-- MMA (14 R278): unguarded. -/
structure MmaOp where
  d : BitVec 4
  a : BitVec 4
  b : BitVec 3
  c : SReg
  last : Bool
  acc : AccTy
  sat : Bool
deriving DecidableEq, Repr

/-- MACQ (14 R278): a tile. -/
structure TileOp where
  g : Option Guard
  d : BitVec 4
deriving DecidableEq, Repr

/-- MREL (14 R278). -/
structure MrelOp where
  g : Option Guard
  d : BitVec 4
  free : Bool
deriving DecidableEq, Repr

/-- MRD (14 R278). -/
structure MrdOp where
  look : BitVec 4
  g : Option Guard
  d : BitVec 7
  a : BitVec 4
  b : Src
deriving DecidableEq, Repr

/-- MWR (14 R278). -/
structure MwrOp where
  g : Option Guard
  d : BitVec 4
  a : Src
  b : Src
deriving DecidableEq, Repr

/-- Targets of MDRAIN (14 R285). -/
inductive DrainTarget where
  | bits | bf16 | f16 | e4m3 | e5m2 | q4 | s8
deriving DecidableEq, Repr

/-- MDRAIN (14 R278): unguarded; the maximum's address pair and scope stand together. -/
structure MdrainOp where
  d : BitVec 4
  quad : SQuad
  max : Option (SPair × Scope)
  target : DrainTarget
  scale : BitVec 2
  wide : Bool
  space : Space
deriving DecidableEq, Repr

/-- MZERO (14 R278). -/
structure MzeroOp where
  g : Option Guard
  d : BitVec 4
  ty : AccTy
deriving DecidableEq, Repr

/-- WINV (14 R278). -/
structure WinvOp where
  g : Option Guard
  d : BitVec 3
deriving DecidableEq, Repr

/-! ### Kernel object and rotation operands (17 R308, 21 R373) -/

/-- Kinds of WCREATE (17 R308). -/
inductive ObjKind where
  | port | waitSet | timer | graph
deriving DecidableEq, Repr

/-- WCREATE. -/
structure WcreateOp where
  g : Option Guard
  d : SPair
  quad : SQuad
  kind : ObjKind
deriving DecidableEq, Repr

/-- A pair destination and two s sources with a flag: PSEND, WSWAIT, ROTJOIN, AEARM, AEWAIT. -/
structure K2Op where
  g : Option Guard
  d : SPair
  a : SReg
  b : SReg
  flag : Bool
deriving DecidableEq, Repr

/-- PRECV: the landing pair may be absent. -/
structure PrecvOp where
  g : Option Guard
  d : SPair
  quad : SQuad
  landing : Option SPair
  flag : Bool
deriving DecidableEq, Repr

/-- PNOTE. -/
structure PnoteOp where
  g : Option Guard
  a : SReg
  b : SReg
deriving DecidableEq, Repr

/-- The member of WSADD (17 R308). -/
inductive MemberSel where
  | handle
  | barrier
  | monitor (cond : MonCond) (signed : Bool) (scope : Scope)
deriving DecidableEq, Repr

/-- WSADD. -/
structure WsaddOp where
  g : Option Guard
  d : SPair
  a : SReg
  quad : SQuad
  key : SReg
  member : MemberSel
deriving DecidableEq, Repr

/-- A pair destination and one s source with a flag: TCAN, OCLOSE, GLAUNCH, ROTARM, ROTEND. -/
structure K1Op where
  g : Option Guard
  d : SPair
  a : SReg
  flag : Bool
deriving DecidableEq, Repr

/-- TARM. -/
structure TarmOp where
  g : Option Guard
  d : SPair
  a : SReg
  dur : SPair
  per : Bool
deriving DecidableEq, Repr

/-- NSLOOK and LAUNCH: a pair destination and a pair source. -/
structure KPairOp where
  g : Option Guard
  d : SPair
  a : SPair
deriving DecidableEq, Repr

/-- NSBIND: the port handle is absent when unbinding. -/
structure NsbindOp where
  g : Option Guard
  d : SPair
  a : SPair
  b : Option SReg
deriving DecidableEq, Repr

/-- Operations of GCOND (17 R308). -/
inductive GcondKind where
  | set | or | and | max
deriving DecidableEq, Repr

/-- GCOND. -/
structure GcondOp where
  g : Option Guard
  d : SPair
  a : SReg
  b : SReg
  c : SReg
  kind : GcondKind
deriving DecidableEq, Repr

/-- HINT. -/
structure HintOp where
  g : Option Guard
  a : SReg
  flush : Bool
deriving DecidableEq, Repr

/-- OINFO. -/
structure OinfoOp where
  g : Option Guard
  d : SPair
  a : SReg
  sel : BitVec 2
deriving DecidableEq, Repr

/-! ### Dual words (01 R24, R37) -/

/-- A dual opcode (01 R37). -/
inductive DualOp where
  | nop | iadd | isub | imul | imin | imax | and | or | xor | andn | shl | shr | mov | iaddi | movi | shli | shri
  | icmpEq | icmpNe | icmpLtS | icmpLtN | icmpLeS | icmpLeN | pand | por | pxor | pnot | pmov
  | fadd | fsub | fmul | fmin | fmax | fabs | fneg | popc | clz | brev | iabs | fcmpLt
deriving DecidableEq, Repr

/-- The fields of one half, as 01 R24 lays them out: bit 6 of first and second selects s. -/
structure HalfFields where
  first : BitVec 7
  second : BitVec 7
  pred : BitVec 3
  neg : Bool
  tym : BitVec 4
  last : Bool
deriving DecidableEq, Repr

/-- One half of a dual word. -/
structure DualHalf where
  op : DualOp
  f : HalfFields
deriving DecidableEq, Repr

/-! ### What events carry -/

/-- A slice of the package: core 0 to 383 (cluster × 32 + core), slot, slice. -/
structure SliceRef where
  core : Nat
  slot : Nat
  slice : Nat
deriving DecidableEq, Repr

/-- The two sources of debug requests (27 R454): the test access port, and the debug window. -/
inductive DebugSource where
  | tap | window
deriving DecidableEq, Repr

/-- One requested access of the host or of a peer to this package's memory (25 R427). -/
structure HostAccess where
  addr : Nat
  store : Option (List Byte)
  size : Nat
deriving DecidableEq, Repr

/-- The record of a ring as a ready mark carries it (21 R379). -/
structure ReadyMark where
  chip : Nat
  ringid : W32
  mm1 : Nat
  dir : Nat
  nloc : Nat
  members : W64
  ssize : W32
  hcode : Nat
deriving DecidableEq, Repr

/-- An access-table entry (20 R367). -/
structure AccessEntry where
  kind : Nat
  srcchip : Nat
  anyproc : Bool
  write : Bool
  read : Bool
  srcproc : Nat
  base : Nat
  pages : Nat
deriving DecidableEq, Repr

/-- A granted page in a message (17 R319, R320): the sender's page, what it offered, the leaf it had and who it was. -/
structure Grant where
  page : W64
  size : Nat
  offered : Bool
  leaf : W64
  process : Nat
  chip : Nat
deriving DecidableEq, Repr

/-- What a PSEND carries (17 R318): the 64 bytes, the payload, the grants, and the object a reply handle names, by chip and
index. -/
structure Carried where
  bytes : List Byte
  payload : List Byte
  grants : List Grant
  reply : Option (Nat × Nat)
deriving DecidableEq, Repr

/-- A packet of a ring's block: its number in the block, and its bytes, which stand from 4,096 × number on (23 R398). -/
structure RingPacket where
  number : Nat
  bytes : List Byte
deriving DecidableEq, Repr

/-- What an access-table update does (20 R366): the secure world writes a range entry or takes one out, or the update of an id
that every replica has acknowledged is complete. (DESIGN CHOICE, log 85) -/
inductive TableWork where
  | write (e : AccessEntry) (remove : Bool)
  | complete (id : Nat)
deriving DecidableEq, Repr

/-- A fabric request (20 R359 to R364, 19 R353, R354, 20 R371, 23 R397, R398, R407). -/
inductive PacketBody where
  | read (addr : Nat) (size : Nat)
  | write (addr : Nat) (data : List Byte)
  | atomic (addr : Nat) (kind : AtomKind) (ty : AtomTy) (operand compare : W64)
  | atomicLanes (addr : Nat) (kind : AtomKind) (ty : AtomTy) (lanes : List (W64 × W64))
  | reduce (addr : Nat) (kind : RedKind) (ty : Ty) (operand : W32)
  /-- a place in a port's queue, under the sender's key -/
  | reserve (port key plen : Nat)
  | withdraw (port key : Nat)
  | ship (port key : Nat) (m : Carried)
  | note (port : Nat) (value : W32)
  | portInfo (port : Nat)
  /-- a discarded grant's page goes back to its sender -/
  | giveBack (g : Grant)
  | bind (name : W64) (port process : Nat)
  | unbind (name : W64) (process : Nat)
  | look (name : W64)
  | entryAdd (e : AccessEntry)
  | entryRemove (e : AccessEntry)
  /-- a peer's access table changes, and its replicas with it -/
  | replica (e : AccessEntry) (remove : Bool)
  | mark (m : ReadyMark)
  | ringReserve (ringid : W32) (index : Nat)
  | ringBlock (ringid : W32) (index : Nat) (data : RingPacket)
  | ringFail (ringid : W32) (code : BitVec 8)
deriving DecidableEq, Repr

/-- A whole packet at a destination or at a bridge (20 R359, R362, R363). -/
structure Packet where
  /-- destination chip, and the source's chip and process -/
  dst : Nat := 0
  src : Nat
  proc : Nat := 0
  vc : Nat
  seq : Nat
  body : PacketBody
  checkOk : Bool
  stomped : Bool
  /-- earlier numbers of its stream that its source has given up (20 R364; log 60) -/
  givenUp : List Nat := []
deriving DecidableEq, Repr

/-- A response of a peer (20 R370): data, or an error code 0x40 or 0x41. -/
inductive PeerReply where
  | data (bytes : List Byte)
  | done
  | status (value : Nat)
  | error (code : BitVec 8)
deriving DecidableEq, Repr


/-- Where an uncorrectable SRAM word stands (29 R475). -/
inductive SramSite where
  | llc (line : Nat)
  | linkBuffer (port bank : Nat)
  | coreSram (core : Nat) (index : Nat)
  | keyTable
  | pegbox (entry : Nat)
  | other (index : Nat)
deriving DecidableEq, Repr

/-- The instructions and events of the machine: one constructor for each row of the opcode table.  Decoded instructions
stand first, then the events the machine's default rule may choose, then the others, then the rows without data. -/
inductive Instr where
  /-- IADD (R45): Full A integer add of a and b per element, wrapping or saturating by type. -/
  | iadd (o : Alu2)
  /-- IADD_IMM (R45): Full B integer add of a and a sign-extended immediate, as s32. -/
  | iaddImm (o : AluI)
  /-- ISUB (R45): Full A integer subtract a − b, wrapping or saturating. -/
  | isub (o : Alu2)
  /-- ISUB_IMM (R45): Full B integer subtract of a sign-extended immediate. -/
  | isubImm (o : AluI)
  /-- IMUL (R45): Full A integer multiply, low bits, wrapping or saturating. -/
  | imul (o : Alu2)
  /-- IMUL_IMM (R45): Full B integer multiply by a sign-extended immediate. -/
  | imulImm (o : AluI)
  /-- IMULH (R45): High half of the integer product a × b. -/
  | imulh (o : Alu2)
  /-- IMAD (R45): Integer multiply-add a × b + c. -/
  | imad (o : Alu3)
  /-- IDIV (R46): Integer divide truncated toward zero, with defined results for division by zero. -/
  | idiv (o : Alu2)
  /-- IREM (R46): Integer remainder, giving a when b is zero. -/
  | irem (o : Alu2)
  /-- IMIN (R45): Full A integer minimum. -/
  | imin (o : Alu2)
  /-- IMIN_IMM (R45): Full B integer minimum with an immediate. -/
  | iminImm (o : AluI)
  /-- IMAX (R45): Full A integer maximum. -/
  | imax (o : Alu2)
  /-- IMAX_IMM (R45): Full B integer maximum with an immediate. -/
  | imaxImm (o : AluI)
  /-- IABS (R46): Integer absolute value, wrapping or saturating. -/
  | iabs (o : Alu1)
  /-- AND (R47): Full A bitwise AND. -/
  | and (o : Alu2)
  /-- AND_IMM (R47): Full B bitwise AND with a zero-extended immediate. -/
  | andImm (o : AluI)
  /-- OR (R47): Full A bitwise OR. -/
  | or (o : Alu2)
  /-- OR_IMM (R47): Full B bitwise OR with a zero-extended immediate. -/
  | orImm (o : AluI)
  /-- XOR (R47): Full A bitwise XOR. -/
  | xor (o : Alu2)
  /-- XOR_IMM (R47): Full B bitwise XOR with a zero-extended immediate. -/
  | xorImm (o : AluI)
  /-- ANDN (R47): Full A a AND NOT b. -/
  | andn (o : Alu2)
  /-- ANDN_IMM (R47): Full B a AND NOT a zero-extended immediate. -/
  | andnImm (o : AluI)
  /-- SHL (R47): Full A left shift by b modulo the width. -/
  | shl (o : Alu2)
  /-- SHL_IMM (R47): Full B left shift by an immediate count. -/
  | shlImm (o : AluI)
  /-- SHR (R47): Full A right shift, logical or arithmetic by type. -/
  | shr (o : Alu2)
  /-- SHR_IMM (R47): Full B logical right shift of n32 by an immediate count. -/
  | shrImm (o : AluI)
  /-- ROT (R47): Full A left rotate. -/
  | rot (o : Alu2)
  /-- ROT_IMM (R47): Full B left rotate by an immediate count. -/
  | rotImm (o : AluI)
  /-- BFE (R48): Extracts a bit field, naturally or sign-extended. -/
  | bfe (o : BfeOp)
  /-- BFI (R48): Inserts a bit field into c. -/
  | bfi (o : Bits3Op)
  /-- POPC (R47): Counts the 1 bits of a. -/
  | popc (o : Alu1)
  /-- CLZ (R47): Counts the leading zeros of a. -/
  | clz (o : Alu1)
  /-- BREV (R47): Reverses the bits of a. -/
  | brev (o : Alu1)
  /-- ICMP (R51): Integer compare writing a predicate per lane. -/
  | icmp (o : IcmpOp)
  /-- PICK (R52): Selects a or b per lane by a predicate. -/
  | pick (o : PickOp)
  /-- MOV (R55): Full A register move, popping or pushing queue registers where named. -/
  | mov (o : Alu1)
  /-- MOV_IMM (R55): Full B move of a sign-extended immediate. -/
  | movImm (o : MovI)
  /-- MOVX (R56): Reads or writes a v register chosen per lane at run time, trapping the whole slice on an out-of-allocation index. -/
  | movx (o : MovxOp)
  /-- SHMAP (R57): Maps or unmaps a register range shared with a partner wave of the team. -/
  | shmap (o : ShmapOp)
  /-- QCFG (R58): Binds or unbinds a queue register to a load or store stream. -/
  | qcfg (o : QcfgOp)
  /-- LEA (R50): Computes a 64-bit address a + (ext(b) << sh). -/
  | lea (o : LeaOp)
  /-- BSEL (R49): Assembles a word from selected bytes of two sources. -/
  | bsel (o : Bits3Op)
  /-- FADD (R107): Full A floating add, rounded by the mode. -/
  | fadd (o : Alu2)
  /-- FADD_IMM (R108): Full B f32 add of a scaled immediate under RNE. -/
  | faddImm (o : AluI)
  /-- FSUB (R107): Full A floating subtract. -/
  | fsub (o : Alu2)
  /-- FSUB_IMM (R108): Full B f32 subtract of a scaled immediate. -/
  | fsubImm (o : AluI)
  /-- FMUL (R107): Full A floating multiply. -/
  | fmul (o : Alu2)
  /-- FMUL_IMM (R108): Full B f32 multiply by a scaled immediate. -/
  | fmulImm (o : AluI)
  /-- FFMA (R107): Fused multiply-add with one rounding. -/
  | ffma (o : Alu3)
  /-- FMIN (R109): Full A floating minimum. -/
  | fmin (o : Alu2)
  /-- FMIN_IMM (R109): Full B f32 minimum with an immediate. -/
  | fminImm (o : AluI)
  /-- FMAX (R109): Full A floating maximum. -/
  | fmax (o : Alu2)
  /-- FMAX_IMM (R109): Full B f32 maximum with an immediate. -/
  | fmaxImm (o : AluI)
  /-- FCMP (R111): Floating compare writing a predicate. -/
  | fcmp (o : FcmpOp)
  /-- FCLASS (R112): Tests the class of a against a mask into a predicate. -/
  | fclass (o : FclassOp)
  /-- FABS (R110): Clears the sign bit. -/
  | fabs (o : Alu1)
  /-- FNEG (R110): Inverts the sign bit. -/
  | fneg (o : Alu1)
  /-- FDOT2 (R115): Two-element packed dot product accumulated into f32. -/
  | fdot2 (o : Alu3)
  /-- FDOT4 (R115): Four-element FP8 dot product accumulated into f32. -/
  | fdot4 (o : Alu3)
  /-- FCPYS (R110): Copies a with the sign of b. -/
  | fcpys (o : Alu2)
  /-- FRND (R113): Rounds to an integral value in the same format. -/
  | frnd (o : FrndOp)
  /-- FSCALE (R114): Computes a × 2^b with rounding. -/
  | fscale (o : Alu2)
  /-- FEXP (R114): Returns floor(log2 |a|) as s32. -/
  | fexp (o : Alu1)
  /-- CVT (R116): Converts between formats by conversion code. -/
  | cvt (o : CvtOp)
  /-- RCP (R118): Correctly rounded reciprocal. -/
  | rcp (o : Alu1)
  /-- RSQ (R118): Correctly rounded reciprocal square root. -/
  | rsq (o : Alu1)
  /-- SQRT (R118): Correctly rounded square root. -/
  | sqrt (o : Alu1)
  /-- EX2 (R118): Correctly rounded 2^a. -/
  | ex2 (o : Alu1)
  /-- LG2 (R118): Correctly rounded log2 a. -/
  | lg2 (o : Alu1)
  /-- SIN (R118): Correctly rounded sine. -/
  | sin (o : Alu1)
  /-- COS (R118): Correctly rounded cosine. -/
  | cos (o : Alu1)
  /-- TANH (R118): Correctly rounded hyperbolic tangent. -/
  | tanh (o : Alu1)
  /-- SHFL (R124): Indexed lane shuffle within a segment. -/
  | shfl (o : ShflOp)
  /-- SHFLX (R124): XOR lane shuffle within a segment. -/
  | shflx (o : ShflOp)
  /-- SHFLUP (R124): Upward lane shuffle within a segment. -/
  | shflup (o : ShflOp)
  /-- SHFLDN (R124): Downward lane shuffle within a segment. -/
  | shfldn (o : ShflOp)
  /-- VOTE (R125): ALL, ANY or UNI vote over the wave's predicates. -/
  | vote (o : VoteOp)
  /-- BALLOT (R125): Gathers a predicate of every lane into an s pair. -/
  | ballot (o : BallotOp)
  /-- REDL (R128): Fixed-tree reduction over a segment. -/
  | redl (o : LaneRedOp)
  /-- SCANL (R128): Fixed-tree inclusive or exclusive scan over a segment. -/
  | scanl (o : LaneRedOp)
  /-- RDLANE (R126): Reads one lane's value into every slice's s register. -/
  | rdlane (o : RdlaneOp)
  /-- PCOMB (R53): Combines three predicates in two steps. -/
  | pcomb (o : PcombOp)
  /-- P2S (R54): Packs 32 predicates into a v register. -/
  | p2s (o : P2sOp)
  /-- S2P (R54): Unpacks a register into 32 predicates. -/
  | s2p (o : S2pOp)
  /-- BRA (R70): Branches within the segment with an optional join, pushing the mask stack on divergence. -/
  | bra (o : BraOp)
  /-- BRX (R71): Indirect branch taking target and join per lane. -/
  | brx (o : BrxOp)
  /-- CALL (R72): Writes a link and branches with the join after the call. -/
  | call (o : CallOp)
  /-- RET (R72): Branches to the index in an s register. -/
  | ret (o : S1Op)
  /-- REGANG (R73): Waits for the named slices to meet and forms one gang. -/
  | regang (o : RegangOp)
  /-- JMPF (R74): Region edge that jumps to another segment, trapping 0x05 if it is absent. -/
  | jmpf (o : JmpfOp)
  /-- CFETCH (R75): Starts fetching a code segment into the instruction store. -/
  | cfetch (o : CfetchOp)
  /-- EXIT (R76): Marks the executing lanes exited and ends the slice when all have exited. -/
  | exit (g : Option Guard)
  /-- FRET (R78): Closes the region, commits deferred effects and records the restart point and live-in set. -/
  | fret (index : BitVec 12)
  /-- ENTER (R80): Pushes a region identifier onto the region stack. -/
  | enter (o : Imm16Op)
  /-- LEAVE (R80): Pops the region stack. -/
  | leave (g : Option Guard)
  /-- SVC (R81): Writes a request record to the supervisor mailbox and waits for the reply. -/
  | svc (o : SvcOp)
  /-- RSR (R84): Reads a special register into an s pair or a v register. -/
  | rsr (o : RsrOp)
  /-- WSR (R84): Writes a special register that has no behaviour of its own. -/
  | wsr (o : WsrOp)
  /-- BRK (R83): Records a break code, stopping the slice after its next edge when stops are enabled. -/
  | brk (o : Imm16Op)
  /-- NOP (R77): Does nothing. -/
  | nop (g : Option Guard)
  /-- YIELD (R77): Moves the gang to the newest arbitration age in its class. -/
  | yield (g : Option Guard)
  /-- LD_G_N8 (R59): Global load of a byte, zero-extended. -/
  | ldGN8 (o : MemOp)
  /-- LD_G_S8 (R59): Global load of a byte, sign-extended. -/
  | ldGS8 (o : MemOp)
  /-- LD_G_N16 (R59): Global load of 16 bits, zero-extended. -/
  | ldGN16 (o : MemOp)
  /-- LD_G_S16 (R59): Global load of 16 bits, sign-extended. -/
  | ldGS16 (o : MemOp)
  /-- LD_G_B32 (R59): Global load of 32 bits. -/
  | ldGB32 (o : MemOp)
  /-- LD_G_B64 (R59): Global load of 64 bits into a pair. -/
  | ldGB64 (o : MemOp)
  /-- LD_S_N8 (R59): Scratch load of a byte, zero-extended. -/
  | ldSN8 (o : MemOp)
  /-- LD_S_S8 (R59): Scratch load of a byte, sign-extended. -/
  | ldSS8 (o : MemOp)
  /-- LD_S_N16 (R59): Scratch load of 16 bits, zero-extended. -/
  | ldSN16 (o : MemOp)
  /-- LD_S_S16 (R59): Scratch load of 16 bits, sign-extended. -/
  | ldSS16 (o : MemOp)
  /-- LD_S_B32 (R59): Scratch load of 32 bits. -/
  | ldSB32 (o : MemOp)
  /-- LD_S_B64 (R59): Scratch load of 64 bits. -/
  | ldSB64 (o : MemOp)
  /-- LD_P_B32 (R60): Load of 32 bits from the launch parameter space. -/
  | ldPB32 (o : MemOp)
  /-- ST_G_B8 (R59): Global store of the low byte. -/
  | stGB8 (o : MemOp)
  /-- ST_G_B16 (R59): Global store of the low 16 bits. -/
  | stGB16 (o : MemOp)
  /-- ST_G_B32 (R59): Global store of 32 bits, plain or release. -/
  | stGB32 (o : MemOp)
  /-- ST_G_B64 (R59): Global store of 64 bits. -/
  | stGB64 (o : MemOp)
  /-- ST_S_B8 (R59): Scratch store of the low byte. -/
  | stSB8 (o : MemOp)
  /-- ST_S_B16 (R59): Scratch store of the low 16 bits. -/
  | stSB16 (o : MemOp)
  /-- ST_S_B32 (R59): Scratch store of 32 bits. -/
  | stSB32 (o : MemOp)
  /-- ST_S_B64 (R59): Scratch store of 64 bits. -/
  | stSB64 (o : MemOp)
  /-- ATOM (R202): Sends a read-modify-write per lane to the location's home with release and acquire at its scope. -/
  | atom (o : AtomOp)
  /-- RED_M (R206): Sends a relaxed memory-side reduction to the base die. -/
  | redM (o : RedMOp)
  /-- FENCE (R208): Release, acquire or both at a scope for the slice's own accesses. -/
  | fence (o : FenceOp)
  /-- FENCE_M (R207): Waits for earlier RED.M to be applied, then acts as FENCE.ACQREL. -/
  | fenceM (o : FenceMOp)
  /-- WAITCMP (R209): Arms a monitor per lane and waits until the word satisfies the condition or the timeout passes. -/
  | waitcmp (o : WaitcmpOp)
  /-- WAITC (R65): Waits until an in-flight counter is at or below a threshold. -/
  | waitc (o : WaitcOp)
  /-- PREF (R210): Requests lines into the LLC and L1 without trapping. -/
  | pref (o : PrefOp)
  /-- BINIT (R213): Initialises a barrier object with a release at .TM. -/
  | binit (o : BinitOp)
  /-- BARV (R213): Releases and decrements a barrier, returning the old phase. -/
  | barv (o : BarOp)
  /-- BWAIT (R213): Waits for a barrier phase change or fault, then acquires. -/
  | bwait (o : BarOp)
  /-- OBRES (R279): Creates an operand-buffer record as a snapshot of scratch. -/
  | obres (o : ObresOp)
  /-- OBREL (R280): Releases an operand-buffer record after its MMAs complete. -/
  | obrel (o : ObrelOp)
  /-- WLD (R281): Loads a weight slot from scratch, plain or compressed. -/
  | wld (o : WldOp)
  /-- MMA (R282): Accumulates one strip product per course into a tile through a shadow. -/
  | mma (o : MmaOp)
  /-- MACQ (R283): Moves a tile's token to the wave's threads. -/
  | macq (o : TileOp)
  /-- MREL (R283): Returns a tile's token to the unit, or frees the tile. -/
  | mrel (o : MrelOp)
  /-- MRD (R284): Reads one tile element per lane. -/
  | mrd (o : MrdOp)
  /-- MWR (R284): Writes one tile element per lane. -/
  | mwr (o : MwrOp)
  /-- MDRAIN (R285): Writes a course's tile rows to memory in a target format and optionally raises an absolute maximum. -/
  | mdrain (o : MdrainOp)
  /-- MZERO (R283): Claims and zeroes a tile and sets its type. -/
  | mzero (o : MzeroOp)
  /-- WINV (R281): Empties a weight slot after its MMAs complete. -/
  | winv (o : WinvOp)
  /-- MSTAT (R286): Reports the wave's matrix state. -/
  | mstat (o : PairOp)
  /-- XKICK (R217): Releases at .DV and passes a copy request to the cluster's copy queue. -/
  | xkick (o : S1Op)
  /-- XSUSP (R219): Asks a running copy request to stop at its next granule boundary. -/
  | xsusp (o : S1Op)
  /-- XSTAT (R220): Reports a copy request's progress and state. -/
  | xstat (o : XstatOp)
  /-- WCREATE (R315): Creates a port, wait set, timer or graph and returns a handle. -/
  | wcreate (o : WcreateOp)
  /-- PSEND (R320): Sends a message with payload and grants to a port. -/
  | psend (o : K2Op)
  /-- PRECV (R321): Receives the head message of a port, landing its grants. -/
  | precv (o : PrecvOp)
  /-- PNOTE (R322): Max-merges a value into a port's notify word. -/
  | pnote (o : PnoteOp)
  /-- WSADD (R323): Adds a member under a key to a wait set. -/
  | wsadd (o : WsaddOp)
  /-- WSDEL (R323): Removes a member from a wait set. -/
  | wsdel (o : K2Op)
  /-- WSWAIT (R323): Returns the lowest ready key of a wait set, waiting or polling. -/
  | wswait (o : K2Op)
  /-- TARM (R324): Arms a one-shot or periodic timer on the cluster counter. -/
  | tarm (o : TarmOp)
  /-- TCAN (R324): Disarms a timer and clears an unconsumed expiry. -/
  | tcan (o : K1Op)
  /-- OCLOSE (R316): Closes a handle, advancing the slot generation. -/
  | oclose (o : K1Op)
  /-- ODUP (R316): Duplicates a handle with reduced rights. -/
  | odup (o : K2Op)
  /-- NSLOOK (R325): Looks up a name and returns a port handle. -/
  | nslook (o : KPairOp)
  /-- NSBIND (R325): Binds or unbinds a name to a port. -/
  | nsbind (o : NsbindOp)
  /-- GLAUNCH (R326): Arms an idle graph and hands its root launches over. -/
  | glaunch (o : K1Op)
  /-- GCOND (R326): Atomically updates a conditional node's word. -/
  | gcond (o : GcondOp)
  /-- HINT (R328): Releases at .SY and counts an event on an MSI-X vector. -/
  | hint (o : HintOp)
  /-- LAUNCH (R327): Releases at .SY and hands a launch record to the run-queue controller. -/
  | launch (o : KPairOp)
  /-- OINFO (R317): Reads information about an object by selector. -/
  | oinfo (o : OinfoOp)
  /-- ROTARM (R377): Checks a ring record and creates an Armed ring object. -/
  | rotarm (o : K1Op)
  /-- ROTJOIN (R379): Marks this chip ready and waits for every member to join. -/
  | rotjoin (o : K2Op)
  /-- AEARM (R381): Arms an attention job on the cluster's engine for a ring. -/
  | aearm (o : K2Op)
  /-- AEWAIT (R383): Waits for the ring's job to complete or fail, or polls. -/
  | aewait (o : K2Op)
  /-- ROTEND (R384): Ends or aborts a ring and returns its ranges to the team. -/
  | rotend (o : K1Op)
  /-- DUAL_NOP (R37): Dual half with no effect. -/
  | dualNop (x : HalfFields) (y : DualHalf)
  /-- DUAL_IADD (R37): Dual half d := d + b. -/
  | dualIadd (x : HalfFields) (y : DualHalf)
  /-- DUAL_ISUB (R37): Dual half d := d − b. -/
  | dualIsub (x : HalfFields) (y : DualHalf)
  /-- DUAL_IMUL (R37): Dual half low 32 bits of d × b. -/
  | dualImul (x : HalfFields) (y : DualHalf)
  /-- DUAL_IMIN (R37): Dual half integer minimum. -/
  | dualImin (x : HalfFields) (y : DualHalf)
  /-- DUAL_IMAX (R37): Dual half integer maximum. -/
  | dualImax (x : HalfFields) (y : DualHalf)
  /-- DUAL_AND (R37): Dual half bitwise AND. -/
  | dualAnd (x : HalfFields) (y : DualHalf)
  /-- DUAL_OR (R37): Dual half bitwise OR. -/
  | dualOr (x : HalfFields) (y : DualHalf)
  /-- DUAL_XOR (R37): Dual half bitwise XOR. -/
  | dualXor (x : HalfFields) (y : DualHalf)
  /-- DUAL_ANDN (R37): Dual half d AND NOT b. -/
  | dualAndn (x : HalfFields) (y : DualHalf)
  /-- DUAL_SHL (R37): Dual half left shift by b mod 32. -/
  | dualShl (x : HalfFields) (y : DualHalf)
  /-- DUAL_SHR (R37): Dual half right shift by b mod 32. -/
  | dualShr (x : HalfFields) (y : DualHalf)
  /-- DUAL_MOV (R37): Dual half d := b. -/
  | dualMov (x : HalfFields) (y : DualHalf)
  /-- IADDI (R37): Dual half d := d + imm7. -/
  | iaddi (x : HalfFields) (y : DualHalf)
  /-- MOVI (R37): Dual half d := sign-extended imm7. -/
  | movi (x : HalfFields) (y : DualHalf)
  /-- SHLI (R37): Dual half left shift by an immediate. -/
  | shli (x : HalfFields) (y : DualHalf)
  /-- SHRI (R37): Dual half right shift by an immediate. -/
  | shri (x : HalfFields) (y : DualHalf)
  /-- DUAL_ICMP_EQ (R37): Dual half pk := (d = b). -/
  | dualIcmpEq (x : HalfFields) (y : DualHalf)
  /-- DUAL_ICMP_NE (R37): Dual half pk := (d ≠ b). -/
  | dualIcmpNe (x : HalfFields) (y : DualHalf)
  /-- DUAL_ICMP_LT_S32 (R37): Dual half signed less-than compare. -/
  | dualIcmpLtS32 (x : HalfFields) (y : DualHalf)
  /-- DUAL_ICMP_LT_N32 (R37): Dual half natural less-than compare. -/
  | dualIcmpLtN32 (x : HalfFields) (y : DualHalf)
  /-- DUAL_ICMP_LE_S32 (R37): Dual half signed less-or-equal compare. -/
  | dualIcmpLeS32 (x : HalfFields) (y : DualHalf)
  /-- DUAL_ICMP_LE_N32 (R37): Dual half natural less-or-equal compare. -/
  | dualIcmpLeN32 (x : HalfFields) (y : DualHalf)
  /-- PAND (R37): Dual half predicate AND. -/
  | pand (x : HalfFields) (y : DualHalf)
  /-- POR (R37): Dual half predicate OR. -/
  | por (x : HalfFields) (y : DualHalf)
  /-- PXOR (R37): Dual half predicate XOR. -/
  | pxor (x : HalfFields) (y : DualHalf)
  /-- PNOT (R37): Dual half predicate NOT. -/
  | pnot (x : HalfFields) (y : DualHalf)
  /-- PMOV (R37): Dual half predicate move. -/
  | pmov (x : HalfFields) (y : DualHalf)
  /-- DUAL_FADD (R37): Dual half floating add under RNE. -/
  | dualFadd (x : HalfFields) (y : DualHalf)
  /-- DUAL_FSUB (R37): Dual half floating subtract under RNE. -/
  | dualFsub (x : HalfFields) (y : DualHalf)
  /-- DUAL_FMUL (R37): Dual half floating multiply under RNE. -/
  | dualFmul (x : HalfFields) (y : DualHalf)
  /-- DUAL_FMIN (R37): Dual half floating minimum. -/
  | dualFmin (x : HalfFields) (y : DualHalf)
  /-- DUAL_FMAX (R37): Dual half floating maximum. -/
  | dualFmax (x : HalfFields) (y : DualHalf)
  /-- DUAL_FABS (R37): Dual half floating absolute value. -/
  | dualFabs (x : HalfFields) (y : DualHalf)
  /-- DUAL_FNEG (R37): Dual half floating negate. -/
  | dualFneg (x : HalfFields) (y : DualHalf)
  /-- DUAL_POPC (R37): Dual half population count. -/
  | dualPopc (x : HalfFields) (y : DualHalf)
  /-- DUAL_CLZ (R37): Dual half leading-zero count. -/
  | dualClz (x : HalfFields) (y : DualHalf)
  /-- DUAL_BREV (R37): Dual half bit reverse. -/
  | dualBrev (x : HalfFields) (y : DualHalf)
  /-- DUAL_IABS (R37): Dual half wrapping absolute value. -/
  | dualIabs (x : HalfFields) (y : DualHalf)
  /-- DUAL_FCMP_LT_F32 (R37): Dual half f32 less-than compare into a predicate. -/
  | dualFcmpLtF32 (x : HalfFields) (y : DualHalf)
  /-- NONCE_READ (R85): A read of nonce returns fresh entropy and latches it as the debug-unlock nonce. -/
  | nonceRead (o : PairOp)
  /-- ENTROPY_READ (R459): A read of entropy waits for 64 tested bits from the entropy source. -/
  | entropyRead (o : PairOp)
  /-- KEYWIPE_WRITE (R450): Writing 1 to keywipe starts a wipe of every tenant key and its regions. -/
  | keywipeWrite (o : PairOp)
  /-- DBGCTL_WRITE (R451): A write to dbgctl sets or clears debug port, stops and sampling under lifecycle and wipe conditions. -/
  | dbgctlWrite (o : PairOp)
  /-- MEASURE_WRITE (R457): A write to measure extends the measurement value by a 64-byte record. -/
  | measureWrite (o : PairOp)
  /-- MBWAIT_READ (R183): A read of mbwait waits until the mailbox holds a record. -/
  | mbwaitRead (o : PairOp)
  /-- DROP_WRITE (R183): A write to drop pre-empts the named wave of the core. -/
  | dropWrite (o : PairOp)
  /-- REPRIO_WRITE (R183): A write to reprio changes a user wave's class, reserving park room when needed. -/
  | reprioWrite (o : PairOp)
  /-- ILLEGAL_OPCODE (R36): A word with form 11, an unassigned full opcode or an unassigned dual code reaches issue and raises 0x01 or 0x02 with no change of state. -/
  | illegalOpcode (word : W64) (code : BitVec 8)
  /-- SEGMENT_FETCH_COMPLETE (R245): A segment fetch into the instruction store completes or faults. -/
  | segmentFetchComplete (core index : Nat)
  /-- LAUNCH_QUEUE_HANDOFF (R422): The launch queue hands a record to a run-queue controller by class and age. -/
  | launchQueueHandoff (cluster : Nat)
  /-- LAUNCH_RECORD_ACCEPT (R417): The run-queue controller reads and checks a launch record and copies its parameters, or refuses it. -/
  | launchRecordAccept (cluster : Nat)
  /-- TEAM_PLACEMENT (R146): A run-queue controller places a team and creates all its waves at once. -/
  | teamPlacement (cluster core : Nat) (slots : List Nat)
  /-- WAVE_RETIRE (R150): A wave whose slices ended and counters reached 0 ends mappings, unbinds queues and frees its slot. -/
  | waveRetire (core slot : Nat)
  /-- REGANG_RELEASE (R73): Every named slice has arrived and the waiters form one gang. -/
  | regangRelease (w : SliceRef)
  /-- SEGMENT_MEETING_RELEASE (R123): All slices of a segment meet at a cross-lane instruction and issue as one gang. -/
  | segmentMeetingRelease (w : SliceRef)
  /-- SHMAP_PAIRING (R57): The partner's matching SHMAP arrives and the shared range takes effect. -/
  | shmapPairing (w : SliceRef)
  /-- BWAIT_RELEASE (R213): A barrier phase change or fault releases a BWAIT with an acquire. -/
  | bwaitRelease (w : SliceRef)
  /-- WAITCMP_MONITOR_READ (R209): A monitor rereads its word on a write to the line or every 1,024 cycles, releasing satisfied slices. -/
  | waitcmpMonitorRead (w : SliceRef)
  /-- KERNEL_OP_BEGIN (R311): A waiting kernel instruction's operation commits at its object's home. -/
  | kernelOpBegin (w : SliceRef)
  /-- MMA_PASS_ENTER (R299): A pass with ready operands and free shadows enters the matrix array. -/
  | mmaPassEnter (core : Nat)
  /-- MMA_COMMIT (R302): A pass's shadow strips are committed into their tiles as one region edge. -/
  | mmaCommit (core : Nat)
  /-- COPY_QUEUE_READ_RECORD (R217): The copy queue reads a kicked record, checks it and accepts or refuses it. -/
  | copyQueueReadRecord (cluster : Nat)
  /-- COPY_GRANULE (R218): An engine writes one granule, counts down the barrier and advances the cursor. -/
  | copyGranule (cluster engine : Nat)
  /-- QUEUE_LOAD_ROW_FETCH (R163): The load engine fetches a stream row ahead of the pops. -/
  | queueLoadRowFetch (core slot q : Nat)
  /-- QUEUE_STORE_ROW_PERFORM (R163): The store engine performs a pushed row as plain stores. -/
  | queueStoreRowPerform (core slot q : Nat)
  /-- USER_TRAP_DELIVERY (R172): A floating-point trap is delivered to the user handler as a region edge, after any segment fetch. -/
  | userTrapDelivery (w : SliceRef)
  /-- LAUNCH_COMPLETION_REPORT (R418): The completion word is written with a release at .SY and the irq event counted. -/
  | launchCompletionReport (launch : Nat)
  /-- WAITC_RELEASE (R65): A WAITC resumes once its counter falls to the threshold. -/
  | waitcRelease (w : SliceRef)
  /-- FENCE_DRAIN_COMPLETE (R208): A fence or release finds its awaited accesses done and proceeds. -/
  | fenceDrainComplete (w : SliceRef)
  /-- MBACT_RETRY (R184): Action 0 removes the head record and reissues the slice's instruction. -/
  | mbactRetry (core : Nat)
  /-- MBACT_SKIP (R184): Action 1 removes the record and advances the slice past the instruction as a region edge. -/
  | mbactSkip (core : Nat)
  /-- MBACT_END_SLICE (R184): Action 2 removes the record and ends the slice as if every lane exited. -/
  | mbactEndSlice (core : Nat)
  /-- MBACT_FORWARD (R184): Action 3 removes the record and delivers the trap to the user handler. -/
  | mbactForward (core : Nat)
  /-- MBACT_REPLY (R184): Action 4 writes the reply registers into the SVC slice and continues it. -/
  | mbactReply (core : Nat)
  /-- MBACT_END_WAVE (R184): Action 5 removes the record and ends every slice of the wave. -/
  | mbactEndWave (core : Nat)
  /-- MBACT_DISMISS (R184): Action 6 removes a kind 5 or 6 record and marks it served. -/
  | mbactDismiss (core : Nat)
  /-- MBACT_UNASSIGNED (R184): Action 7 acts as end slice or dismiss by record kind. -/
  | mbactUnassigned (core : Nat)
  /-- MEMREAD (R454): Debug command reading HBM as a secure home read. -/
  | memread (src : DebugSource)
  /-- MEMWRITE (R454): Debug command writing HBM as a secure plain write. -/
  | memwrite (src : DebugSource)
  /-- REGREAD (R454): Debug command reading a register of a stopped slice. -/
  | regread (src : DebugSource)
  /-- REGWRITE (R454): Debug command writing a register of a stopped slice. -/
  | regwrite (src : DebugSource)
  /-- SRREAD (R454): Debug command reading a user special register of a stopped slice. -/
  | srread (src : DebugSource)
  /-- SRWRITE (R454): Debug command writing tvec, tmask or fflags of a stopped slice. -/
  | srwrite (src : DebugSource)
  /-- FUSEREAD (R454): Debug command reading a fuse word. -/
  | fuseread (src : DebugSource)
  /-- FUSEBLOW (R454): Debug command blowing fuse bits in BLANK or MFG. -/
  | fuseblow (src : DebugSource)
  /-- GENSECRET (R454): Debug command generating the device secret in BLANK or MFG. -/
  | gensecret (src : DebugSource)
  /-- CMDPORT (R454): Debug command sending a message to the secure control port. -/
  | cmdport (src : DebugSource)
  /-- EXTEST (R453): TAP instruction driving boundary-scan cells. -/
  | extest (dr : List Bool)
  /-- SAMPLE_PRELOAD (R453): TAP instruction sampling or preloading boundary-scan cells. -/
  | samplePreload (pins dr : List Bool)
  /-- DBGREQ (R453): TAP instruction whose Update-DR submits a debug request. -/
  | dbgreq (dr : BitVec 192)
  /-- BYPASS (R453): TAP bypass, taken by every unimplemented code. -/
  | bypass (code : BitVec 8)
  /-- RECOVERY_GO (R456): Writing go in the recovery window starts a fetch of a host-delivered image. -/
  | recoveryGo (addr len : W64)
  /-- RECOVERY_FETCH_COMPLETE (R456): The recovery fetch ends; the image is checked and accepted or rejected. -/
  | recoveryFetchComplete (failed : Bool)
  /-- HOST_TAIL_SNOOP (R420): A snoop of a queue's tail line makes the device reread the tail. -/
  | hostTailSnoop (queue : Nat) (writes : List (Nat × Byte))
  /-- HOST_QUEUE_RECORD_HANDOFF (R420): A host queue record is read, handed to the launch queue when it has room, and head is written. -/
  | hostQueueRecordHandoff (queue : Nat)
  /-- HOST_REQUEST_RECORD (R428): A request-queue record is appended to the named supervisor's mailbox as kind 6. -/
  | hostRequestRecord (queue : Nat)
  /-- PLACEMENT_AGE_BLOCK (R423): A team waiting 100 µs blocks younger placements on its cores. -/
  | placementAgeBlock (cluster : Nat)
  /-- WAVE_DROP (R191): A victim wave is clamped, its loads cancelled, its slices parked and its resources freed. -/
  | waveDrop (core slot : Nat)
  /-- COMPACTION_COPY (R158): The compaction engine holds a wave, copies its register block and releases it. -/
  | compactionCopy (core slot : Nat)
  /-- COMPACTION_HOLD_TIMEOUT (R158): A held wave's counters do not drain in 2,048 cycles and it is released unmoved. -/
  | compactionHoldTimeout (core slot : Nat)
  /-- WAVE_RESTART (R196): A parked wave is restored into a new block at its restart points. -/
  | waveRestart (core entry slot : Nat)
  /-- LOAD_RETURN (R64): A load's data returns and is written unless its tag generation is stale. -/
  | loadReturn (id : Nat)
  /-- STORE_PERFORMED (R64): A store is performed at its home and its counter falls. -/
  | storePerformed (id : Nat)
  /-- PAGE_WALK_COMPLETE (R234): The page walker finishes a walk with a translation or a fault. -/
  | pageWalkComplete (cluster : Nat)
  /-- SHOOTDOWN_RECEIPT (R236): A cluster or engine drops matching translations on receiving a shootdown. -/
  | shootdownReceipt (cluster id : Nat)
  /-- SHOOTDOWN_ACK (R236): A core or engine acknowledges once old-entry accesses have been performed. -/
  | shootdownAck (cluster id : Nat)
  /-- ATOM_HOME_PERFORM (R202): An atomic is performed at its home as one read-modify-write and returns its old value. -/
  | atomHomePerform (id : Nat)
  /-- REDM_APPLY (R206): A memory-side reduction is applied in the base die. -/
  | redmApply (id : Nat)
  /-- REPLICA_UPDATE (R243): A write to a replicated page updates the other die's replica. -/
  | replicaUpdate (die : Nat)
  /-- HOST_MEMORY_ACCESS (R427): A host CXL.mem access to exposed HBM is performed at the LLC home. -/
  | hostMemoryAccess (a : HostAccess)
  /-- WAITCMP_TIMEOUT (R209): The cluster counter passes the timeout and WAITCMP returns its last values. -/
  | waitcmpTimeout (w : SliceRef)
  /-- FULL_EMPTY_PROCEED (R160): A shared register reaches a state that lets a waiting access proceed. -/
  | fullEmptyProceed (w : SliceRef)
  /-- MAILBOX_APPEND (R181): A record waiting for a mailbox place is appended when one frees. -/
  | mailboxAppend (core : Nat)
  /-- SRAM_UNCORRECTABLE_ERROR (R475): An uncorrectable SRAM word poisons a line, retires a bank or writes the core's fatal record. -/
  | sramUncorrectableError (site : SramSite)
  /-- KERNEL_RESULT_RETURN (R312): A kernel instruction's result pair is written and path 5 falls. -/
  | kernelResultReturn (w : SliceRef)
  /-- TIMER_EXPIRY (R350): A deadline reaches the cluster counter and the timer's expiry is set at its home. -/
  | timerExpiry (cluster index : Nat)
  /-- WSWAIT_TIMEOUT (R323): A WSWAIT's timeout passes and it returns status 2. -/
  | wswaitTimeout (w : SliceRef)
  /-- WAIT_SET_MEMBER_READY (R349): A member's readiness changes and waiting slices are woken. -/
  | waitSetMemberReady (set : Nat)
  /-- GRAPH_NODE_COMPLETE (R352): A graph launch completes; successors count down, conditions are judged and the graph re-arms or ends. -/
  | graphNodeComplete (launch : Nat)
  /-- COALESCER_HOLD_EXPIRY (R431): A vector's hold time expires with a nonzero count and the vector is raised. -/
  | coalescerHoldExpiry (vector : Nat)
  /-- COPY_DISPLACE (R198): A class 0 request sets aside the youngest lowest-class request at its boundary. -/
  | copyDisplace (cluster engine : Nat)
  /-- WLD_LOAD_COMPLETE (R281): A weight slot's load finishes and waiting MMAs may use it. -/
  | wldLoadComplete (core slot w : Nat)
  /-- GANG_BOOST (R424): A gang ready 256 cycles without issuing becomes boosted in its class. -/
  | gangBoost (core slot slice : Nat)
  /-- SAMPLE_TAKE (R466): At window cycle 32k a sample of a non-issuing wave is taken. -/
  | sampleTake (core slot : Nat)
  /-- PACKET_RECEIVE (R363): A destination checks a whole packet and performs it in stream order or discards it. -/
  | packetReceive (port : Nat) (p : Packet)
  /-- BRIDGE_FORWARD (R363): A bridge forwards a detour packet, stomping it on a failed flit. -/
  | bridgeForward (port : Nat) (p : Packet) (failed : Bool)
  /-- STOMPED_NOTICE_RECEIVE (R364): A stomped notice makes the source resend the packet. -/
  | stompedNoticeReceive (dst vc seq : Nat)
  /-- NACK_RECEIVE (R364): A negative acknowledgement makes the source resend the packet. -/
  | nackReceive (dst vc seq : Nat)
  /-- RESEND_TIMEOUT (R364): Eight microseconds without response triggers a resend or, after five attempts, 0x41. -/
  | resendTimeout (dst vc seq : Nat)
  /-- FABRIC_RESPONSE_RECEIVE (R370): A peer response returns data or an error and path 4 falls. -/
  | fabricResponseReceive (dst vc seq : Nat) (r : PeerReply)
  /-- BUFFER_BANK_RETIRE (R365): An uncorrectable buffer error retires a bank and reassigns the port's channels. -/
  | bufferBankRetire (port bank : Nat)
  /-- ACCESS_TABLE_UPDATE (R366): A management update to an access table completes when every replica acknowledges. -/
  | accessTableUpdate (id : TableWork)
  /-- GRANT_ENTRY_REMOVE_ACK (R353): The owning package acknowledges removal of a grant entry once admitted requests are performed. -/
  | grantEntryRemoveAck (id : Nat)
  /-- RING_READY_MARK_RECEIVE (R379): A member's ready mark arrives; when all agree the ring runs, or a mismatch fails it. -/
  | ringReadyMarkReceive (m : ReadyMark)
  /-- ROTJOIN_TIMEOUT (R379): ROTJOIN's timeout passes and it returns status 2. -/
  | rotjoinTimeout (w : SliceRef)
  /-- RING_BLOCK_INJECT (R397): The rotation engine copies an own local block into a free slot. -/
  | ringBlockInject (ring index : Nat)
  /-- RING_RESERVATION_RECEIVE (R398): A receiver's freeing signal lets the sender forward the block for that index. -/
  | ringReservationReceive (ring index : Nat)
  /-- RING_BLOCK_PACKET_RECEIVE (R398): A ring block packet lands in its reserved slot. -/
  | ringBlockPacketReceive (ring index : Nat) (data : RingPacket)
  /-- RING_INDEX_FREE (R398): An index consumed and fully forwarded is freed and index + 4 is reserved or injected. -/
  | ringIndexFree (ring index : Nat)
  /-- AE_BLOCK_CONSUME (R382): The attention engine consumes one block for every query row and advances done. -/
  | aeBlockConsume (cluster : Nat)
  /-- AEWAIT_TIMEOUT (R383): AEWAIT's timeout passes and it returns status 2. -/
  | aewaitTimeout (w : SliceRef)
  /-- ROTEND_COMPLETE (R384): A waiting ROTEND finds this chip's work over and ends the ring. -/
  | rotendComplete (w : SliceRef)
  /-- RING_FAILURE_NOTICE (R407): A failure notice sets the ring Failed, fails the job and is relayed. -/
  | ringFailureNotice (ringid : W32) (code : BitVec 8)
  /-- XKICK_QUEUE_PLACE (R217): An XKICK waiting for a copy queue place begins when one frees. -/
  | xkickQueuePlace (w : SliceRef)
  /-- CLIQUE_FORMATION (R356): Secure firmware forms the clique, assigns chip numbers and brings Efgil ports into service. -/
  | cliqueFormation (size chip : Nat) (ports : List (Nat × Nat))
  /-- CXL_HOST_LINK_BRINGUP (R478): Firmware brings the CXL host links to service, after which host accesses stop receiving configuration retry responses. -/
  | cxlHostLinkBringup (base bytes : Nat)
  /-- DEBUG_DOORBELL_WRITE (R456): A host write of 1 to the BAR 0 doorbell submits the debug request held in the debug window. -/
  | debugDoorbellWrite (req : BitVec 192)
  /-- CXL_CACHE_SNOOP (R237): A host snoop of a host-memory line held in an LLC slice under CXL.cache is honoured as CXL.cache requires. -/
  | cxlCacheSnoop (line : Nat)
  /-- STALL_CYCLE (R463): In a cycle of a wave's counting window in which no gang of the wave issues, exactly one of its stall counters is incremented. -/
  | stallCycle (core slot : Nat)
  /-- TRET (R82): Returns from a user trap handler to the instruction after tpc. -/
  | tret
  /-- KEYWIPE_COMPLETE (R450): The wipe finishes discarding cached lines and keywipe reads 0 again. -/
  | keywipeComplete
  /-- CMD_SHOOTDOWN (R343): Control-port command 1 performs a shootdown of a process address range. -/
  | cmdShootdown
  /-- CMD_SET_HANDLE_TABLE (R343): Command 2 copies a process's handle table to a new table and switches to it. -/
  | cmdSetHandleTable
  /-- CMD_CREATE_PROCESS (R343): Command 3 creates a process with its world, vector window and root. -/
  | cmdCreateProcess
  /-- CMD_END_PROCESS (R343): Command 4 closes every handle of a process. -/
  | cmdEndProcess
  /-- CMD_SET_HOST_QUEUE (R421): Command 5 reads a queue descriptor and enables or disables a host queue. -/
  | cmdSetHostQueue
  /-- CMD_SET_VECTOR (R431): Command 6 sets a vector's threshold and hold time and zeroes its count. -/
  | cmdSetVector
  /-- CMD_INSTALL_KEY (R449): Command 7 installs a memory or link key into both key tables. -/
  | cmdInstallKey
  /-- CMD_ATTEST (R458): Command 8 writes a signed attestation report for a challenge. -/
  | cmdAttest
  /-- CMD_TRACE_RING (R460): Command 9 names or disables a cluster's trace ring. -/
  | cmdTraceRing
  /-- CMD_SET_STOPS (R469): Command 10 sets a process's stop and step flags. -/
  | cmdSetStops
  /-- CMD_RESUME (R470): Command 11 resumes named stopped slices of a wave. -/
  | cmdResume
  /-- CMD_COUNTER_SNAPSHOT (R471): Command 12 writes a counter bank snapshot and optionally clears it. -/
  | cmdCounterSnapshot
  /-- CMD_FUSEBLOW (R447): Command 13 with bit 16 clear blows the bits of a mask in a fuse word. -/
  | cmdFuseblow
  /-- CMD_GENSECRET (R447): Command 13 with bit 16 set blows the device secret from fresh entropy. -/
  | cmdGensecret
  /-- CMD_EVENT_RING (R430): Command 14 names the device event ring and writes held events. -/
  | cmdEventRing
  /-- FUSE_BLOW_COMPLETE (R447): An accepted fuse operation finishes blowing its bits and answers. -/
  | fuseBlowComplete
  /-- IDCODE (R453): TAP instruction selecting the 32-bit identification register. -/
  | idcode
  /-- DBGRSP (R453): TAP instruction capturing the current debug response. -/
  | dbgrsp
  /-- TEST_LOGIC_RESET (R453): TAP reset leaves IDCODE in the instruction register. -/
  | testLogicReset
  /-- RESET_RELEASE (R478): Reset is released after rails and reference clock are stable. -/
  | resetRelease
  /-- POWER_FAULT_HOLD (R477): Overtemperature or input out of range holds the package in reset. -/
  | powerFaultHold
  /-- HOST_CLEAR_CONDITION (R477): The host clears the fault through the management connector and the package leaves reset. -/
  | hostClearCondition
  /-- ENTROPY_HEALTH_FAIL (R459): Sixteen consecutive health failures latch the entropy source failed. -/
  | entropyHealthFail
deriving DecidableEq, Repr

end Sys2Proof
end

