-- ==== Sys2Proof/WellFormed.lean ====
section
/-!
DEFINITION. Which instructions are legal words: the field kinds and register rules of 01 R26 to R31, the pairing rules
of 01 R34, and the operand limits each reference entry adds (decode step 4 of 01 R39).
-/

namespace Sys2Proof

/-! ### Registers and sources -/

def Reg.isV : Reg → Bool
  | .v _ => true
  | _ => false

def Reg.isS : Reg → Bool
  | .s _ => true
  | _ => false

def Reg.isQ : Reg → Bool
  | .q _ => true
  | _ => false

/-- A field that carries a 64-bit value names an even v or s register, or a queue (01 R28). -/
def Reg.evenOk : Reg → Bool
  | .v n => !n.getLsbD 0
  | .s n => !n.getLsbD 0
  | .q _ => true

/-- The register may stand in a field of 32 bits, or of 64 when wide is set. -/
def Reg.widthOk (r : Reg) (wide : Bool) : Bool := !wide || r.evenOk

/-- A last-read bit stands on a v or s register only (01 R31). -/
def Src.markOk (x : Src) : Bool := !x.last || !x.reg.isQ

/-- No queue is read twice (01 R28). -/
def queuesOnce (l : List Reg) : Bool := decide (l.filter Reg.isQ).Nodup

/-- A word that pops or pushes a queue takes no lookahead (02 R43). -/
def lookOk (allowed : Bool) (look : BitVec 4) (fields : List Reg) : Bool :=
  look == 0 || (allowed && !fields.any Reg.isQ)

/-- An instruction with an s destination reads no v register (02 R41). -/
def uniformOk (d : Reg) (reads : List Reg) : Bool := !d.isS || !reads.any Reg.isV

/-- Types of 64 bits (02 R42). -/
def Ty.wide : Ty → Bool
  | .n64 | .s64 | .f64 => true
  | _ => false

/-! ### Arithmetic words -/

/-- What a reference entry lets an arithmetic opcode's modifier field hold, and which fields stay 32 bits wide. -/
structure AluSpec where
  types : List Ty
  rnd : Bool := false
  sat : Bool := false
  look : Bool := false
  marks : Bool := true
  /-- source b is one 32-bit register whatever the type (02 R42, 04 R114) -/
  bWord : Bool := false
  /-- source b names no queue -/
  bPlain : Bool := false
  /-- the destination is one 32-bit register whatever the type (04 R114) -/
  dWord : Bool := false

/-- The modifier limits that do not depend on the fields. -/
def AluSpec.modOk (p : AluSpec) (ty : Ty) (rnd : Rnd) (sat : Bool) : Bool :=
  p.types.contains ty && (p.rnd || rnd == .rne) && (p.sat || !sat)

def Alu1.wf (p : AluSpec) (o : Alu1) : Bool :=
  p.modOk o.ty o.rnd o.sat && lookOk p.look o.look [o.d, o.a.reg]
    && o.d.widthOk (o.ty.wide && !p.dWord) && o.a.reg.widthOk o.ty.wide
    && o.a.markOk && (p.marks || !o.a.last) && uniformOk o.d [o.a.reg]

def Alu2.wf (p : AluSpec) (o : Alu2) : Bool :=
  p.modOk o.ty o.rnd o.sat && lookOk p.look o.look [o.d, o.a.reg, o.b.reg]
    && o.d.widthOk o.ty.wide && o.a.reg.widthOk o.ty.wide && o.b.reg.widthOk (o.ty.wide && !p.bWord)
    && o.a.markOk && o.b.markOk && (!p.bPlain || !o.b.reg.isQ)
    && queuesOnce [o.a.reg, o.b.reg] && uniformOk o.d [o.a.reg, o.b.reg]

def Alu3.wf (p : AluSpec) (o : Alu3) : Bool :=
  p.modOk o.ty o.rnd o.sat && lookOk p.look o.look [o.d, o.a.reg, o.b.reg, o.c.reg]
    && o.d.widthOk o.ty.wide && o.a.reg.widthOk o.ty.wide && o.b.reg.widthOk o.ty.wide && o.c.reg.widthOk o.ty.wide
    && o.a.markOk && o.b.markOk && o.c.markOk
    && queuesOnce [o.a.reg, o.b.reg, o.c.reg] && uniformOk o.d [o.a.reg, o.b.reg, o.c.reg]

/-- Full B arithmetic (01 R22). -/
def AluI.wf (o : AluI) : Bool := uniformOk o.d [o.a]

/-- Full B shifts: a count of 0 to 31 (01 R22). -/
def AluI.wfShift (o : AluI) : Bool := uniformOk o.d [o.a] && o.imm.toNat < 32

def intTypes : List Ty := [.n32, .s32, .n64, .s64]
def fpTypes : List Ty := [.f32, .f64, .f16x2, .bf16x2]
def addTypes : List Ty := [.n32, .s32, .n64, .s64, .n16x2, .s16x2, .n8x4, .s8x4]

/-- The limits of each arithmetic opcode (02 R45, R47, R55; 04 R106, R114, R115, R118). -/
def specIadd : AluSpec := { types := addTypes, sat := true }
def specImul : AluSpec := { types := [.n32, .s32, .n64, .s64, .n16x2, .s16x2], sat := true }
def specImulh : AluSpec := { types := intTypes }
def specImad : AluSpec := { types := intTypes, sat := true }
def specIdiv : AluSpec := { types := intTypes, look := true }
def specImin : AluSpec := { types := addTypes }
def specIabs : AluSpec := { types := [.s32, .s64, .s16x2, .s8x4], sat := true }
def specLogic : AluSpec := { types := [.b32, .n64] }
def specShift : AluSpec := { types := intTypes, bWord := true }
def specRot : AluSpec := { types := [.n32, .n64], bWord := true }
def specBits : AluSpec := { types := [.b32] }
/-- DEDUCED, log 49. -/
def specMov : AluSpec := { types := [.b32, .n64], marks := false }
def specFadd : AluSpec := { types := fpTypes, rnd := true, sat := true }
def specFmin : AluSpec := { types := fpTypes }
def specFscale : AluSpec := { types := [.f32, .f64], rnd := true, sat := true, bWord := true, bPlain := true }
def specFexp : AluSpec := { types := [.f32, .f64], dWord := true }
def specFdot2 : AluSpec := { types := [.f16x2, .bf16x2], rnd := true, sat := true }
def specFdot4 : AluSpec := { types := [.e4m3x4, .e5m2x4], rnd := true, sat := true }
def specRcp : AluSpec := { types := [.f32, .f64], rnd := true, look := true }
def specSpecial : AluSpec := { types := [.f32], rnd := true, look := true }

/-! ### Words with layouts of their own -/

def BfeOp.wf (o : BfeOp) : Bool :=
  o.a.markOk && o.b.markOk && queuesOnce [o.a.reg, o.b.reg] && uniformOk o.d [o.a.reg, o.b.reg]

def Bits3Op.wf (o : Bits3Op) : Bool :=
  o.a.markOk && o.b.markOk && o.c.markOk && queuesOnce [o.a.reg, o.b.reg, o.c.reg]
    && uniformOk o.d [o.a.reg, o.b.reg, o.c.reg]

def IcmpOp.wf (o : IcmpOp) : Bool :=
  intTypes.contains o.ty && o.a.reg.widthOk o.ty.wide && o.b.reg.widthOk o.ty.wide
    && o.a.markOk && o.b.markOk && queuesOnce [o.a.reg, o.b.reg]

def PickOp.wf (o : PickOp) : Bool :=
  [Ty.b32, .n64].contains o.ty && o.d.widthOk o.ty.wide && o.a.reg.widthOk o.ty.wide && o.b.reg.widthOk o.ty.wide
    && o.a.markOk && o.b.markOk && queuesOnce [o.a.reg, o.b.reg] && uniformOk o.d [o.a.reg, o.b.reg]

/-- The index and the data register of MOVX are v or s registers (02 R56). -/
def MovxOp.wf (o : MovxOp) : Bool :=
  !o.idx.isQ && match o.dir with
    | .read _ => true
    | .write a => !a.isQ

/-- DEDUCED, log 49. -/
def LeaOp.wf (o : LeaOp) : Bool :=
  o.d.evenOk && o.a.reg.evenOk && o.a.markOk && o.b.markOk && queuesOnce [o.a.reg, o.b.reg]
    && uniformOk o.d [o.a.reg, o.b.reg]

def FcmpOp.wf (o : FcmpOp) : Bool :=
  [Ty.f32, .f64].contains o.ty && o.a.reg.widthOk o.ty.wide && o.b.reg.widthOk o.ty.wide
    && o.a.markOk && o.b.markOk && queuesOnce [o.a.reg, o.b.reg]

def FclassOp.wf (o : FclassOp) : Bool :=
  [Ty.f32, .f64].contains o.ty && o.a.reg.widthOk o.ty.wide && o.a.markOk && o.b.markOk && !o.b.reg.isQ

def FrndOp.wf (o : FrndOp) : Bool :=
  fpTypes.contains o.ty && o.d.widthOk o.ty.wide && o.a.reg.widthOk o.ty.wide && o.a.markOk && uniformOk o.d [o.a.reg]

/-- How many of a, b and c a conversion code reads (04 R116). -/
def cvtReads (code : Nat) : Nat :=
  if 0x1A ≤ code ∧ code ≤ 0x1D then 3
  else if code = 0x18 ∨ code = 0x19 ∨ (0x2C ≤ code ∧ code ≤ 0x2F) then 2
  else 1

/-- The conversion code writes a pair (04 R116). -/
def cvtWideD (code : Nat) : Bool :=
  [0x04, 0x05, 0x06, 0x07, 0x0A, 0x0B, 0x0E, 0x0F, 0x10, 0x14, 0x15].contains code

/-- The conversion code reads a pair (04 R116). -/
def cvtWideA (code : Nat) : Bool :=
  [0x02, 0x03, 0x06, 0x07, 0x0C, 0x0D, 0x0E, 0x0F, 0x11, 0x12, 0x13].contains code

/-- The sources a conversion reads. -/
def CvtOp.sources (o : CvtOp) : List Reg := o.a :: (o.b.toList ++ o.c.toList)

/-- CVT (04 R116): a last-read bit needs a v or s source to mark. -/
def CvtOp.wf (o : CvtOp) : Bool :=
  o.code.toNat < 0x3C && (o.b.isSome == decide (2 ≤ cvtReads o.code.toNat))
    && (o.c.isSome == decide (cvtReads o.code.toNat = 3))
    && o.d.widthOk (cvtWideD o.code.toNat) && o.a.widthOk (cvtWideA o.code.toNat)
    && (!o.last || o.sources.any (fun r => !r.isQ)) && queuesOnce o.sources && uniformOk o.d o.sources

def ShflOp.wf (o : ShflOp) : Bool :=
  [Ty.b32, .n64].contains o.ty && (!o.ty.wide || (!o.d.getLsbD 0 && !o.a.getLsbD 0))
    && !o.b.reg.isQ && o.seg.toNat ≤ 4

/-- REDL and SCANL name the operations differently (04 R127). (DEDUCED, log 49) -/
def LaneRedOp.wf (logic : List Nat) (maxOp : Nat) (o : LaneRedOp) : Bool :=
  [Ty.n32, .s32, .n64, .s64, .f32, .f64, .f16x2, .bf16x2, .b32].contains o.ty
    && (!o.ty.wide || (!o.d.getLsbD 0 && !o.a.getLsbD 0))
    && (!logic.contains o.op.toNat || [Ty.b32, .n64].contains o.ty)
    && o.op.toNat ≤ maxOp

def RdlaneOp.wf (o : RdlaneOp) : Bool :=
  [Ty.b32, .n64].contains o.ty && (!o.ty.wide || (!o.d.getLsbD 0 && !o.a.getLsbD 0))

def S2pOp.wf (o : S2pOp) : Bool := !o.a.isQ

/-- BRX reads a v or s register (02 R69). -/
def BrxOp.wf (o : BrxOp) : Bool := !o.a.reg.isQ

/-! ### Special registers (02 R85, 09 R183) -/

/-- The assigned special-register numbers. -/
def specialNumbers : List Nat :=
  [0x000, 0x001, 0x002, 0x003, 0x004, 0x005, 0x006, 0x007, 0x008, 0x009, 0x00A, 0x00B, 0x00C, 0x00D, 0x00E,
   0x040, 0x041, 0x042, 0x043, 0x044, 0x045, 0x046, 0x047, 0x048, 0x049, 0x04A, 0x04B, 0x04C, 0x04D, 0x04E, 0x04F,
   0x050, 0x051,
   0x100, 0x101, 0x102, 0x103, 0x104, 0x105, 0x106, 0x107, 0x108, 0x109, 0x10A]

/-- Reads that have a row of their own: mbwait, nonce, entropy. -/
def ownReads : List Nat := [0x041, 0x106, 0x10A]
/-- Writes that have a row of their own: drop, reprio, keywipe, dbgctl, measure. -/
def ownWrites : List Nat := [0x050, 0x051, 0x107, 0x108, 0x109]

def RsrOp.wf (o : RsrOp) : Bool :=
  specialNumbers.contains o.num.toNat && !ownReads.contains o.num.toNat
    && match o.d with
      | .pair _ => o.num != 0x009
      | .lane _ => o.num == 0x009

def WsrOp.wf (o : WsrOp) : Bool :=
  specialNumbers.contains o.num.toNat && !ownWrites.contains o.num.toNat

/-! ### Memory words -/

/-- The limits of one plain memory opcode: whether it takes lookahead, its space and whether its data is a pair. -/
structure MemSpec where
  load : Bool
  global : Bool := false
  param : Bool := false
  wide : Bool := false

/-- Plain loads and stores (01 R23, 02 R59, R60). -/
def MemOp.wf (p : MemSpec) (o : MemOp) : Bool :=
  (p.load || o.look == 0) && !o.data.isQ && !o.base.isQ && (!o.data.isS || o.base.isS)
    && (!p.global || o.base.evenOk) && (!p.param || o.base.isS) && (!p.wide || o.data.evenOk)

def PrefOp.wf (o : PrefOp) : Bool := !o.base.isQ && o.base.evenOk

/-- Types of 64 bits of ATOM. -/
def AtomTy.wide : AtomTy → Bool
  | .n64 | .s64 => true
  | _ => false

/-- The op and type pairs of 10 R201. -/
def atomPairOk : AtomKind → AtomTy → Bool
  | .add, .b32 | .min, .b32 | .max, .b32 => false
  | .add, _ | .min, _ | .max, _ => true
  | _, .b32 | _, .n64 => true
  | _, _ => false

/-- ATOM (10 R200, R201). (DEDUCED, log 49) -/
def AtomOp.wf (o : AtomOp) : Bool :=
  atomPairOk o.kind o.ty && !o.a.isQ && (o.space == .scratch || o.a.evenOk)
    && o.d.widthOk o.ty.wide && o.b.widthOk o.ty.wide && (o.c.isSome == (o.kind == .cas))
    && o.c.toList.all (fun r => r.widthOk o.ty.wide)
    && queuesOnce (o.b :: o.c.toList) && uniformOk o.d (o.a :: o.b :: o.c.toList)

/-- RED.M (10 R206). -/
def RedMOp.wf (o : RedMOp) : Bool :=
  [Ty.n32, .s32, .f32, .bf16x2].contains o.ty && !o.a.isQ && o.a.evenOk && o.b.markOk

def MonTy.wide : MonTy → Bool
  | .n64 | .s64 => true
  | _ => false

/-- WAITCMP (10 R209). -/
def WaitcmpOp.wf (o : WaitcmpOp) : Bool :=
  !o.a.isQ && (o.space == .scratch || o.a.evenOk) && o.d.widthOk o.ty.wide && o.b.widthOk o.ty.wide
    && uniformOk o.d [o.a, o.b]

/-- Paths 0 to 5 (02 R65). -/
def WaitcOp.wf (o : WaitcOp) : Bool := o.path.toNat ≤ 5

/-! ### Matrix words (14 R278) -/

/-- The block length bit stands only with q4. -/
def blockOk (fmt : MFmt) (wide : Bool) : Bool := fmt == .q4 || !wide

def ObresOp.wf (o : ObresOp) : Bool := blockOk o.fmt o.wide
def WldOp.wf (o : WldOp) : Bool := blockOk o.fmt o.wide
/-- Saturation only with s32. -/
def MmaOp.wf (o : MmaOp) : Bool := !o.sat || o.acc == .s32
def MrdOp.wf (o : MrdOp) : Bool := o.b.markOk && !o.b.reg.isQ
def MwrOp.wf (o : MwrOp) : Bool := o.a.markOk && o.b.markOk && !o.a.reg.isQ && !o.b.reg.isQ
/-- The scale and block-length bits stand only with target q4. -/
def MdrainOp.wf (o : MdrainOp) : Bool := o.target == .q4 || (o.scale == 0 && !o.wide)

/-! ### Kernel words (17 R308, 21 R373) -/

/-- A flag bit the opcode does not have is 0. -/
def K1Op.wf (flag : Bool) (o : K1Op) : Bool := flag || !o.flag
def K2Op.wf (flag : Bool) (o : K2Op) : Bool := flag || !o.flag

/-! ### Dual words (01 R24, R34, R37) -/

/-- How a dual opcode uses its two fields and its type field. -/
inductive DualUse where
  | nop
  /-- d := op(d, b) or d := op(b), with the types listed -/
  | arith (readsFirst : Bool) (types : List Ty)
  /-- d := op(d, imm7) or d := imm7; shift says the immediate is 0 to 31 -/
  | imm (readsFirst shift : Bool) (types : List Ty)
  /-- pk := cond(d, b) -/
  | cmp
  /-- predicates, reading the first field or not -/
  | pred (readsFirst : Bool)

def packTypes : List Ty := [.n32, .s32, .n16x2, .s16x2]
def dualFp : List Ty := [.f32, .f16x2, .bf16x2]

/-- The dual opcode map (01 R37). -/
def DualOp.use : DualOp → DualUse
  | .nop => .nop
  | .iadd | .isub | .imin | .imax => .arith true packTypes
  | .imul => .arith true [.n32, .s32]
  | .and | .or | .xor | .andn => .arith true [.b32]
  | .shl => .arith true [.n32]
  | .shr => .arith true [.n32, .s32]
  | .mov => .arith false [.b32]
  | .iaddi => .imm true false [.n32, .s32]
  | .movi => .imm false false [.s32]
  | .shli => .imm true true [.n32]
  | .shri => .imm true true [.n32, .s32]
  | .icmpEq | .icmpNe | .icmpLtS | .icmpLtN | .icmpLeS | .icmpLeN | .fcmpLt => .cmp
  | .pand | .por | .pxor => .pred true
  | .pnot | .pmov => .pred false
  | .fadd | .fsub | .fmul | .fmin | .fmax => .arith true dualFp
  | .fabs | .fneg => .arith false dualFp
  | .popc | .clz | .brev => .arith false [.b32]
  | .iabs => .arith false [.s32]

/-- Type codes as numbers (01 R29). -/
def Ty.code : Ty → BitVec 4
  | .n32 => 0 | .s32 => 1 | .n64 => 2 | .s64 => 3 | .f32 => 4 | .f16x2 => 5 | .bf16x2 => 6 | .f64 => 7
  | .n16x2 => 8 | .s16x2 => 9 | .n8x4 => 10 | .s8x4 => 11 | .e4m3x4 => 12 | .e5m2x4 => 13 | .b32 => 14

/-- A dual field names an s register when bit 6 is set (01 R24). -/
def HalfFields.firstS (f : HalfFields) : Bool := f.first.getLsbD 6
def HalfFields.secondS (f : HalfFields) : Bool := f.second.getLsbD 6

/-- One half alone (01 R24, R34 rules 3 and 4, R37). -/
def DualHalf.wf (h : DualHalf) : Bool :=
  (h.f.pred != 0 || !h.f.neg) &&
  match h.op.use with
  | .nop => h.f == { first := 0, second := 0, pred := 0, neg := false, tym := 0, last := false }
  | .arith _ types => types.any (fun t => t.code == h.f.tym) && (!h.f.firstS || h.f.secondS)
  | .imm _ shift types => types.any (fun t => t.code == h.f.tym) && !h.f.last && (!shift || h.f.second.toNat < 32)
  | .cmp => !h.f.firstS || h.f.secondS
  | .pred _ => h.f.tym == 0 && !h.f.last && !h.f.firstS && !h.f.secondS

/-- The vector registers a half reads: the second source, and the first field unless the map marks it not read. -/
def DualHalf.vReads (h : DualHalf) : List (BitVec 7) :=
  match h.op.use with
  | .nop | .pred _ => []
  | .arith rd _ => (if rd && !h.f.firstS then [h.f.first] else []) ++ (if h.f.secondS then [] else [h.f.second])
  | .imm rd _ _ => if rd && !h.f.firstS then [h.f.first] else []
  | .cmp => (if h.f.firstS then [] else [h.f.first]) ++ (if h.f.secondS then [] else [h.f.second])

/-- What a half writes: a register field, or a predicate. -/
def DualHalf.dest (h : DualHalf) : Option (Bool × BitVec 7) :=
  match h.op.use with
  | .nop => none
  | .arith _ _ | .imm _ _ _ => some (false, h.f.first)
  | .cmp => some (true, h.f.tym.setWidth 7)
  | .pred _ => some (true, h.f.first)

/-- The bank of a vector register (01 R33). -/
def bankOf (v : BitVec 7) : Nat := v.toNat % 4

/-- The pairing rules of 01 R34. -/
def dualWf (x y : DualHalf) : Bool :=
  x.wf && y.wf && x.vReads.all (fun a => y.vReads.all (fun b => bankOf a != bankOf b))
    && (x.dest == none || x.dest != y.dest)


/-- An instruction is well formed: a word the core does not refuse at decode step 4 or 5.  Events carry no word and are
well formed. -/
def Instr.wf : Instr → Bool
  | .iadd o => o.wf specIadd
  | .iaddImm o => o.wf
  | .isub o => o.wf specIadd
  | .isubImm o => o.wf
  | .imul o => o.wf specImul
  | .imulImm o => o.wf
  | .imulh o => o.wf specImulh
  | .imad o => o.wf specImad
  | .idiv o => o.wf specIdiv
  | .irem o => o.wf specIdiv
  | .imin o => o.wf specImin
  | .iminImm o => o.wf
  | .imax o => o.wf specImin
  | .imaxImm o => o.wf
  | .iabs o => o.wf specIabs
  | .and o => o.wf specLogic
  | .andImm o => o.wf
  | .or o => o.wf specLogic
  | .orImm o => o.wf
  | .xor o => o.wf specLogic
  | .xorImm o => o.wf
  | .andn o => o.wf specLogic
  | .andnImm o => o.wf
  | .shl o => o.wf specShift
  | .shlImm o => o.wfShift
  | .shr o => o.wf specShift
  | .shrImm o => o.wfShift
  | .rot o => o.wf specRot
  | .rotImm o => o.wfShift
  | .bfe o => o.wf
  | .bfi o => o.wf
  | .popc o => o.wf specBits
  | .clz o => o.wf specBits
  | .brev o => o.wf specBits
  | .icmp o => o.wf
  | .pick o => o.wf
  | .mov o => o.wf specMov
  | .movImm _ => true
  | .movx o => o.wf
  | .shmap _ => true
  | .qcfg _ => true
  | .lea o => o.wf
  | .bsel o => o.wf
  | .fadd o => o.wf specFadd
  | .faddImm o => o.wf
  | .fsub o => o.wf specFadd
  | .fsubImm o => o.wf
  | .fmul o => o.wf specFadd
  | .fmulImm o => o.wf
  | .ffma o => o.wf specFadd
  | .fmin o => o.wf specFmin
  | .fminImm o => o.wf
  | .fmax o => o.wf specFmin
  | .fmaxImm o => o.wf
  | .fcmp o => o.wf
  | .fclass o => o.wf
  | .fabs o => o.wf specFmin
  | .fneg o => o.wf specFmin
  | .fdot2 o => o.wf specFdot2
  | .fdot4 o => o.wf specFdot4
  | .fcpys o => o.wf specFmin
  | .frnd o => o.wf
  | .fscale o => o.wf specFscale
  | .fexp o => o.wf specFexp
  | .cvt o => o.wf
  | .rcp o => o.wf specRcp
  | .rsq o => o.wf specSpecial
  | .sqrt o => o.wf specRcp
  | .ex2 o => o.wf specSpecial
  | .lg2 o => o.wf specSpecial
  | .sin o => o.wf specSpecial
  | .cos o => o.wf specSpecial
  | .tanh o => o.wf specSpecial
  | .shfl o => o.wf
  | .shflx o => o.wf
  | .shflup o => o.wf
  | .shfldn o => o.wf
  | .vote _ => true
  | .ballot _ => true
  | .redl o => o.wf [3, 4, 5] 5
  | .scanl o => o.wf [3, 7] 7
  | .rdlane o => o.wf
  | .pcomb _ => true
  | .p2s _ => true
  | .s2p o => o.wf
  | .bra _ => true
  | .brx o => o.wf
  | .call _ => true
  | .ret _ => true
  | .regang _ => true
  | .jmpf _ => true
  | .cfetch _ => true
  | .exit _ => true
  | .fret _ => true
  | .enter _ => true
  | .leave _ => true
  | .svc _ => true
  | .rsr o => o.wf
  | .wsr o => o.wf
  | .brk _ => true
  | .nop _ => true
  | .yield _ => true
  | .ldGN8 o => o.wf { load := true, global := true }
  | .ldGS8 o => o.wf { load := true, global := true }
  | .ldGN16 o => o.wf { load := true, global := true }
  | .ldGS16 o => o.wf { load := true, global := true }
  | .ldGB32 o => o.wf { load := true, global := true }
  | .ldGB64 o => o.wf { load := true, global := true, wide := true }
  | .ldSN8 o => o.wf { load := true }
  | .ldSS8 o => o.wf { load := true }
  | .ldSN16 o => o.wf { load := true }
  | .ldSS16 o => o.wf { load := true }
  | .ldSB32 o => o.wf { load := true }
  | .ldSB64 o => o.wf { load := true, wide := true }
  | .ldPB32 o => o.wf { load := true, param := true }
  | .stGB8 o => o.wf { load := false, global := true }
  | .stGB16 o => o.wf { load := false, global := true }
  | .stGB32 o => o.wf { load := false, global := true }
  | .stGB64 o => o.wf { load := false, global := true, wide := true }
  | .stSB8 o => o.wf { load := false }
  | .stSB16 o => o.wf { load := false }
  | .stSB32 o => o.wf { load := false }
  | .stSB64 o => o.wf { load := false, wide := true }
  | .atom o => o.wf
  | .redM o => o.wf
  | .fence _ => true
  | .fenceM _ => true
  | .waitcmp o => o.wf
  | .waitc o => o.wf
  | .pref o => o.wf
  | .binit _ => true
  | .barv _ => true
  | .bwait _ => true
  | .obres o => o.wf
  | .obrel _ => true
  | .wld o => o.wf
  | .mma o => o.wf
  | .macq _ => true
  | .mrel _ => true
  | .mrd o => o.wf
  | .mwr o => o.wf
  | .mdrain o => o.wf
  | .mzero _ => true
  | .winv _ => true
  | .mstat _ => true
  | .xkick _ => true
  | .xsusp _ => true
  | .xstat _ => true
  | .wcreate _ => true
  | .psend o => o.wf true
  | .precv _ => true
  | .pnote _ => true
  | .wsadd _ => true
  | .wsdel o => o.wf false
  | .wswait o => o.wf true
  | .tarm _ => true
  | .tcan o => o.wf false
  | .oclose o => o.wf false
  | .odup o => o.wf false
  | .nslook _ => true
  | .nsbind _ => true
  | .glaunch o => o.wf false
  | .gcond _ => true
  | .hint _ => true
  | .launch _ => true
  | .oinfo _ => true
  | .rotarm o => o.wf false
  | .rotjoin o => o.wf false
  | .aearm o => o.wf true
  | .aewait o => o.wf true
  | .rotend o => o.wf true
  | .dualNop x y => dualWf { op := .nop, f := x } y
  | .dualIadd x y => dualWf { op := .iadd, f := x } y
  | .dualIsub x y => dualWf { op := .isub, f := x } y
  | .dualImul x y => dualWf { op := .imul, f := x } y
  | .dualImin x y => dualWf { op := .imin, f := x } y
  | .dualImax x y => dualWf { op := .imax, f := x } y
  | .dualAnd x y => dualWf { op := .and, f := x } y
  | .dualOr x y => dualWf { op := .or, f := x } y
  | .dualXor x y => dualWf { op := .xor, f := x } y
  | .dualAndn x y => dualWf { op := .andn, f := x } y
  | .dualShl x y => dualWf { op := .shl, f := x } y
  | .dualShr x y => dualWf { op := .shr, f := x } y
  | .dualMov x y => dualWf { op := .mov, f := x } y
  | .iaddi x y => dualWf { op := .iaddi, f := x } y
  | .movi x y => dualWf { op := .movi, f := x } y
  | .shli x y => dualWf { op := .shli, f := x } y
  | .shri x y => dualWf { op := .shri, f := x } y
  | .dualIcmpEq x y => dualWf { op := .icmpEq, f := x } y
  | .dualIcmpNe x y => dualWf { op := .icmpNe, f := x } y
  | .dualIcmpLtS32 x y => dualWf { op := .icmpLtS, f := x } y
  | .dualIcmpLtN32 x y => dualWf { op := .icmpLtN, f := x } y
  | .dualIcmpLeS32 x y => dualWf { op := .icmpLeS, f := x } y
  | .dualIcmpLeN32 x y => dualWf { op := .icmpLeN, f := x } y
  | .pand x y => dualWf { op := .pand, f := x } y
  | .por x y => dualWf { op := .por, f := x } y
  | .pxor x y => dualWf { op := .pxor, f := x } y
  | .pnot x y => dualWf { op := .pnot, f := x } y
  | .pmov x y => dualWf { op := .pmov, f := x } y
  | .dualFadd x y => dualWf { op := .fadd, f := x } y
  | .dualFsub x y => dualWf { op := .fsub, f := x } y
  | .dualFmul x y => dualWf { op := .fmul, f := x } y
  | .dualFmin x y => dualWf { op := .fmin, f := x } y
  | .dualFmax x y => dualWf { op := .fmax, f := x } y
  | .dualFabs x y => dualWf { op := .fabs, f := x } y
  | .dualFneg x y => dualWf { op := .fneg, f := x } y
  | .dualPopc x y => dualWf { op := .popc, f := x } y
  | .dualClz x y => dualWf { op := .clz, f := x } y
  | .dualBrev x y => dualWf { op := .brev, f := x } y
  | .dualIabs x y => dualWf { op := .iabs, f := x } y
  | .dualFcmpLtF32 x y => dualWf { op := .fcmpLt, f := x } y
  | .nonceRead _ => true
  | .entropyRead _ => true
  | .keywipeWrite _ => true
  | .dbgctlWrite _ => true
  | .measureWrite _ => true
  | .mbwaitRead _ => true
  | .dropWrite _ => true
  | .reprioWrite _ => true
  | .illegalOpcode _ _ => true
  | .segmentFetchComplete _ _ => true
  | .launchQueueHandoff _ => true
  | .launchRecordAccept _ => true
  | .teamPlacement _ _ _ => true
  | .waveRetire _ _ => true
  | .regangRelease _ => true
  | .segmentMeetingRelease _ => true
  | .shmapPairing _ => true
  | .bwaitRelease _ => true
  | .waitcmpMonitorRead _ => true
  | .kernelOpBegin _ => true
  | .mmaPassEnter _ => true
  | .mmaCommit _ => true
  | .copyQueueReadRecord _ => true
  | .copyGranule _ _ => true
  | .queueLoadRowFetch _ _ _ => true
  | .queueStoreRowPerform _ _ _ => true
  | .userTrapDelivery _ => true
  | .launchCompletionReport _ => true
  | .waitcRelease _ => true
  | .fenceDrainComplete _ => true
  | .mbactRetry _ => true
  | .mbactSkip _ => true
  | .mbactEndSlice _ => true
  | .mbactForward _ => true
  | .mbactReply _ => true
  | .mbactEndWave _ => true
  | .mbactDismiss _ => true
  | .mbactUnassigned _ => true
  | .memread _ => true
  | .memwrite _ => true
  | .regread _ => true
  | .regwrite _ => true
  | .srread _ => true
  | .srwrite _ => true
  | .fuseread _ => true
  | .fuseblow _ => true
  | .gensecret _ => true
  | .cmdport _ => true
  | .extest _ => true
  | .samplePreload _ _ => true
  | .dbgreq _ => true
  | .bypass _ => true
  | .recoveryGo _ _ => true
  | .recoveryFetchComplete _ => true
  | .hostTailSnoop _ _ => true
  | .hostQueueRecordHandoff _ => true
  | .hostRequestRecord _ => true
  | .placementAgeBlock _ => true
  | .waveDrop _ _ => true
  | .compactionCopy _ _ => true
  | .compactionHoldTimeout _ _ => true
  | .waveRestart _ _ _ => true
  | .loadReturn _ => true
  | .storePerformed _ => true
  | .pageWalkComplete _ => true
  | .shootdownReceipt _ _ => true
  | .shootdownAck _ _ => true
  | .atomHomePerform _ => true
  | .redmApply _ => true
  | .replicaUpdate _ => true
  | .hostMemoryAccess _ => true
  | .waitcmpTimeout _ => true
  | .fullEmptyProceed _ => true
  | .mailboxAppend _ => true
  | .sramUncorrectableError _ => true
  | .kernelResultReturn _ => true
  | .timerExpiry _ _ => true
  | .wswaitTimeout _ => true
  | .waitSetMemberReady _ => true
  | .graphNodeComplete _ => true
  | .coalescerHoldExpiry _ => true
  | .copyDisplace _ _ => true
  | .wldLoadComplete _ _ _ => true
  | .gangBoost _ _ _ => true
  | .sampleTake _ _ => true
  | .packetReceive _ _ => true
  | .bridgeForward _ _ _ => true
  | .stompedNoticeReceive _ _ _ => true
  | .nackReceive _ _ _ => true
  | .resendTimeout _ _ _ => true
  | .fabricResponseReceive _ _ _ _ => true
  | .bufferBankRetire _ _ => true
  | .accessTableUpdate _ => true
  | .grantEntryRemoveAck _ => true
  | .ringReadyMarkReceive _ => true
  | .rotjoinTimeout _ => true
  | .ringBlockInject _ _ => true
  | .ringReservationReceive _ _ => true
  | .ringBlockPacketReceive _ _ _ => true
  | .ringIndexFree _ _ => true
  | .aeBlockConsume _ => true
  | .aewaitTimeout _ => true
  | .rotendComplete _ => true
  | .ringFailureNotice _ _ => true
  | .xkickQueuePlace _ => true
  | .cliqueFormation _ _ _ => true
  | .cxlHostLinkBringup _ _ => true
  | .debugDoorbellWrite _ => true
  | .cxlCacheSnoop _ => true
  | .stallCycle _ _ => true
  | .tret => true
  | .keywipeComplete => true
  | .cmdShootdown => true
  | .cmdSetHandleTable => true
  | .cmdCreateProcess => true
  | .cmdEndProcess => true
  | .cmdSetHostQueue => true
  | .cmdSetVector => true
  | .cmdInstallKey => true
  | .cmdAttest => true
  | .cmdTraceRing => true
  | .cmdSetStops => true
  | .cmdResume => true
  | .cmdCounterSnapshot => true
  | .cmdFuseblow => true
  | .cmdGensecret => true
  | .cmdEventRing => true
  | .fuseBlowComplete => true
  | .idcode => true
  | .dbgrsp => true
  | .testLogicReset => true
  | .resetRelease => true
  | .powerFaultHold => true
  | .hostClearCondition => true
  | .entropyHealthFail => true

end Sys2Proof
end

