-- ==== Sys2Proof/Decode.lean ====
section
/-!
DEFINITION. From instruction words to instructions and back (01 R20 to R39): the fields of the three forms, the field
layouts of every reference entry, the opcode map, the order of the decode checks, and the encoder.
-/

namespace Sys2Proof

/-! ### The forms as fields -/

/-- Full A (01 R21). -/
structure RawA where
  op : BitVec 8
  guarded : BitVec 1
  pred : BitVec 6
  neg : BitVec 1
  look : BitVec 4
  d : BitVec 8
  a : BitVec 8
  b : BitVec 8
  c : BitVec 8
  low : BitVec 10
deriving DecidableEq, Repr

/-- Full B (01 R22). -/
structure RawB where
  op : BitVec 8
  guarded : BitVec 1
  pred : BitVec 6
  neg : BitVec 1
  look : BitVec 4
  d : BitVec 8
  a : BitVec 8
  imm : BitVec 26
deriving DecidableEq, Repr

/-- One half of a dual word (01 R24). -/
structure RawHalf where
  op : BitVec 8
  f : HalfFields
deriving DecidableEq, Repr

def RawA.ofWord (w : W64) : RawA :=
  { op := w.extractLsb' 54 8, guarded := w.extractLsb' 53 1, pred := w.extractLsb' 47 6, neg := w.extractLsb' 46 1
    look := w.extractLsb' 42 4, d := w.extractLsb' 34 8, a := w.extractLsb' 26 8, b := w.extractLsb' 18 8
    c := w.extractLsb' 10 8, low := w.extractLsb' 0 10 }

def RawA.toWord (r : RawA) : W64 :=
  0#2 ++ r.op ++ r.guarded ++ r.pred ++ r.neg ++ r.look ++ r.d ++ r.a ++ r.b ++ r.c ++ r.low

def RawB.ofWord (w : W64) : RawB :=
  { op := w.extractLsb' 54 8, guarded := w.extractLsb' 53 1, pred := w.extractLsb' 47 6, neg := w.extractLsb' 46 1
    look := w.extractLsb' 42 4, d := w.extractLsb' 34 8, a := w.extractLsb' 26 8, imm := w.extractLsb' 0 26 }

def RawB.toWord (r : RawB) : W64 :=
  1#2 ++ r.op ++ r.guarded ++ r.pred ++ r.neg ++ r.look ++ r.d ++ r.a ++ r.imm

def RawHalf.ofBits (h : BitVec 31) : RawHalf :=
  { op := h.extractLsb' 23 8
    f := { first := h.extractLsb' 16 7, second := h.extractLsb' 9 7, pred := h.extractLsb' 6 3, neg := h.getLsbD 5
           tym := h.extractLsb' 1 4, last := h.getLsbD 0 } }

def RawHalf.toBits (r : RawHalf) : BitVec 31 :=
  r.op ++ r.f.first ++ r.f.second ++ r.f.pred ++ BitVec.ofBool r.f.neg ++ r.f.tym ++ BitVec.ofBool r.f.last

/-- Half X stands in bits [61:31] and half Y in bits [30:0] (01 R24). -/
def dualToWord (x y : RawHalf) : W64 := 2#2 ++ x.toBits ++ y.toBits

/-! ### Field codes -/

/-- A field check: some () when it holds. -/
def need (c : Bool) : Option Unit := if c then some () else none

/-- Field kind R (01 R26). -/
def Reg.code : Reg → BitVec 8
  | .v n => 0#1 ++ n
  | .s n => 2#2 ++ n
  | .q n => 28#5 ++ n

def Reg.ofCode (x : BitVec 8) : Option Reg :=
  if x.getLsbD 7 = false then some (.v (x.extractLsb' 0 7))
  else if x.extractLsb' 6 2 = 2#2 then some (.s (x.extractLsb' 0 6))
  else if x.extractLsb' 3 5 = 28#5 then some (.q (x.extractLsb' 0 3))
  else none

/-- A field that must name a v register. -/
def vOfCode (x : BitVec 8) : Option (BitVec 7) :=
  if x.getLsbD 7 = false then some (x.extractLsb' 0 7) else none
/-- A field that must name an s register. -/
def sOfCode (x : BitVec 8) : Option SReg :=
  if x.extractLsb' 6 2 = 2#2 then some (x.extractLsb' 0 6) else none
/-- A field that must name an even s pair. -/
def pairOfCode (x : BitVec 8) : Option SPair :=
  if x.extractLsb' 6 2 = 2#2 ∧ x.getLsbD 0 = false then some (x.extractLsb' 1 5) else none
/-- A field that must name sN with N a multiple of 4. -/
def quadOfCode (x : BitVec 8) : Option SQuad :=
  if x.extractLsb' 6 2 = 2#2 ∧ x.extractLsb' 0 2 = 0#2 then some (x.extractLsb' 2 4) else none
/-- A field that must name s0, s8, …, s56 (02 R69). -/
def octOfCode (x : BitVec 8) : Option (BitVec 3) :=
  if x.extractLsb' 6 2 = 2#2 ∧ x.extractLsb' 0 3 = 0#3 then some (x.extractLsb' 3 3) else none
/-- A field of kind P. -/
def pOfCode (x : BitVec 8) : Option PReg :=
  if x.extractLsb' 6 2 = 0#2 then some (x.extractLsb' 0 6) else none
/-- A field of kind A or O. -/
def tileOfCode (x : BitVec 8) : Option (BitVec 4) :=
  if x.extractLsb' 4 4 = 0#4 then some (x.extractLsb' 0 4) else none
/-- A field of kind W. -/
def slotOfCode (x : BitVec 8) : Option (BitVec 3) :=
  if x.extractLsb' 3 5 = 0#5 then some (x.extractLsb' 0 3) else none

def vCode (n : BitVec 7) : BitVec 8 := 0#1 ++ n
def sCode (n : SReg) : BitVec 8 := 2#2 ++ n
def pairCode (n : SPair) : BitVec 8 := 2#2 ++ n ++ 0#1
def quadCode (n : SQuad) : BitVec 8 := 2#2 ++ n ++ 0#2
def octCode (n : BitVec 3) : BitVec 8 := 2#2 ++ n ++ 0#3
def pCode (n : PReg) : BitVec 8 := 0#2 ++ n
def tileCode (n : BitVec 4) : BitVec 8 := 0#4 ++ n
def slotCode (n : BitVec 3) : BitVec 8 := 0#5 ++ n
def qCode (n : BitVec 3) : BitVec 8 := 28#5 ++ n

def bit (b : Bool) : BitVec 1 := BitVec.ofBool b

/-- The guard fields (01 R30). -/
def guardOf (g : BitVec 1) (p : BitVec 6) (n : BitVec 1) : Option (Option Guard) :=
  if g = 1#1 then some (some { pred := p, neg := n.getLsbD 0 })
  else if p = 0 ∧ n = 0 then some none else none

def guardedBit (g : Option Guard) : BitVec 1 := bit g.isSome
def guardPred : Option Guard → BitVec 6
  | some g => g.pred
  | none => 0
def guardNeg : Option Guard → BitVec 1
  | some g => bit g.neg
  | none => 0

def Ty.ofCode (x : BitVec 4) : Option Ty :=
  match x.toNat with
  | 0 => some .n32 | 1 => some .s32 | 2 => some .n64 | 3 => some .s64
  | 4 => some .f32 | 5 => some .f16x2 | 6 => some .bf16x2 | 7 => some .f64
  | 8 => some .n16x2 | 9 => some .s16x2 | 10 => some .n8x4 | 11 => some .s8x4
  | 12 => some .e4m3x4 | 13 => some .e5m2x4 | 14 => some .b32 | _ => none

def Rnd.code : Rnd → BitVec 2
  | .rne => 0 | .rz => 1 | .rup => 2 | .rdn => 3
def Rnd.ofCode (x : BitVec 2) : Rnd :=
  match x.toNat with
  | 0 => .rne | 1 => .rz | 2 => .rup | _ => .rdn

def Scope.code : Scope → BitVec 3
  | .wv => 0 | .tm => 1 | .cl => 2 | .dv => 3 | .cq => 4 | .sy => 5
def Scope.ofCode (x : BitVec 3) : Option Scope :=
  match x.toNat with
  | 0 => some .wv | 1 => some .tm | 2 => some .cl | 3 => some .dv | 4 => some .cq | 5 => some .sy | _ => none

def Cond.code : Cond → BitVec 3
  | .eq => 0 | .ne => 1 | .lt => 2 | .le => 3 | .gt => 4 | .ge => 5
def Cond.ofCode (x : BitVec 3) : Option Cond :=
  match x.toNat with
  | 0 => some .eq | 1 => some .ne | 2 => some .lt | 3 => some .le | 4 => some .gt | 5 => some .ge | _ => none

def MonCond.code : MonCond → BitVec 3
  | .eq => 0 | .ne => 1 | .lt => 2 | .le => 3 | .gt => 4 | .ge => 5 | .any => 6
def MonCond.ofCode (x : BitVec 3) : Option MonCond :=
  match x.toNat with
  | 0 => some .eq | 1 => some .ne | 2 => some .lt | 3 => some .le | 4 => some .gt | 5 => some .ge | 6 => some .any
  | _ => none

def FCond.code : FCond → BitVec 3
  | .eq => 0 | .ne => 1 | .lt => 2 | .le => 3 | .gt => 4 | .ge => 5 | .num => 6 | .nan => 7
def FCond.ofCode (x : BitVec 3) : FCond :=
  match x.toNat with
  | 0 => .eq | 1 => .ne | 2 => .lt | 3 => .le | 4 => .gt | 5 => .ge | 6 => .num | _ => .nan

def Space.code : Space → BitVec 1
  | .global => 0 | .scratch => 1
def Space.ofCode (b : Bool) : Space := if b then .scratch else .global

def POp.code : POp → BitVec 2
  | .and => 0 | .or => 1 | .xor => 2
def POp.ofCode (x : BitVec 2) : Option POp :=
  match x.toNat with
  | 0 => some .and | 1 => some .or | 2 => some .xor | _ => none

def VoteMode.code : VoteMode → BitVec 3
  | .all => 0 | .any => 1 | .uni => 2
def VoteMode.ofCode (x : BitVec 3) : Option VoteMode :=
  match x.toNat with
  | 0 => some .all | 1 => some .any | 2 => some .uni | _ => none

def QDir.code : QDir → BitVec 2
  | .unbind => 0 | .load => 1 | .store => 2
def QDir.ofCode (x : BitVec 2) : Option QDir :=
  match x.toNat with
  | 0 => some .unbind | 1 => some .load | 2 => some .store | _ => none

def AtomKind.code : AtomKind → BitVec 3
  | .add => 0 | .min => 1 | .max => 2 | .and => 3 | .or => 4 | .xor => 5 | .xchg => 6 | .cas => 7
def AtomKind.ofCode (x : BitVec 3) : AtomKind :=
  match x.toNat with
  | 0 => .add | 1 => .min | 2 => .max | 3 => .and | 4 => .or | 5 => .xor | 6 => .xchg | _ => .cas

def AtomTy.code : AtomTy → BitVec 3
  | .n32 => 0 | .s32 => 1 | .n64 => 2 | .s64 => 3 | .f32 => 4 | .f16x2 => 5 | .bf16x2 => 6 | .b32 => 7
def AtomTy.ofCode (x : BitVec 3) : AtomTy :=
  match x.toNat with
  | 0 => .n32 | 1 => .s32 | 2 => .n64 | 3 => .s64 | 4 => .f32 | 5 => .f16x2 | 6 => .bf16x2 | _ => .b32

def RedKind.code : RedKind → BitVec 2
  | .add => 0 | .min => 1 | .max => 2
def RedKind.ofCode (x : BitVec 2) : Option RedKind :=
  match x.toNat with
  | 0 => some .add | 1 => some .min | 2 => some .max | _ => none

def FenceKind.code : FenceKind → BitVec 2
  | .acqrel => 0 | .acq => 1 | .rel => 2
def FenceKind.ofCode (x : BitVec 2) : Option FenceKind :=
  match x.toNat with
  | 0 => some .acqrel | 1 => some .acq | 2 => some .rel | _ => none

def MonTy.code : MonTy → BitVec 2
  | .n32 => 0 | .s32 => 1 | .n64 => 2 | .s64 => 3
def MonTy.ofCode (x : BitVec 2) : MonTy :=
  match x.toNat with
  | 0 => .n32 | 1 => .s32 | 2 => .n64 | _ => .s64

def MFmt.code : MFmt → BitVec 4
  | .bf16 => 0 | .f16 => 1 | .e4m3 => 2 | .e5m2 => 3 | .s8 => 4 | .n8 => 5 | .q4 => 6
def MFmt.ofCode (x : BitVec 4) : Option MFmt :=
  match x.toNat with
  | 0 => some .bf16 | 1 => some .f16 | 2 => some .e4m3 | 3 => some .e5m2 | 4 => some .s8 | 5 => some .n8
  | 6 => some .q4 | _ => none

def AccTy.code : AccTy → BitVec 2
  | .f32 => 0 | .s32 => 1
def AccTy.ofCode (x : BitVec 2) : Option AccTy :=
  match x.toNat with
  | 0 => some .f32 | 1 => some .s32 | _ => none

def DrainTarget.code : DrainTarget → BitVec 3
  | .bits => 0 | .bf16 => 1 | .f16 => 2 | .e4m3 => 3 | .e5m2 => 4 | .q4 => 5 | .s8 => 6
def DrainTarget.ofCode (x : BitVec 3) : Option DrainTarget :=
  match x.toNat with
  | 0 => some .bits | 1 => some .bf16 | 2 => some .f16 | 3 => some .e4m3 | 4 => some .e5m2 | 5 => some .q4
  | 6 => some .s8 | _ => none

def ObjKind.code : ObjKind → BitVec 3
  | .port => 0 | .waitSet => 1 | .timer => 2 | .graph => 3
def ObjKind.ofCode (x : BitVec 3) : Option ObjKind :=
  match x.toNat with
  | 0 => some .port | 1 => some .waitSet | 2 => some .timer | 3 => some .graph | _ => none

def GcondKind.code : GcondKind → BitVec 2
  | .set => 0 | .or => 1 | .and => 2 | .max => 3
def GcondKind.ofCode (x : BitVec 2) : GcondKind :=
  match x.toNat with
  | 0 => .set | 1 => .or | 2 => .and | _ => .max

/-- The modifier layout of 01 R21. -/
def modLow (la lb lc : Bool) (ty : Ty) (rnd : Rnd) (sat : Bool) : BitVec 10 :=
  bit la ++ bit lb ++ bit lc ++ ty.code ++ rnd.code ++ bit sat

/-! ### Building raw words -/

/-- Full A from its guard and fields, lookahead 0. -/
def rawA (op : BitVec 8) (g : Option Guard) (d a b c : BitVec 8) (low : BitVec 10) : RawA :=
  { op, guarded := guardedBit g, pred := guardPred g, neg := guardNeg g, look := 0, d, a, b, c, low }

/-- Full B from its guard and fields, lookahead 0. -/
def rawB (op : BitVec 8) (g : Option Guard) (d a : BitVec 8) (imm : BitVec 26) : RawB :=
  { op, guarded := guardedBit g, pred := guardPred g, neg := guardNeg g, look := 0, d, a, imm }

def RawA.guard (r : RawA) : Option (Option Guard) := guardOf r.guarded r.pred r.neg
def RawB.guard (r : RawB) : Option (Option Guard) := guardOf r.guarded r.pred r.neg

/-! ### The layouts of full A -/

def Alu1.toRaw (op : BitVec 8) (o : Alu1) : RawA :=
  { rawA op o.g o.d.code o.a.reg.code 0 0 (modLow o.a.last false false o.ty o.rnd o.sat) with look := o.look }
def Alu1.ofRaw (r : RawA) : Option Alu1 := do
  let g ← r.guard
  let d ← Reg.ofCode r.d
  let a ← Reg.ofCode r.a
  let ty ← Ty.ofCode (r.low.extractLsb' 3 4)
  need (r.b == 0 && r.c == 0 && r.low.extractLsb' 7 2 == 0)
  some { look := r.look, g, d, a := { reg := a, last := r.low.getLsbD 9 }, ty
         rnd := Rnd.ofCode (r.low.extractLsb' 1 2), sat := r.low.getLsbD 0 }

def Alu2.toRaw (op : BitVec 8) (o : Alu2) : RawA :=
  { rawA op o.g o.d.code o.a.reg.code o.b.reg.code 0 (modLow o.a.last o.b.last false o.ty o.rnd o.sat) with
    look := o.look }
def Alu2.ofRaw (r : RawA) : Option Alu2 := do
  let g ← r.guard
  let d ← Reg.ofCode r.d
  let a ← Reg.ofCode r.a
  let b ← Reg.ofCode r.b
  let ty ← Ty.ofCode (r.low.extractLsb' 3 4)
  need (r.c == 0 && !r.low.getLsbD 7)
  some { look := r.look, g, d, a := { reg := a, last := r.low.getLsbD 9 }, b := { reg := b, last := r.low.getLsbD 8 }
         ty, rnd := Rnd.ofCode (r.low.extractLsb' 1 2), sat := r.low.getLsbD 0 }

def Alu3.toRaw (op : BitVec 8) (o : Alu3) : RawA :=
  { rawA op o.g o.d.code o.a.reg.code o.b.reg.code o.c.reg.code
      (modLow o.a.last o.b.last o.c.last o.ty o.rnd o.sat) with look := o.look }
def Alu3.ofRaw (r : RawA) : Option Alu3 := do
  let g ← r.guard
  let d ← Reg.ofCode r.d
  let a ← Reg.ofCode r.a
  let b ← Reg.ofCode r.b
  let c ← Reg.ofCode r.c
  let ty ← Ty.ofCode (r.low.extractLsb' 3 4)
  some { look := r.look, g, d, a := { reg := a, last := r.low.getLsbD 9 }, b := { reg := b, last := r.low.getLsbD 8 }
         c := { reg := c, last := r.low.getLsbD 7 }, ty, rnd := Rnd.ofCode (r.low.extractLsb' 1 2)
         sat := r.low.getLsbD 0 }

def BfeOp.toRaw (op : BitVec 8) (o : BfeOp) : RawA :=
  rawA op o.g o.d.code o.a.reg.code o.b.reg.code 0 (bit o.a.last ++ bit o.b.last ++ 0#1 ++ bit o.signed ++ 0#6)
def BfeOp.ofRaw (r : RawA) : Option BfeOp := do
  let g ← r.guard
  let d ← Reg.ofCode r.d
  let a ← Reg.ofCode r.a
  let b ← Reg.ofCode r.b
  need (r.look == 0 && r.c == 0 && !r.low.getLsbD 7 && r.low.extractLsb' 0 6 == 0)
  some { g, d, a := { reg := a, last := r.low.getLsbD 9 }, b := { reg := b, last := r.low.getLsbD 8 }
         signed := r.low.getLsbD 6 }

/-- BFI has bits [6:0] zero; BSEL has the type b32 in bits [6:3] (02 R48, R49). -/
def Bits3Op.toRaw (tail : BitVec 7) (op : BitVec 8) (o : Bits3Op) : RawA :=
  rawA op o.g o.d.code o.a.reg.code o.b.reg.code o.c.reg.code (bit o.a.last ++ bit o.b.last ++ bit o.c.last ++ tail)
def Bits3Op.ofRaw (tail : BitVec 7) (r : RawA) : Option Bits3Op := do
  let g ← r.guard
  let d ← Reg.ofCode r.d
  let a ← Reg.ofCode r.a
  let b ← Reg.ofCode r.b
  let c ← Reg.ofCode r.c
  need (r.look == 0 && r.low.extractLsb' 0 7 == tail)
  some { g, d, a := { reg := a, last := r.low.getLsbD 9 }, b := { reg := b, last := r.low.getLsbD 8 }
         c := { reg := c, last := r.low.getLsbD 7 } }

def IcmpOp.toRaw (op : BitVec 8) (o : IcmpOp) : RawA :=
  rawA op o.g (pCode o.d) o.a.reg.code o.b.reg.code 0
    (bit o.a.last ++ bit o.b.last ++ 0#1 ++ o.ty.code ++ o.cond.code)
def IcmpOp.ofRaw (r : RawA) : Option IcmpOp := do
  let g ← r.guard
  let d ← pOfCode r.d
  let a ← Reg.ofCode r.a
  let b ← Reg.ofCode r.b
  let ty ← Ty.ofCode (r.low.extractLsb' 3 4)
  let cond ← Cond.ofCode (r.low.extractLsb' 0 3)
  need (r.look == 0 && r.c == 0 && !r.low.getLsbD 7)
  some { g, d, a := { reg := a, last := r.low.getLsbD 9 }, b := { reg := b, last := r.low.getLsbD 8 }, ty, cond }

def PickOp.toRaw (op : BitVec 8) (o : PickOp) : RawA :=
  rawA op o.g o.d.code o.a.reg.code o.b.reg.code (pCode o.c) (modLow o.a.last o.b.last false o.ty .rne false)
def PickOp.ofRaw (r : RawA) : Option PickOp := do
  let g ← r.guard
  let d ← Reg.ofCode r.d
  let a ← Reg.ofCode r.a
  let b ← Reg.ofCode r.b
  let c ← pOfCode r.c
  let ty ← Ty.ofCode (r.low.extractLsb' 3 4)
  need (r.look == 0 && !r.low.getLsbD 7 && r.low.extractLsb' 0 3 == 0)
  some { g, d, a := { reg := a, last := r.low.getLsbD 9 }, b := { reg := b, last := r.low.getLsbD 8 }, c, ty }

def MovxOp.toRaw (op : BitVec 8) (o : MovxOp) : RawA :=
  match o.dir with
  | .read d => rawA op o.g (vCode d) 0 o.idx.code 0 (o.off ++ 0#3)
  | .write a => rawA op o.g 0 a.code o.idx.code 0 (o.off ++ 4#3)
def MovxOp.ofRaw (r : RawA) : Option MovxOp := do
  let g ← r.guard
  let idx ← Reg.ofCode r.b
  need (r.look == 0 && r.c == 0 && r.low.extractLsb' 0 2 == 0)
  if r.low.getLsbD 2 then
    let a ← Reg.ofCode r.a
    need (r.d == 0)
    some { g, dir := .write a, idx, off := r.low.extractLsb' 3 7 }
  else
    let d ← vOfCode r.d
    need (r.a == 0)
    some { g, dir := .read d, idx, off := r.low.extractLsb' 3 7 }

def ShmapOp.toRaw (op : BitVec 8) (o : ShmapOp) : RawA :=
  rawA op o.g (vCode o.d) (sCode o.a) 0 0 (o.count ++ 0#4)
def ShmapOp.ofRaw (r : RawA) : Option ShmapOp := do
  let g ← r.guard
  let d ← vOfCode r.d
  let a ← sOfCode r.a
  need (r.look == 0 && r.b == 0 && r.c == 0 && r.low.extractLsb' 0 4 == 0)
  some { g, d, a, count := r.low.extractLsb' 4 6 }

def QcfgOp.toRaw (op : BitVec 8) (o : QcfgOp) : RawA :=
  rawA op o.g (qCode o.q) (quadCode o.quad) 0 0 (o.dir.code ++ 0#1 ++ o.space.code ++ 0#1 ++ bit o.wide ++ 0#4)
def QcfgOp.ofRaw (r : RawA) : Option QcfgOp := do
  let g ← r.guard
  need (r.d.extractLsb' 3 5 == 28#5)
  let quad ← quadOfCode r.a
  let dir ← QDir.ofCode (r.low.extractLsb' 8 2)
  need (r.look == 0 && r.b == 0 && r.c == 0 && !r.low.getLsbD 7 && !r.low.getLsbD 5 && r.low.extractLsb' 0 4 == 0)
  some { g, q := r.d.extractLsb' 0 3, quad, dir, space := Space.ofCode (r.low.getLsbD 6), wide := r.low.getLsbD 4 }

def LeaOp.toRaw (op : BitVec 8) (o : LeaOp) : RawA :=
  rawA op o.g o.d.code o.a.reg.code o.b.reg.code 0
    (bit o.a.last ++ bit o.b.last ++ 0#1 ++ o.sh ++ bit o.signed ++ 0#3)
def LeaOp.ofRaw (r : RawA) : Option LeaOp := do
  let g ← r.guard
  let d ← Reg.ofCode r.d
  let a ← Reg.ofCode r.a
  let b ← Reg.ofCode r.b
  need (r.look == 0 && r.c == 0 && !r.low.getLsbD 7 && r.low.extractLsb' 0 3 == 0)
  some { g, d, a := { reg := a, last := r.low.getLsbD 9 }, b := { reg := b, last := r.low.getLsbD 8 }
         sh := r.low.extractLsb' 4 3, signed := r.low.getLsbD 3 }

def FcmpOp.toRaw (op : BitVec 8) (o : FcmpOp) : RawA :=
  rawA op o.g (pCode o.d) o.a.reg.code o.b.reg.code 0
    (bit o.a.last ++ bit o.b.last ++ 0#1 ++ o.ty.code ++ o.cond.code)
def FcmpOp.ofRaw (r : RawA) : Option FcmpOp := do
  let g ← r.guard
  let d ← pOfCode r.d
  let a ← Reg.ofCode r.a
  let b ← Reg.ofCode r.b
  let ty ← Ty.ofCode (r.low.extractLsb' 3 4)
  need (r.look == 0 && r.c == 0 && !r.low.getLsbD 7)
  some { g, d, a := { reg := a, last := r.low.getLsbD 9 }, b := { reg := b, last := r.low.getLsbD 8 }, ty
         cond := FCond.ofCode (r.low.extractLsb' 0 3) }

def FclassOp.toRaw (op : BitVec 8) (o : FclassOp) : RawA :=
  rawA op o.g (pCode o.d) o.a.reg.code o.b.reg.code 0 (bit o.a.last ++ bit o.b.last ++ 0#1 ++ o.ty.code ++ 0#3)
def FclassOp.ofRaw (r : RawA) : Option FclassOp := do
  let g ← r.guard
  let d ← pOfCode r.d
  let a ← Reg.ofCode r.a
  let b ← Reg.ofCode r.b
  let ty ← Ty.ofCode (r.low.extractLsb' 3 4)
  need (r.look == 0 && r.c == 0 && !r.low.getLsbD 7 && r.low.extractLsb' 0 3 == 0)
  some { g, d, a := { reg := a, last := r.low.getLsbD 9 }, b := { reg := b, last := r.low.getLsbD 8 }, ty }

def FrndOp.toRaw (op : BitVec 8) (o : FrndOp) : RawA :=
  rawA op o.g o.d.code o.a.reg.code 0 0 (bit o.a.last ++ bit o.exact ++ 0#1 ++ o.ty.code ++ o.rnd.code ++ 0#1)
def FrndOp.ofRaw (r : RawA) : Option FrndOp := do
  let g ← r.guard
  let d ← Reg.ofCode r.d
  let a ← Reg.ofCode r.a
  let ty ← Ty.ofCode (r.low.extractLsb' 3 4)
  need (r.look == 0 && r.b == 0 && r.c == 0 && !r.low.getLsbD 7 && !r.low.getLsbD 0)
  some { g, d, a := { reg := a, last := r.low.getLsbD 9 }, exact := r.low.getLsbD 8, ty
         rnd := Rnd.ofCode (r.low.extractLsb' 1 2) }

/-- A field that is read, or is Z. -/
def optRegCode : Option Reg → BitVec 8
  | some r => r.code
  | none => 0
def optRegOf (reads : Bool) (x : BitVec 8) : Option (Option Reg) :=
  if reads then (Reg.ofCode x).map some else if x = 0 then some none else none

def CvtOp.toRaw (op : BitVec 8) (o : CvtOp) : RawA :=
  rawA op o.g o.d.code o.a.code (optRegCode o.b) (optRegCode o.c) (bit o.last ++ o.code ++ o.rnd.code ++ bit o.sat)
def CvtOp.ofRaw (r : RawA) : Option CvtOp := do
  let g ← r.guard
  let d ← Reg.ofCode r.d
  let a ← Reg.ofCode r.a
  let b ← optRegOf (decide (2 ≤ cvtReads (r.low.extractLsb' 3 6).toNat)) r.b
  let c ← optRegOf (decide (cvtReads (r.low.extractLsb' 3 6).toNat = 3)) r.c
  need (r.look == 0)
  some { g, d, a, b, c, last := r.low.getLsbD 9, code := r.low.extractLsb' 3 6
         rnd := Rnd.ofCode (r.low.extractLsb' 1 2), sat := r.low.getLsbD 0 }

def ShflOp.toRaw (op : BitVec 8) (o : ShflOp) : RawA :=
  { rawA op o.g (vCode o.d) (vCode o.a) o.b.reg.code 0
      (bit o.aLast ++ bit o.b.last ++ 0#1 ++ o.ty.code ++ o.seg) with look := o.look }
def ShflOp.ofRaw (r : RawA) : Option ShflOp := do
  let g ← r.guard
  let d ← vOfCode r.d
  let a ← vOfCode r.a
  let b ← Reg.ofCode r.b
  let ty ← Ty.ofCode (r.low.extractLsb' 3 4)
  need (r.c == 0 && !r.low.getLsbD 7)
  some { look := r.look, g, d, a, aLast := r.low.getLsbD 9, b := { reg := b, last := r.low.getLsbD 8 }, ty
         seg := r.low.extractLsb' 0 3 }

def VoteOp.toRaw (op : BitVec 8) (o : VoteOp) : RawA :=
  rawA op o.g (pCode o.d) (pCode o.a) 0 0 (0#7 ++ o.mode.code)
def VoteOp.ofRaw (r : RawA) : Option VoteOp := do
  let g ← r.guard
  let d ← pOfCode r.d
  let a ← pOfCode r.a
  let mode ← VoteMode.ofCode (r.low.extractLsb' 0 3)
  need (r.look == 0 && r.b == 0 && r.c == 0 && r.low.extractLsb' 3 7 == 0)
  some { g, d, a, mode }

/-- BALLOT's type is n64 (04 R125). -/
def BallotOp.toRaw (op : BitVec 8) (o : BallotOp) : RawA :=
  rawA op o.g (pairCode o.d) (pCode o.a) 0 0 (modLow false false false .n64 .rne false)
def BallotOp.ofRaw (r : RawA) : Option BallotOp := do
  let g ← r.guard
  let d ← pairOfCode r.d
  let a ← pOfCode r.a
  need (r.look == 0 && r.b == 0 && r.c == 0 && r.low == modLow false false false .n64 .rne false)
  some { g, d, a }

def LaneRedOp.toRaw (op : BitVec 8) (o : LaneRedOp) : RawA :=
  { rawA op o.g (vCode o.d) (vCode o.a) 0 0 (bit o.last ++ o.seg ++ o.ty.code ++ o.op) with look := o.look }
def LaneRedOp.ofRaw (r : RawA) : Option LaneRedOp := do
  let g ← r.guard
  let d ← vOfCode r.d
  let a ← vOfCode r.a
  let ty ← Ty.ofCode (r.low.extractLsb' 3 4)
  need (r.b == 0 && r.c == 0)
  some { look := r.look, g, d, a, last := r.low.getLsbD 9, seg := r.low.extractLsb' 7 2, ty
         op := r.low.extractLsb' 0 3 }

def RdlaneOp.toRaw (op : BitVec 8) (o : RdlaneOp) : RawA :=
  match o.b with
  | some (b, bl) => rawA op o.g (sCode o.d) (vCode o.a) (sCode b) 0 (bit o.aLast ++ bit bl ++ 0#1 ++ o.ty.code ++ 0#3)
  | none => rawA op o.g (sCode o.d) (vCode o.a) 0 0 (bit o.aLast ++ 0#1 ++ 0#1 ++ o.ty.code ++ 1#3)
def RdlaneOp.ofRaw (r : RawA) : Option RdlaneOp := do
  let g ← r.guard
  let d ← sOfCode r.d
  let a ← vOfCode r.a
  let ty ← Ty.ofCode (r.low.extractLsb' 3 4)
  need (r.look == 0 && r.c == 0 && !r.low.getLsbD 7)
  if r.low.extractLsb' 0 3 = 0#3 then
    let b ← sOfCode r.b
    some { g, d, a, aLast := r.low.getLsbD 9, b := some (b, r.low.getLsbD 8), ty }
  else
    need (r.low.extractLsb' 0 3 == 1#3 && r.b == 0 && !r.low.getLsbD 8)
    some { g, d, a, aLast := r.low.getLsbD 9, b := none, ty }

def PcombOp.toRaw (op : BitVec 8) (o : PcombOp) : RawA :=
  rawA op o.g (pCode o.d) (pCode o.a) (pCode o.b) (pCode o.c)
    (bit o.na ++ bit o.nb ++ bit o.nc ++ o.f.code ++ o.h.code ++ 0#3)
def PcombOp.ofRaw (r : RawA) : Option PcombOp := do
  let g ← r.guard
  let d ← pOfCode r.d
  let a ← pOfCode r.a
  let b ← pOfCode r.b
  let c ← pOfCode r.c
  let f ← POp.ofCode (r.low.extractLsb' 5 2)
  let h ← POp.ofCode (r.low.extractLsb' 3 2)
  need (r.look == 0 && r.low.extractLsb' 0 3 == 0)
  some { g, d, a, b, c, na := r.low.getLsbD 9, nb := r.low.getLsbD 8, nc := r.low.getLsbD 7, f, h }

/-- The block of predicates of P2S and S2P: field 0x00 or 0x20 (02 R54). -/
def blockCode (high : Bool) : BitVec 8 := 0#2 ++ bit high ++ 0#5
def blockOf (x : BitVec 8) : Option Bool := if x = 0x00#8 then some false else if x = 0x20#8 then some true else none
/-- Type b32 and nothing else. -/
def b32Low : BitVec 10 := modLow false false false .b32 .rne false

def P2sOp.toRaw (op : BitVec 8) (o : P2sOp) : RawA := rawA op o.g (vCode o.d) (blockCode o.high) 0 0 b32Low
def P2sOp.ofRaw (r : RawA) : Option P2sOp := do
  let g ← r.guard
  let d ← vOfCode r.d
  let high ← blockOf r.a
  need (r.look == 0 && r.b == 0 && r.c == 0 && r.low == b32Low)
  some { g, d, high }

def S2pOp.toRaw (op : BitVec 8) (o : S2pOp) : RawA := rawA op o.g (blockCode o.high) o.a.code 0 0 b32Low
def S2pOp.ofRaw (r : RawA) : Option S2pOp := do
  let g ← r.guard
  let high ← blockOf r.d
  let a ← Reg.ofCode r.a
  need (r.look == 0 && r.b == 0 && r.c == 0 && r.low == b32Low)
  some { g, high, a }

def BrxOp.toRaw (op : BitVec 8) (o : BrxOp) : RawA := rawA op o.g 0 o.a.reg.code 0 0 (bit o.a.last ++ 0#9)
def BrxOp.ofRaw (r : RawA) : Option BrxOp := do
  let g ← r.guard
  let a ← Reg.ofCode r.a
  need (r.look == 0 && r.d == 0 && r.b == 0 && r.c == 0 && r.low.extractLsb' 0 9 == 0)
  some { g, a := { reg := a, last := r.low.getLsbD 9 } }

/-- RET, XKICK and XSUSP: an s register in a and its last-read bit. -/
def S1Op.toRaw (op : BitVec 8) (o : S1Op) : RawA := rawA op o.g 0 (sCode o.a) 0 0 (bit o.last ++ 0#9)
def S1Op.ofRaw (r : RawA) : Option S1Op := do
  let g ← r.guard
  let a ← sOfCode r.a
  need (r.look == 0 && r.d == 0 && r.b == 0 && r.c == 0 && r.low.extractLsb' 0 9 == 0)
  some { g, a, last := r.low.getLsbD 9 }

/-- EXIT, LEAVE, NOP, YIELD: a guard and nothing else. -/
def bareToRaw (op : BitVec 8) (g : Option Guard) : RawA := rawA op g 0 0 0 0 0
def bareOfRaw (r : RawA) : Option (Option Guard) := do
  let g ← r.guard
  need (r.look == 0 && r.d == 0 && r.a == 0 && r.b == 0 && r.c == 0 && r.low == 0)
  some g

/-! ### The layouts of full B -/

def AluI.toRaw (op : BitVec 8) (o : AluI) : RawB := rawB op o.g o.d.code o.a.code o.imm
def AluI.ofRaw (r : RawB) : Option AluI := do
  let g ← r.guard
  let d ← Reg.ofCode r.d
  let a ← Reg.ofCode r.a
  need (r.look == 0)
  some { g, d, a, imm := r.imm }

/-- Field a of MOV in full B is not read (02 R55). -/
def MovI.toRaw (op : BitVec 8) (o : MovI) : RawB := rawB op o.g o.d.code 0 o.imm
def MovI.ofRaw (r : RawB) : Option MovI := do
  let g ← r.guard
  let d ← Reg.ofCode r.d
  need (r.look == 0 && r.a == 0)
  some { g, d, imm := r.imm }

def BraOp.toRaw (op : BitVec 8) (o : BraOp) : RawB :=
  rawB op o.g 0 0 (o.target ++ o.join ++ bit o.valid ++ 0#7)
def BraOp.ofRaw (r : RawB) : Option BraOp := do
  let g ← r.guard
  need (r.look == 0 && r.d == 0 && r.a == 0 && r.imm.extractLsb' 0 7 == 0)
  some { g, target := r.imm.extractLsb' 17 9, join := r.imm.extractLsb' 8 9, valid := r.imm.getLsbD 7 }

def CallOp.toRaw (op : BitVec 8) (o : CallOp) : RawB := rawB op o.g (sCode o.d) 0 (o.target ++ 0#17)
def CallOp.ofRaw (r : RawB) : Option CallOp := do
  let g ← r.guard
  let d ← sOfCode r.d
  need (r.look == 0 && r.a == 0 && r.imm.extractLsb' 0 17 == 0)
  some { g, d, target := r.imm.extractLsb' 17 9 }

def RegangOp.toRaw (op : BitVec 8) (o : RegangOp) : RawB := rawB op o.g 0 0 (0#10 ++ o.slices)
def RegangOp.ofRaw (r : RawB) : Option RegangOp := do
  let g ← r.guard
  need (r.look == 0 && r.d == 0 && r.a == 0 && r.imm.extractLsb' 16 10 == 0)
  some { g, slices := r.imm.extractLsb' 0 16 }

def JmpfOp.toRaw (op : BitVec 8) (o : JmpfOp) : RawB := rawB op none 0 0 (o.seg ++ o.idx ++ 0#5)
def JmpfOp.ofRaw (r : RawB) : Option JmpfOp := do
  let g ← r.guard
  need (g == none && r.look == 0 && r.d == 0 && r.a == 0 && r.imm.extractLsb' 0 5 == 0)
  some { seg := r.imm.extractLsb' 14 12, idx := r.imm.extractLsb' 5 9 }

def CfetchOp.toRaw (op : BitVec 8) (o : CfetchOp) : RawB := rawB op o.g 0 0 (o.seg ++ 0#14)
def CfetchOp.ofRaw (r : RawB) : Option CfetchOp := do
  let g ← r.guard
  need (r.look == 0 && r.d == 0 && r.a == 0 && r.imm.extractLsb' 0 14 == 0)
  some { g, seg := r.imm.extractLsb' 14 12 }

def fretToRaw (op : BitVec 8) (index : BitVec 12) : RawB := rawB op none 0 0 (0#14 ++ index)
def fretOfRaw (r : RawB) : Option (BitVec 12) := do
  let g ← r.guard
  need (g == none && r.look == 0 && r.d == 0 && r.a == 0 && r.imm.extractLsb' 12 14 == 0)
  some (r.imm.extractLsb' 0 12)

def Imm16Op.toRaw (op : BitVec 8) (o : Imm16Op) : RawB := rawB op o.g 0 0 (0#10 ++ o.imm)
def Imm16Op.ofRaw (r : RawB) : Option Imm16Op := do
  let g ← r.guard
  need (r.look == 0 && r.d == 0 && r.a == 0 && r.imm.extractLsb' 16 10 == 0)
  some { g, imm := r.imm.extractLsb' 0 16 }

def SvcOp.toRaw (op : BitVec 8) (o : SvcOp) : RawB := rawB op o.g 0 (octCode o.a) (0#10 ++ o.num)
def SvcOp.ofRaw (r : RawB) : Option SvcOp := do
  let g ← r.guard
  let a ← octOfCode r.a
  need (r.look == 0 && r.d == 0 && r.imm.extractLsb' 16 10 == 0)
  some { g, a, num := r.imm.extractLsb' 0 16 }

def RsrDst.code : RsrDst → BitVec 8
  | .pair p => pairCode p
  | .lane v => vCode v

def RsrOp.toRaw (op : BitVec 8) (o : RsrOp) : RawB := rawB op o.g o.d.code 0 (0#14 ++ o.num)
def RsrOp.ofRaw (r : RawB) : Option RsrOp := do
  let g ← r.guard
  let d ← match vOfCode r.d with
    | some v => some (RsrDst.lane v)
    | none => (pairOfCode r.d).map RsrDst.pair
  need (r.look == 0 && r.a == 0 && r.imm.extractLsb' 12 14 == 0)
  some { g, d, num := r.imm.extractLsb' 0 12 }

def WsrOp.toRaw (op : BitVec 8) (o : WsrOp) : RawB := rawB op o.g 0 (pairCode o.a) (0#14 ++ o.num)
def WsrOp.ofRaw (r : RawB) : Option WsrOp := do
  let g ← r.guard
  let a ← pairOfCode r.a
  need (r.look == 0 && r.d == 0 && r.imm.extractLsb' 12 14 == 0)
  some { g, a, num := r.imm.extractLsb' 0 12 }

/-- Plain memory words (01 R23). -/
def MemOp.toRaw (op : BitVec 8) (o : MemOp) : RawB :=
  { rawB op o.g o.data.code o.base.code (sCode o.policy ++ o.off) with look := o.look }
def MemOp.ofRaw (r : RawB) : Option MemOp := do
  let g ← r.guard
  let data ← Reg.ofCode r.d
  let base ← Reg.ofCode r.a
  let policy ← sOfCode (r.imm.extractLsb' 18 8)
  some { look := r.look, g, data, base, policy, off := r.imm.extractLsb' 0 18 }

def PrefOp.toRaw (op : BitVec 8) (o : PrefOp) : RawB := rawB op o.g 0 o.base.code (sCode o.policy ++ o.off)
def PrefOp.ofRaw (r : RawB) : Option PrefOp := do
  let g ← r.guard
  let base ← Reg.ofCode r.a
  let policy ← sOfCode (r.imm.extractLsb' 18 8)
  need (r.look == 0 && r.d == 0)
  some { g, base, policy, off := r.imm.extractLsb' 0 18 }

/-! ### Memory, synchronisation and copy words in full A (10) -/

def AtomOp.toRaw (op : BitVec 8) (o : AtomOp) : RawA :=
  rawA op o.g o.d.code o.a.code o.b.code (optRegCode o.c) (o.kind.code ++ o.ty.code ++ o.space.code ++ o.scope.code)
def AtomOp.ofRaw (r : RawA) : Option AtomOp := do
  let g ← r.guard
  let d ← Reg.ofCode r.d
  let a ← Reg.ofCode r.a
  let b ← Reg.ofCode r.b
  let c ← optRegOf (AtomKind.ofCode (r.low.extractLsb' 7 3) == .cas) r.c
  let scope ← Scope.ofCode (r.low.extractLsb' 0 3)
  need (r.look == 0)
  some { g, d, a, b, c, kind := AtomKind.ofCode (r.low.extractLsb' 7 3), ty := AtomTy.ofCode (r.low.extractLsb' 4 3)
         space := Space.ofCode (r.low.getLsbD 3), scope }

def RedMOp.toRaw (op : BitVec 8) (o : RedMOp) : RawA :=
  rawA op o.g 0 o.a.code o.b.reg.code 0 (bit o.b.last ++ o.kind.code ++ o.ty.code ++ 0#3)
def RedMOp.ofRaw (r : RawA) : Option RedMOp := do
  let g ← r.guard
  let a ← Reg.ofCode r.a
  let b ← Reg.ofCode r.b
  let kind ← RedKind.ofCode (r.low.extractLsb' 7 2)
  let ty ← Ty.ofCode (r.low.extractLsb' 3 4)
  need (r.look == 0 && r.d == 0 && r.c == 0 && r.low.extractLsb' 0 3 == 0)
  some { g, a, b := { reg := b, last := r.low.getLsbD 9 }, kind, ty }

def FenceOp.toRaw (op : BitVec 8) (o : FenceOp) : RawA :=
  rawA op o.g 0 0 0 0 (0#5 ++ o.kind.code ++ o.scope.code)
def FenceOp.ofRaw (r : RawA) : Option FenceOp := do
  let g ← r.guard
  let kind ← FenceKind.ofCode (r.low.extractLsb' 3 2)
  let scope ← Scope.ofCode (r.low.extractLsb' 0 3)
  need (r.look == 0 && r.d == 0 && r.a == 0 && r.b == 0 && r.c == 0 && r.low.extractLsb' 5 5 == 0)
  some { g, kind, scope }

def FenceMOp.toRaw (op : BitVec 8) (o : FenceMOp) : RawA := rawA op o.g 0 0 0 0 (0#7 ++ o.scope.code)
def FenceMOp.ofRaw (r : RawA) : Option FenceMOp := do
  let g ← r.guard
  let scope ← Scope.ofCode (r.low.extractLsb' 0 3)
  need (r.look == 0 && r.d == 0 && r.a == 0 && r.b == 0 && r.c == 0 && r.low.extractLsb' 3 7 == 0)
  some { g, scope }

def WaitcmpOp.toRaw (op : BitVec 8) (o : WaitcmpOp) : RawA :=
  rawA op o.g o.d.code o.a.code o.b.code (sCode o.c)
    (o.space.code ++ o.cond.code ++ o.ty.code ++ 0#1 ++ o.scope.code)
def WaitcmpOp.ofRaw (r : RawA) : Option WaitcmpOp := do
  let g ← r.guard
  let d ← Reg.ofCode r.d
  let a ← Reg.ofCode r.a
  let b ← Reg.ofCode r.b
  let c ← sOfCode r.c
  let cond ← MonCond.ofCode (r.low.extractLsb' 6 3)
  let scope ← Scope.ofCode (r.low.extractLsb' 0 3)
  need (r.look == 0 && !r.low.getLsbD 3)
  some { g, d, a, b, c, space := Space.ofCode (r.low.getLsbD 9), cond, ty := MonTy.ofCode (r.low.extractLsb' 4 2)
         scope }

def WaitcOp.toRaw (op : BitVec 8) (o : WaitcOp) : RawA := rawA op o.g 0 (sCode o.a) 0 0 (bit o.last ++ 0#6 ++ o.path)
def WaitcOp.ofRaw (r : RawA) : Option WaitcOp := do
  let g ← r.guard
  let a ← sOfCode r.a
  need (r.look == 0 && r.d == 0 && r.b == 0 && r.c == 0 && r.low.extractLsb' 3 6 == 0)
  some { g, a, last := r.low.getLsbD 9, path := r.low.extractLsb' 0 3 }

def BinitOp.toRaw (op : BitVec 8) (o : BinitOp) : RawA :=
  rawA op o.g 0 (sCode o.a) (sCode o.b) 0 (bit o.aLast ++ bit o.bLast ++ 0#8)
def BinitOp.ofRaw (r : RawA) : Option BinitOp := do
  let g ← r.guard
  let a ← sOfCode r.a
  let b ← sOfCode r.b
  need (r.look == 0 && r.d == 0 && r.c == 0 && r.low.extractLsb' 0 8 == 0)
  some { g, a, aLast := r.low.getLsbD 9, b, bLast := r.low.getLsbD 8 }

def BarOp.toRaw (op : BitVec 8) (o : BarOp) : RawA :=
  rawA op o.g (sCode o.d) (sCode o.a) (sCode o.b) 0 (0#7 ++ o.scope.code)
def BarOp.ofRaw (r : RawA) : Option BarOp := do
  let g ← r.guard
  let d ← sOfCode r.d
  let a ← sOfCode r.a
  let b ← sOfCode r.b
  let scope ← Scope.ofCode (r.low.extractLsb' 0 3)
  need (r.look == 0 && r.c == 0 && r.low.extractLsb' 3 7 == 0)
  some { g, d, a, b, scope }

def XstatOp.toRaw (op : BitVec 8) (o : XstatOp) : RawA :=
  rawA op o.g (pairCode o.d) (sCode o.a) 0 0 (bit o.last ++ 0#9)
def XstatOp.ofRaw (r : RawA) : Option XstatOp := do
  let g ← r.guard
  let d ← pairOfCode r.d
  let a ← sOfCode r.a
  need (r.look == 0 && r.b == 0 && r.c == 0 && r.low.extractLsb' 0 9 == 0)
  some { g, d, a, last := r.low.getLsbD 9 }

/-! ### Matrix words (14 R278) -/

def ObresOp.toRaw (op : BitVec 8) (o : ObresOp) : RawA :=
  rawA op o.g (tileCode o.d) (quadCode o.quad) 0 0 (bit o.last ++ o.fmt.code ++ bit o.wide ++ 0#4)
def ObresOp.ofRaw (r : RawA) : Option ObresOp := do
  let g ← r.guard
  let d ← tileOfCode r.d
  let quad ← quadOfCode r.a
  let fmt ← MFmt.ofCode (r.low.extractLsb' 5 4)
  need (r.look == 0 && r.b == 0 && r.c == 0 && r.low.extractLsb' 0 4 == 0)
  some { g, d, quad, last := r.low.getLsbD 9, fmt, wide := r.low.getLsbD 4 }

def WldOp.toRaw (op : BitVec 8) (o : WldOp) : RawA :=
  rawA op o.g (slotCode o.d) (quadCode o.quad) 0 0 (bit o.last ++ o.fmt.code ++ bit o.wide ++ bit o.z ++ 0#3)
def WldOp.ofRaw (r : RawA) : Option WldOp := do
  let g ← r.guard
  let d ← slotOfCode r.d
  let quad ← quadOfCode r.a
  let fmt ← MFmt.ofCode (r.low.extractLsb' 5 4)
  need (r.look == 0 && r.b == 0 && r.c == 0 && r.low.extractLsb' 0 3 == 0)
  some { g, d, quad, last := r.low.getLsbD 9, fmt, wide := r.low.getLsbD 4, z := r.low.getLsbD 3 }

def MmaOp.toRaw (op : BitVec 8) (o : MmaOp) : RawA :=
  rawA op none (tileCode o.d) (tileCode o.a) (slotCode o.b) (sCode o.c)
    (o.acc.code ++ bit o.sat ++ bit o.last ++ 0#6)
def MmaOp.ofRaw (r : RawA) : Option MmaOp := do
  let g ← r.guard
  let d ← tileOfCode r.d
  let a ← tileOfCode r.a
  let b ← slotOfCode r.b
  let c ← sOfCode r.c
  let acc ← AccTy.ofCode (r.low.extractLsb' 8 2)
  need (g == none && r.look == 0 && r.low.extractLsb' 0 6 == 0)
  some { d, a, b, c, last := r.low.getLsbD 6, acc, sat := r.low.getLsbD 7 }

/-- MACQ: a tile field alone. -/
def TileOp.toRaw (op : BitVec 8) (o : TileOp) : RawA := rawA op o.g (tileCode o.d) 0 0 0 0
def TileOp.ofRaw (r : RawA) : Option TileOp := do
  let g ← r.guard
  let d ← tileOfCode r.d
  need (r.look == 0 && r.a == 0 && r.b == 0 && r.c == 0 && r.low == 0)
  some { g, d }

def ObrelOp.toRaw (op : BitVec 8) (o : ObrelOp) : RawA := rawA op o.g (tileCode o.d) 0 0 0 0
def ObrelOp.ofRaw (r : RawA) : Option ObrelOp := do
  let g ← r.guard
  let d ← tileOfCode r.d
  need (r.look == 0 && r.a == 0 && r.b == 0 && r.c == 0 && r.low == 0)
  some { g, d }

def MrelOp.toRaw (op : BitVec 8) (o : MrelOp) : RawA := rawA op o.g (tileCode o.d) 0 0 0 (bit o.free ++ 0#9)
def MrelOp.ofRaw (r : RawA) : Option MrelOp := do
  let g ← r.guard
  let d ← tileOfCode r.d
  need (r.look == 0 && r.a == 0 && r.b == 0 && r.c == 0 && r.low.extractLsb' 0 9 == 0)
  some { g, d, free := r.low.getLsbD 9 }

def MrdOp.toRaw (op : BitVec 8) (o : MrdOp) : RawA :=
  { rawA op o.g (vCode o.d) (tileCode o.a) o.b.reg.code 0 (0#1 ++ bit o.b.last ++ 0#8) with look := o.look }
def MrdOp.ofRaw (r : RawA) : Option MrdOp := do
  let g ← r.guard
  let d ← vOfCode r.d
  let a ← tileOfCode r.a
  let b ← Reg.ofCode r.b
  need (r.c == 0 && !r.low.getLsbD 9 && r.low.extractLsb' 0 8 == 0)
  some { look := r.look, g, d, a, b := { reg := b, last := r.low.getLsbD 8 } }

def MwrOp.toRaw (op : BitVec 8) (o : MwrOp) : RawA :=
  rawA op o.g (tileCode o.d) o.a.reg.code o.b.reg.code 0 (bit o.a.last ++ bit o.b.last ++ 0#8)
def MwrOp.ofRaw (r : RawA) : Option MwrOp := do
  let g ← r.guard
  let d ← tileOfCode r.d
  let a ← Reg.ofCode r.a
  let b ← Reg.ofCode r.b
  need (r.look == 0 && r.c == 0 && r.low.extractLsb' 0 8 == 0)
  some { g, d, a := { reg := a, last := r.low.getLsbD 9 }, b := { reg := b, last := r.low.getLsbD 8 } }

/-- Scope 6 stands for no atomic maximum. -/
def MdrainOp.toRaw (op : BitVec 8) (o : MdrainOp) : RawA :=
  match o.max with
  | some (p, sc) => rawA op none (tileCode o.d) (quadCode o.quad) (pairCode p) 0
      (o.target.code ++ o.scale ++ bit o.wide ++ o.space.code ++ sc.code)
  | none => rawA op none (tileCode o.d) (quadCode o.quad) 0 0
      (o.target.code ++ o.scale ++ bit o.wide ++ o.space.code ++ 6#3)
def MdrainOp.ofRaw (r : RawA) : Option MdrainOp := do
  let g ← r.guard
  let d ← tileOfCode r.d
  let quad ← quadOfCode r.a
  let target ← DrainTarget.ofCode (r.low.extractLsb' 7 3)
  need (g == none && r.look == 0 && r.c == 0)
  if r.low.extractLsb' 0 3 = 6#3 then
    need (r.b == 0)
    some { d, quad, max := none, target, scale := r.low.extractLsb' 5 2, wide := r.low.getLsbD 4
           space := Space.ofCode (r.low.getLsbD 3) }
  else
    let p ← pairOfCode r.b
    let sc ← Scope.ofCode (r.low.extractLsb' 0 3)
    some { d, quad, max := some (p, sc), target, scale := r.low.extractLsb' 5 2, wide := r.low.getLsbD 4
           space := Space.ofCode (r.low.getLsbD 3) }

def MzeroOp.toRaw (op : BitVec 8) (o : MzeroOp) : RawA := rawA op o.g (tileCode o.d) 0 0 0 (o.ty.code ++ 0#8)
def MzeroOp.ofRaw (r : RawA) : Option MzeroOp := do
  let g ← r.guard
  let d ← tileOfCode r.d
  let ty ← AccTy.ofCode (r.low.extractLsb' 8 2)
  need (r.look == 0 && r.a == 0 && r.b == 0 && r.c == 0 && r.low.extractLsb' 0 8 == 0)
  some { g, d, ty }

def WinvOp.toRaw (op : BitVec 8) (o : WinvOp) : RawA := rawA op o.g (slotCode o.d) 0 0 0 0
def WinvOp.ofRaw (r : RawA) : Option WinvOp := do
  let g ← r.guard
  let d ← slotOfCode r.d
  need (r.look == 0 && r.a == 0 && r.b == 0 && r.c == 0 && r.low == 0)
  some { g, d }

/-- MSTAT: a pair destination alone. -/
def PairOp.toRaw (op : BitVec 8) (o : PairOp) : RawA := rawA op o.g (pairCode o.p) 0 0 0 0
def PairOp.ofRaw (r : RawA) : Option PairOp := do
  let g ← r.guard
  let p ← pairOfCode r.d
  need (r.look == 0 && r.a == 0 && r.b == 0 && r.c == 0 && r.low == 0)
  some { g, p }

/-! ### Kernel and rotation words (17 R308, 21 R373) -/

def WcreateOp.toRaw (op : BitVec 8) (o : WcreateOp) : RawA :=
  rawA op o.g (pairCode o.d) (quadCode o.quad) 0 0 (o.kind.code ++ 0#7)
def WcreateOp.ofRaw (r : RawA) : Option WcreateOp := do
  let g ← r.guard
  let d ← pairOfCode r.d
  let quad ← quadOfCode r.a
  let kind ← ObjKind.ofCode (r.low.extractLsb' 7 3)
  need (r.look == 0 && r.b == 0 && r.c == 0 && r.low.extractLsb' 0 7 == 0)
  some { g, d, quad, kind }

def K2Op.toRaw (op : BitVec 8) (o : K2Op) : RawA :=
  rawA op o.g (pairCode o.d) (sCode o.a) (sCode o.b) 0 (bit o.flag ++ 0#9)
def K2Op.ofRaw (r : RawA) : Option K2Op := do
  let g ← r.guard
  let d ← pairOfCode r.d
  let a ← sOfCode r.a
  let b ← sOfCode r.b
  need (r.look == 0 && r.c == 0 && r.low.extractLsb' 0 9 == 0)
  some { g, d, a, b, flag := r.low.getLsbD 9 }

def K1Op.toRaw (op : BitVec 8) (o : K1Op) : RawA :=
  rawA op o.g (pairCode o.d) (sCode o.a) 0 0 (bit o.flag ++ 0#9)
def K1Op.ofRaw (r : RawA) : Option K1Op := do
  let g ← r.guard
  let d ← pairOfCode r.d
  let a ← sOfCode r.a
  need (r.look == 0 && r.b == 0 && r.c == 0 && r.low.extractLsb' 0 9 == 0)
  some { g, d, a, flag := r.low.getLsbD 9 }

def PrecvOp.toRaw (op : BitVec 8) (o : PrecvOp) : RawA :=
  match o.landing with
  | some p => rawA op o.g (pairCode o.d) (quadCode o.quad) (pairCode p) 0 (bit o.flag ++ 0#9)
  | none => rawA op o.g (pairCode o.d) (quadCode o.quad) 0 0 (bit o.flag ++ 0#9)
def PrecvOp.ofRaw (r : RawA) : Option PrecvOp := do
  let g ← r.guard
  let d ← pairOfCode r.d
  let quad ← quadOfCode r.a
  need (r.look == 0 && r.c == 0 && r.low.extractLsb' 0 9 == 0)
  if r.b = 0 then some { g, d, quad, landing := none, flag := r.low.getLsbD 9 }
  else
    let p ← pairOfCode r.b
    some { g, d, quad, landing := some p, flag := r.low.getLsbD 9 }

def PnoteOp.toRaw (op : BitVec 8) (o : PnoteOp) : RawA := rawA op o.g 0 (sCode o.a) (sCode o.b) 0 0
def PnoteOp.ofRaw (r : RawA) : Option PnoteOp := do
  let g ← r.guard
  let a ← sOfCode r.a
  let b ← sOfCode r.b
  need (r.look == 0 && r.d == 0 && r.c == 0 && r.low == 0)
  some { g, a, b }

/-- The member bits [9:0] of WSADD. -/
def MemberSel.code : MemberSel → BitVec 10
  | .handle => 0
  | .barrier => 1#2 ++ 0#8
  | .monitor c sg sc => 2#2 ++ c.code ++ 0#1 ++ bit sg ++ sc.code
def MemberSel.ofCode (x : BitVec 10) : Option MemberSel :=
  if x = 0 then some .handle
  else if x = (1#2 ++ 0#8 : BitVec 10) then some .barrier
  else do
    let c ← MonCond.ofCode (x.extractLsb' 5 3)
    let sc ← Scope.ofCode (x.extractLsb' 0 3)
    need (x.extractLsb' 8 2 == 2#2 && !x.getLsbD 4)
    some (.monitor c (x.getLsbD 3) sc)

def WsaddOp.toRaw (op : BitVec 8) (o : WsaddOp) : RawA :=
  rawA op o.g (pairCode o.d) (sCode o.a) (quadCode o.quad) (sCode o.key) o.member.code
def WsaddOp.ofRaw (r : RawA) : Option WsaddOp := do
  let g ← r.guard
  let d ← pairOfCode r.d
  let a ← sOfCode r.a
  let quad ← quadOfCode r.b
  let key ← sOfCode r.c
  let member ← MemberSel.ofCode r.low
  need (r.look == 0)
  some { g, d, a, quad, key, member }

def TarmOp.toRaw (op : BitVec 8) (o : TarmOp) : RawA :=
  rawA op o.g (pairCode o.d) (sCode o.a) (pairCode o.dur) 0 (bit o.per ++ 0#9)
def TarmOp.ofRaw (r : RawA) : Option TarmOp := do
  let g ← r.guard
  let d ← pairOfCode r.d
  let a ← sOfCode r.a
  let dur ← pairOfCode r.b
  need (r.look == 0 && r.c == 0 && r.low.extractLsb' 0 9 == 0)
  some { g, d, a, dur, per := r.low.getLsbD 9 }

def KPairOp.toRaw (op : BitVec 8) (o : KPairOp) : RawA := rawA op o.g (pairCode o.d) (pairCode o.a) 0 0 0
def KPairOp.ofRaw (r : RawA) : Option KPairOp := do
  let g ← r.guard
  let d ← pairOfCode r.d
  let a ← pairOfCode r.a
  need (r.look == 0 && r.b == 0 && r.c == 0 && r.low == 0)
  some { g, d, a }

def NsbindOp.toRaw (op : BitVec 8) (o : NsbindOp) : RawA :=
  match o.b with
  | some b => rawA op o.g (pairCode o.d) (pairCode o.a) (sCode b) 0 0
  | none => rawA op o.g (pairCode o.d) (pairCode o.a) 0 0 (1#1 ++ 0#9)
def NsbindOp.ofRaw (r : RawA) : Option NsbindOp := do
  let g ← r.guard
  let d ← pairOfCode r.d
  let a ← pairOfCode r.a
  need (r.look == 0 && r.c == 0 && r.low.extractLsb' 0 9 == 0)
  if r.low.getLsbD 9 then
    need (r.b == 0)
    some { g, d, a, b := none }
  else
    let b ← sOfCode r.b
    some { g, d, a, b := some b }

def GcondOp.toRaw (op : BitVec 8) (o : GcondOp) : RawA :=
  rawA op o.g (pairCode o.d) (sCode o.a) (sCode o.b) (sCode o.c) (o.kind.code ++ 0#8)
def GcondOp.ofRaw (r : RawA) : Option GcondOp := do
  let g ← r.guard
  let d ← pairOfCode r.d
  let a ← sOfCode r.a
  let b ← sOfCode r.b
  let c ← sOfCode r.c
  need (r.look == 0 && r.low.extractLsb' 0 8 == 0)
  some { g, d, a, b, c, kind := GcondKind.ofCode (r.low.extractLsb' 8 2) }

def HintOp.toRaw (op : BitVec 8) (o : HintOp) : RawA := rawA op o.g 0 (sCode o.a) 0 0 (bit o.flush ++ 0#9)
def HintOp.ofRaw (r : RawA) : Option HintOp := do
  let g ← r.guard
  let a ← sOfCode r.a
  need (r.look == 0 && r.d == 0 && r.b == 0 && r.c == 0 && r.low.extractLsb' 0 9 == 0)
  some { g, a, flush := r.low.getLsbD 9 }

def OinfoOp.toRaw (op : BitVec 8) (o : OinfoOp) : RawA :=
  rawA op o.g (pairCode o.d) (sCode o.a) 0 0 (o.sel ++ 0#8)
def OinfoOp.ofRaw (r : RawA) : Option OinfoOp := do
  let g ← r.guard
  let d ← pairOfCode r.d
  let a ← sOfCode r.a
  need (r.look == 0 && r.b == 0 && r.c == 0 && r.low.extractLsb' 0 8 == 0)
  some { g, d, a, sel := r.low.extractLsb' 8 2 }

/-! ### Special-register rows that name their register -/

/-- RSR of nonce, entropy or mbwait, and WSR of drop, reprio, keywipe, dbgctl or measure, as a pair and a number. -/
def rsrPair (num : BitVec 12) (o : PairOp) : RsrOp := { g := o.g, d := .pair o.p, num }
def wsrPair (num : BitVec 12) (o : PairOp) : WsrOp := { g := o.g, a := o.p, num }

/-- A legal RSR: rows of their own for the registers whose read acts. -/
def rsrInstr (o : RsrOp) : Option Instr :=
  match o.d with
  | .lane _ => if o.wf then some (.rsr o) else none
  | .pair p =>
    if o.num = 0x041 then some (.mbwaitRead { g := o.g, p })
    else if o.num = 0x106 then some (.nonceRead { g := o.g, p })
    else if o.num = 0x10A then some (.entropyRead { g := o.g, p })
    else if o.wf then some (.rsr o) else none

/-- A legal WSR: rows of their own for the registers whose write acts. -/
def wsrInstr (o : WsrOp) : Option Instr :=
  if o.num = 0x050 then some (.dropWrite { g := o.g, p := o.a })
  else if o.num = 0x051 then some (.reprioWrite { g := o.g, p := o.a })
  else if o.num = 0x107 then some (.keywipeWrite { g := o.g, p := o.a })
  else if o.num = 0x108 then some (.dbgctlWrite { g := o.g, p := o.a })
  else if o.num = 0x109 then some (.measureWrite { g := o.g, p := o.a })
  else if o.wf then some (.wsr o) else none


/-! ### The opcode map (01 R35) -/

/-- Full A, opcodes 0x00 to 0x1F: the fields alone. -/
def decodeAInteger (r : RawA) : Option Instr :=
  match r.op.toNat with
  | 0x00 => (Alu2.ofRaw r).map .iadd
  | 0x01 => (Alu2.ofRaw r).map .isub
  | 0x02 => (Alu2.ofRaw r).map .imul
  | 0x03 => (Alu2.ofRaw r).map .imulh
  | 0x04 => (Alu3.ofRaw r).map .imad
  | 0x05 => (Alu2.ofRaw r).map .idiv
  | 0x06 => (Alu2.ofRaw r).map .irem
  | 0x07 => (Alu2.ofRaw r).map .imin
  | 0x08 => (Alu2.ofRaw r).map .imax
  | 0x09 => (Alu1.ofRaw r).map .iabs
  | 0x0A => (Alu2.ofRaw r).map .and
  | 0x0B => (Alu2.ofRaw r).map .or
  | 0x0C => (Alu2.ofRaw r).map .xor
  | 0x0D => (Alu2.ofRaw r).map .andn
  | 0x0E => (Alu2.ofRaw r).map .shl
  | 0x0F => (Alu2.ofRaw r).map .shr
  | 0x10 => (Alu2.ofRaw r).map .rot
  | 0x11 => (BfeOp.ofRaw r).map .bfe
  | 0x12 => (Bits3Op.ofRaw 0 r).map .bfi
  | 0x13 => (Alu1.ofRaw r).map .popc
  | 0x14 => (Alu1.ofRaw r).map .clz
  | 0x15 => (Alu1.ofRaw r).map .brev
  | 0x16 => (IcmpOp.ofRaw r).map .icmp
  | 0x17 => (PickOp.ofRaw r).map .pick
  | 0x18 => (Alu1.ofRaw r).map .mov
  | 0x19 => (MovxOp.ofRaw r).map .movx
  | 0x1A => (ShmapOp.ofRaw r).map .shmap
  | 0x1B => (QcfgOp.ofRaw r).map .qcfg
  | 0x1C => (LeaOp.ofRaw r).map .lea
  | 0x1D => (Bits3Op.ofRaw 0x70 r).map .bsel
  | _ => none

/-- Full A, opcodes 0x20 to 0x3F: the fields alone. -/
def decodeAFloat (r : RawA) : Option Instr :=
  match r.op.toNat with
  | 0x20 => (Alu2.ofRaw r).map .fadd
  | 0x21 => (Alu2.ofRaw r).map .fsub
  | 0x22 => (Alu2.ofRaw r).map .fmul
  | 0x23 => (Alu3.ofRaw r).map .ffma
  | 0x24 => (Alu2.ofRaw r).map .fmin
  | 0x25 => (Alu2.ofRaw r).map .fmax
  | 0x26 => (FcmpOp.ofRaw r).map .fcmp
  | 0x27 => (FclassOp.ofRaw r).map .fclass
  | 0x28 => (Alu1.ofRaw r).map .fabs
  | 0x29 => (Alu1.ofRaw r).map .fneg
  | 0x2A => (Alu3.ofRaw r).map .fdot2
  | 0x2B => (Alu3.ofRaw r).map .fdot4
  | 0x2C => (Alu2.ofRaw r).map .fcpys
  | 0x2D => (FrndOp.ofRaw r).map .frnd
  | 0x2E => (Alu2.ofRaw r).map .fscale
  | 0x2F => (Alu1.ofRaw r).map .fexp
  | _ => none

/-- Full A, opcodes 0x40 to 0x5F: the fields alone. -/
def decodeAConvert (r : RawA) : Option Instr :=
  match r.op.toNat with
  | 0x40 => (CvtOp.ofRaw r).map .cvt
  | 0x42 => (Alu1.ofRaw r).map .rcp
  | 0x43 => (Alu1.ofRaw r).map .rsq
  | 0x44 => (Alu1.ofRaw r).map .sqrt
  | 0x45 => (Alu1.ofRaw r).map .ex2
  | 0x46 => (Alu1.ofRaw r).map .lg2
  | 0x47 => (Alu1.ofRaw r).map .sin
  | 0x48 => (Alu1.ofRaw r).map .cos
  | 0x49 => (Alu1.ofRaw r).map .tanh
  | 0x4A => (ShflOp.ofRaw r).map .shfl
  | 0x4B => (ShflOp.ofRaw r).map .shflx
  | 0x4C => (ShflOp.ofRaw r).map .shflup
  | 0x4D => (ShflOp.ofRaw r).map .shfldn
  | 0x4E => (VoteOp.ofRaw r).map .vote
  | 0x4F => (BallotOp.ofRaw r).map .ballot
  | 0x50 => (LaneRedOp.ofRaw r).map .redl
  | 0x51 => (LaneRedOp.ofRaw r).map .scanl
  | 0x52 => (RdlaneOp.ofRaw r).map .rdlane
  | _ => none

/-- Full A, opcodes 0x60 to 0x7F: the fields alone. -/
def decodeAControl (r : RawA) : Option Instr :=
  match r.op.toNat with
  | 0x60 => (PcombOp.ofRaw r).map .pcomb
  | 0x61 => (P2sOp.ofRaw r).map .p2s
  | 0x62 => (S2pOp.ofRaw r).map .s2p
  | 0x64 => (BrxOp.ofRaw r).map .brx
  | 0x66 => (S1Op.ofRaw r).map .ret
  | 0x6A => (bareOfRaw r).map .exit
  | 0x6D => (bareOfRaw r).map .leave
  | 0x6F => do let g ← bareOfRaw r; need (g == none); some .tret
  | 0x73 => (bareOfRaw r).map .nop
  | 0x74 => (bareOfRaw r).map .yield
  | _ => none

/-- Full A, opcodes 0x80 to 0x9F: the fields alone. -/
def decodeAMemory (r : RawA) : Option Instr :=
  match r.op.toNat with
  | 0x95 => (AtomOp.ofRaw r).map .atom
  | 0x96 => (RedMOp.ofRaw r).map .redM
  | 0x97 => (FenceOp.ofRaw r).map .fence
  | 0x98 => (FenceMOp.ofRaw r).map .fenceM
  | 0x99 => (WaitcmpOp.ofRaw r).map .waitcmp
  | 0x9A => (WaitcOp.ofRaw r).map .waitc
  | 0x9C => (BinitOp.ofRaw r).map .binit
  | 0x9D => (BarOp.ofRaw r).map .barv
  | 0x9E => (BarOp.ofRaw r).map .bwait
  | _ => none

/-- Full A, opcodes 0xA0 to 0xBF: the fields alone. -/
def decodeAMatrix (r : RawA) : Option Instr :=
  match r.op.toNat with
  | 0xA0 => (ObresOp.ofRaw r).map .obres
  | 0xA1 => (ObrelOp.ofRaw r).map .obrel
  | 0xA2 => (WldOp.ofRaw r).map .wld
  | 0xA3 => (MmaOp.ofRaw r).map .mma
  | 0xA4 => (TileOp.ofRaw r).map .macq
  | 0xA5 => (MrelOp.ofRaw r).map .mrel
  | 0xA6 => (MrdOp.ofRaw r).map .mrd
  | 0xA7 => (MwrOp.ofRaw r).map .mwr
  | 0xA8 => (MdrainOp.ofRaw r).map .mdrain
  | 0xA9 => (MzeroOp.ofRaw r).map .mzero
  | 0xAA => (WinvOp.ofRaw r).map .winv
  | 0xAB => (PairOp.ofRaw r).map .mstat
  | 0xB0 => (S1Op.ofRaw r).map .xkick
  | 0xB1 => (S1Op.ofRaw r).map .xsusp
  | 0xB2 => (XstatOp.ofRaw r).map .xstat
  | _ => none

/-- Full A, opcodes 0xC0 to 0xDF: the fields alone. -/
def decodeAKernel (r : RawA) : Option Instr :=
  match r.op.toNat with
  | 0xC0 => (WcreateOp.ofRaw r).map .wcreate
  | 0xC1 => (K2Op.ofRaw r).map .psend
  | 0xC2 => (PrecvOp.ofRaw r).map .precv
  | 0xC3 => (PnoteOp.ofRaw r).map .pnote
  | 0xC4 => (WsaddOp.ofRaw r).map .wsadd
  | 0xC5 => (K2Op.ofRaw r).map .wsdel
  | 0xC6 => (K2Op.ofRaw r).map .wswait
  | 0xC7 => (TarmOp.ofRaw r).map .tarm
  | 0xC8 => (K1Op.ofRaw r).map .tcan
  | 0xC9 => (K1Op.ofRaw r).map .oclose
  | 0xCA => (K2Op.ofRaw r).map .odup
  | 0xCB => (KPairOp.ofRaw r).map .nslook
  | 0xCC => (NsbindOp.ofRaw r).map .nsbind
  | 0xCD => (K1Op.ofRaw r).map .glaunch
  | 0xCE => (GcondOp.ofRaw r).map .gcond
  | 0xCF => (HintOp.ofRaw r).map .hint
  | 0xD0 => (KPairOp.ofRaw r).map .launch
  | 0xD1 => (OinfoOp.ofRaw r).map .oinfo
  | 0xD8 => (K1Op.ofRaw r).map .rotarm
  | 0xD9 => (K2Op.ofRaw r).map .rotjoin
  | 0xDA => (K2Op.ofRaw r).map .aearm
  | 0xDB => (K2Op.ofRaw r).map .aewait
  | 0xDC => (K1Op.ofRaw r).map .rotend
  | _ => none

/-- Full B, opcodes 0x00 to 0x1F: the fields alone. -/
def decodeBInteger (r : RawB) : Option Instr :=
  match r.op.toNat with
  | 0x00 => (AluI.ofRaw r).map .iaddImm
  | 0x01 => (AluI.ofRaw r).map .isubImm
  | 0x02 => (AluI.ofRaw r).map .imulImm
  | 0x07 => (AluI.ofRaw r).map .iminImm
  | 0x08 => (AluI.ofRaw r).map .imaxImm
  | 0x0A => (AluI.ofRaw r).map .andImm
  | 0x0B => (AluI.ofRaw r).map .orImm
  | 0x0C => (AluI.ofRaw r).map .xorImm
  | 0x0D => (AluI.ofRaw r).map .andnImm
  | 0x0E => (AluI.ofRaw r).map .shlImm
  | 0x0F => (AluI.ofRaw r).map .shrImm
  | 0x10 => (AluI.ofRaw r).map .rotImm
  | 0x18 => (MovI.ofRaw r).map .movImm
  | _ => none

/-- Full B, opcodes 0x20 to 0x3F: the fields alone. -/
def decodeBFloat (r : RawB) : Option Instr :=
  match r.op.toNat with
  | 0x20 => (AluI.ofRaw r).map .faddImm
  | 0x21 => (AluI.ofRaw r).map .fsubImm
  | 0x22 => (AluI.ofRaw r).map .fmulImm
  | 0x24 => (AluI.ofRaw r).map .fminImm
  | 0x25 => (AluI.ofRaw r).map .fmaxImm
  | _ => none

/-- Full B, opcodes 0x60 to 0x7F: the fields alone. -/
def decodeBControl (r : RawB) : Option Instr :=
  match r.op.toNat with
  | 0x63 => (BraOp.ofRaw r).map .bra
  | 0x65 => (CallOp.ofRaw r).map .call
  | 0x67 => (RegangOp.ofRaw r).map .regang
  | 0x68 => (JmpfOp.ofRaw r).map .jmpf
  | 0x69 => (CfetchOp.ofRaw r).map .cfetch
  | 0x6B => (fretOfRaw r).map .fret
  | 0x6C => (Imm16Op.ofRaw r).map .enter
  | 0x6E => (SvcOp.ofRaw r).map .svc
  | 0x70 => (RsrOp.ofRaw r).bind rsrInstr
  | 0x71 => (WsrOp.ofRaw r).bind wsrInstr
  | 0x72 => (Imm16Op.ofRaw r).map .brk
  | _ => none

/-- Full B, opcodes 0x80 to 0x9F: the fields alone. -/
def decodeBMemory (r : RawB) : Option Instr :=
  match r.op.toNat with
  | 0x80 => (MemOp.ofRaw r).map .ldGN8
  | 0x81 => (MemOp.ofRaw r).map .ldGS8
  | 0x82 => (MemOp.ofRaw r).map .ldGN16
  | 0x83 => (MemOp.ofRaw r).map .ldGS16
  | 0x84 => (MemOp.ofRaw r).map .ldGB32
  | 0x85 => (MemOp.ofRaw r).map .ldGB64
  | 0x86 => (MemOp.ofRaw r).map .ldSN8
  | 0x87 => (MemOp.ofRaw r).map .ldSS8
  | 0x88 => (MemOp.ofRaw r).map .ldSN16
  | 0x89 => (MemOp.ofRaw r).map .ldSS16
  | 0x8A => (MemOp.ofRaw r).map .ldSB32
  | 0x8B => (MemOp.ofRaw r).map .ldSB64
  | 0x8C => (MemOp.ofRaw r).map .ldPB32
  | 0x8D => (MemOp.ofRaw r).map .stGB8
  | 0x8E => (MemOp.ofRaw r).map .stGB16
  | 0x8F => (MemOp.ofRaw r).map .stGB32
  | 0x90 => (MemOp.ofRaw r).map .stGB64
  | 0x91 => (MemOp.ofRaw r).map .stSB8
  | 0x92 => (MemOp.ofRaw r).map .stSB16
  | 0x93 => (MemOp.ofRaw r).map .stSB32
  | 0x94 => (MemOp.ofRaw r).map .stSB64
  | 0x9B => (PrefOp.ofRaw r).map .pref
  | _ => none

/-- Full A: the fields of the opcode's group (01 R35). -/
def fieldsA (r : RawA) : Option Instr :=
  match (r.op.extractLsb' 5 3).toNat with
  | 0 => decodeAInteger r
  | 1 => decodeAFloat r
  | 2 => decodeAConvert r
  | 3 => decodeAControl r
  | 4 => decodeAMemory r
  | 5 => decodeAMatrix r
  | 6 => decodeAKernel r
  | _ => none

/-- Full B: the fields of the opcode's group (01 R35). -/
def fieldsB (r : RawB) : Option Instr :=
  match (r.op.extractLsb' 5 3).toNat with
  | 0 => decodeBInteger r
  | 1 => decodeBFloat r
  | 3 => decodeBControl r
  | 4 => decodeBMemory r
  | _ => none

/-- The opcodes the map marks A. -/
def opcodesA : List Nat :=
  [0x00, 0x01, 0x02, 0x03, 0x04, 0x05, 0x06, 0x07, 0x08, 0x09, 0x0A, 0x0B, 0x0C, 0x0D, 0x0E, 0x0F] ++
  [0x10, 0x11, 0x12, 0x13, 0x14, 0x15, 0x16, 0x17, 0x18, 0x19, 0x1A, 0x1B, 0x1C, 0x1D, 0x20, 0x21] ++
  [0x22, 0x23, 0x24, 0x25, 0x26, 0x27, 0x28, 0x29, 0x2A, 0x2B, 0x2C, 0x2D, 0x2E, 0x2F, 0x40, 0x42] ++
  [0x43, 0x44, 0x45, 0x46, 0x47, 0x48, 0x49, 0x4A, 0x4B, 0x4C, 0x4D, 0x4E, 0x4F, 0x50, 0x51, 0x52] ++
  [0x60, 0x61, 0x62, 0x64, 0x66, 0x6A, 0x6D, 0x6F, 0x73, 0x74, 0x95, 0x96, 0x97, 0x98, 0x99, 0x9A] ++
  [0x9C, 0x9D, 0x9E, 0xA0, 0xA1, 0xA2, 0xA3, 0xA4, 0xA5, 0xA6, 0xA7, 0xA8, 0xA9, 0xAA, 0xAB, 0xB0] ++
  [0xB1, 0xB2, 0xC0, 0xC1, 0xC2, 0xC3, 0xC4, 0xC5, 0xC6, 0xC7, 0xC8, 0xC9, 0xCA, 0xCB, 0xCC, 0xCD] ++
  [0xCE, 0xCF, 0xD0, 0xD1, 0xD8, 0xD9, 0xDA, 0xDB, 0xDC]

/-- The opcodes the map marks B. -/
def opcodesB : List Nat :=
  [0x00, 0x01, 0x02, 0x07, 0x08, 0x0A, 0x0B, 0x0C, 0x0D, 0x0E, 0x0F, 0x10, 0x18, 0x20, 0x21, 0x22] ++
  [0x24, 0x25, 0x63, 0x65, 0x67, 0x68, 0x69, 0x6B, 0x6C, 0x6E, 0x70, 0x71, 0x72, 0x80, 0x81, 0x82] ++
  [0x83, 0x84, 0x85, 0x86, 0x87, 0x88, 0x89, 0x8A, 0x8B, 0x8C, 0x8D, 0x8E, 0x8F, 0x90, 0x91, 0x92] ++
  [0x93, 0x94, 0x9B]

/-- The dual opcode map (01 R37). -/
def DualOp.ofCode (x : BitVec 8) : Option DualOp :=
  match x.toNat with
  | 0x00 => some .nop
  | 0x01 => some .iadd
  | 0x02 => some .isub
  | 0x03 => some .imul
  | 0x04 => some .imin
  | 0x05 => some .imax
  | 0x06 => some .and
  | 0x07 => some .or
  | 0x08 => some .xor
  | 0x09 => some .andn
  | 0x0A => some .shl
  | 0x0B => some .shr
  | 0x0C => some .mov
  | 0x0D => some .iaddi
  | 0x0E => some .movi
  | 0x0F => some .shli
  | 0x10 => some .shri
  | 0x11 => some .icmpEq
  | 0x12 => some .icmpNe
  | 0x13 => some .icmpLtS
  | 0x14 => some .icmpLtN
  | 0x15 => some .icmpLeS
  | 0x16 => some .icmpLeN
  | 0x17 => some .pand
  | 0x18 => some .por
  | 0x19 => some .pxor
  | 0x1A => some .pnot
  | 0x1B => some .pmov
  | 0x1C => some .fadd
  | 0x1D => some .fsub
  | 0x1E => some .fmul
  | 0x1F => some .fmin
  | 0x20 => some .fmax
  | 0x21 => some .fabs
  | 0x22 => some .fneg
  | 0x23 => some .popc
  | 0x24 => some .clz
  | 0x25 => some .brev
  | 0x26 => some .iabs
  | 0x27 => some .fcmpLt
  | _ => none

def DualOp.code : DualOp → BitVec 8
  | .nop => 0x00
  | .iadd => 0x01
  | .isub => 0x02
  | .imul => 0x03
  | .imin => 0x04
  | .imax => 0x05
  | .and => 0x06
  | .or => 0x07
  | .xor => 0x08
  | .andn => 0x09
  | .shl => 0x0A
  | .shr => 0x0B
  | .mov => 0x0C
  | .iaddi => 0x0D
  | .movi => 0x0E
  | .shli => 0x0F
  | .shri => 0x10
  | .icmpEq => 0x11
  | .icmpNe => 0x12
  | .icmpLtS => 0x13
  | .icmpLtN => 0x14
  | .icmpLeS => 0x15
  | .icmpLeN => 0x16
  | .pand => 0x17
  | .por => 0x18
  | .pxor => 0x19
  | .pnot => 0x1A
  | .pmov => 0x1B
  | .fadd => 0x1C
  | .fsub => 0x1D
  | .fmul => 0x1E
  | .fmin => 0x1F
  | .fmax => 0x20
  | .fabs => 0x21
  | .fneg => 0x22
  | .popc => 0x23
  | .clz => 0x24
  | .brev => 0x25
  | .iabs => 0x26
  | .fcmpLt => 0x27

/-- A dual word is the row of its half X, carrying half Y. -/
def dualInstr (x y : DualHalf) : Instr :=
  match x.op with
  | .nop => .dualNop x.f y
  | .iadd => .dualIadd x.f y
  | .isub => .dualIsub x.f y
  | .imul => .dualImul x.f y
  | .imin => .dualImin x.f y
  | .imax => .dualImax x.f y
  | .and => .dualAnd x.f y
  | .or => .dualOr x.f y
  | .xor => .dualXor x.f y
  | .andn => .dualAndn x.f y
  | .shl => .dualShl x.f y
  | .shr => .dualShr x.f y
  | .mov => .dualMov x.f y
  | .iaddi => .iaddi x.f y
  | .movi => .movi x.f y
  | .shli => .shli x.f y
  | .shri => .shri x.f y
  | .icmpEq => .dualIcmpEq x.f y
  | .icmpNe => .dualIcmpNe x.f y
  | .icmpLtS => .dualIcmpLtS32 x.f y
  | .icmpLtN => .dualIcmpLtN32 x.f y
  | .icmpLeS => .dualIcmpLeS32 x.f y
  | .icmpLeN => .dualIcmpLeN32 x.f y
  | .pand => .pand x.f y
  | .por => .por x.f y
  | .pxor => .pxor x.f y
  | .pnot => .pnot x.f y
  | .pmov => .pmov x.f y
  | .fadd => .dualFadd x.f y
  | .fsub => .dualFsub x.f y
  | .fmul => .dualFmul x.f y
  | .fmin => .dualFmin x.f y
  | .fmax => .dualFmax x.f y
  | .fabs => .dualFabs x.f y
  | .fneg => .dualFneg x.f y
  | .popc => .dualPopc x.f y
  | .clz => .dualClz x.f y
  | .brev => .dualBrev x.f y
  | .iabs => .dualIabs x.f y
  | .fcmpLt => .dualFcmpLtF32 x.f y

def DualHalf.raw (h : DualHalf) : RawHalf := { op := h.op.code, f := h.f }

/-! ### Decoding (01 R39) -/

/-- What a word is: an instruction, or a word that raises the trap of 01 R36 or R39. -/
inductive Decoded where
  | instr (i : Instr)
  | illegal (code : Byte)
deriving DecidableEq, Repr

/-- A word whose fields hold together, or the illegal-word trap. -/
def checkWord (i : Option Instr) : Decoded :=
  match i with
  | some i => if i.wf then .instr i else .illegal 0x02
  | none => .illegal 0x02

/-- Steps 2 to 4 for a full A word. -/
def decodeA (r : RawA) : Decoded :=
  if r.op.toNat ∈ opcodesA then checkWord (fieldsA r)
  else if r.op.toNat ∈ opcodesB then .illegal 0x02 else .illegal 0x01

/-- Steps 2 to 4 for a full B word. -/
def decodeB (r : RawB) : Decoded :=
  if r.op.toNat ∈ opcodesB then checkWord (fieldsB r)
  else if r.op.toNat ∈ opcodesA then .illegal 0x02 else .illegal 0x01

/-- Steps 2, 4 and 5 for a dual word. -/
def decodeDual (x y : RawHalf) : Decoded :=
  match DualOp.ofCode x.op, DualOp.ofCode y.op with
  | some a, some b => checkWord (some (dualInstr { op := a, f := x.f } { op := b, f := y.f }))
  | _, _ => .illegal 0x01

/-- Decode a word: total, and every word that is no instruction names its trap. (DESIGN CHOICE, log 66) -/
def decode (w : W64) : Decoded :=
  match (w.extractLsb' 62 2).toNat with
  | 0 => decodeA (RawA.ofWord w)
  | 1 => decodeB (RawB.ofWord w)
  | 2 => decodeDual (RawHalf.ofBits (w.extractLsb' 31 31)) (RawHalf.ofBits (w.extractLsb' 0 31))
  | _ => .illegal 0x02

/-- The instruction in a word of the table's bit numbering: the word itself (01 R20), or none where it traps. -/
def decodeTableWord (_nbits w : Nat) : Option Instr :=
  match decode (BitVec.ofNat 64 w) with
  | .instr i => some i
  | .illegal _ => none

/-! ### Encoding -/

/-- The word of an instruction; an event has none. -/
def encode : Instr → Option W64
  | .iadd o => some (o.toRaw 0x00).toWord
  | .iaddImm o => some (o.toRaw 0x00).toWord
  | .isub o => some (o.toRaw 0x01).toWord
  | .isubImm o => some (o.toRaw 0x01).toWord
  | .imul o => some (o.toRaw 0x02).toWord
  | .imulImm o => some (o.toRaw 0x02).toWord
  | .imulh o => some (o.toRaw 0x03).toWord
  | .imad o => some (o.toRaw 0x04).toWord
  | .idiv o => some (o.toRaw 0x05).toWord
  | .irem o => some (o.toRaw 0x06).toWord
  | .imin o => some (o.toRaw 0x07).toWord
  | .iminImm o => some (o.toRaw 0x07).toWord
  | .imax o => some (o.toRaw 0x08).toWord
  | .imaxImm o => some (o.toRaw 0x08).toWord
  | .iabs o => some (o.toRaw 0x09).toWord
  | .and o => some (o.toRaw 0x0A).toWord
  | .andImm o => some (o.toRaw 0x0A).toWord
  | .or o => some (o.toRaw 0x0B).toWord
  | .orImm o => some (o.toRaw 0x0B).toWord
  | .xor o => some (o.toRaw 0x0C).toWord
  | .xorImm o => some (o.toRaw 0x0C).toWord
  | .andn o => some (o.toRaw 0x0D).toWord
  | .andnImm o => some (o.toRaw 0x0D).toWord
  | .shl o => some (o.toRaw 0x0E).toWord
  | .shlImm o => some (o.toRaw 0x0E).toWord
  | .shr o => some (o.toRaw 0x0F).toWord
  | .shrImm o => some (o.toRaw 0x0F).toWord
  | .rot o => some (o.toRaw 0x10).toWord
  | .rotImm o => some (o.toRaw 0x10).toWord
  | .bfe o => some (o.toRaw 0x11).toWord
  | .bfi o => some (o.toRaw 0 0x12).toWord
  | .popc o => some (o.toRaw 0x13).toWord
  | .clz o => some (o.toRaw 0x14).toWord
  | .brev o => some (o.toRaw 0x15).toWord
  | .icmp o => some (o.toRaw 0x16).toWord
  | .pick o => some (o.toRaw 0x17).toWord
  | .mov o => some (o.toRaw 0x18).toWord
  | .movImm o => some (o.toRaw 0x18).toWord
  | .movx o => some (o.toRaw 0x19).toWord
  | .shmap o => some (o.toRaw 0x1A).toWord
  | .qcfg o => some (o.toRaw 0x1B).toWord
  | .lea o => some (o.toRaw 0x1C).toWord
  | .bsel o => some (o.toRaw 0x70 0x1D).toWord
  | .fadd o => some (o.toRaw 0x20).toWord
  | .faddImm o => some (o.toRaw 0x20).toWord
  | .fsub o => some (o.toRaw 0x21).toWord
  | .fsubImm o => some (o.toRaw 0x21).toWord
  | .fmul o => some (o.toRaw 0x22).toWord
  | .fmulImm o => some (o.toRaw 0x22).toWord
  | .ffma o => some (o.toRaw 0x23).toWord
  | .fmin o => some (o.toRaw 0x24).toWord
  | .fminImm o => some (o.toRaw 0x24).toWord
  | .fmax o => some (o.toRaw 0x25).toWord
  | .fmaxImm o => some (o.toRaw 0x25).toWord
  | .fcmp o => some (o.toRaw 0x26).toWord
  | .fclass o => some (o.toRaw 0x27).toWord
  | .fabs o => some (o.toRaw 0x28).toWord
  | .fneg o => some (o.toRaw 0x29).toWord
  | .fdot2 o => some (o.toRaw 0x2A).toWord
  | .fdot4 o => some (o.toRaw 0x2B).toWord
  | .fcpys o => some (o.toRaw 0x2C).toWord
  | .frnd o => some (o.toRaw 0x2D).toWord
  | .fscale o => some (o.toRaw 0x2E).toWord
  | .fexp o => some (o.toRaw 0x2F).toWord
  | .cvt o => some (o.toRaw 0x40).toWord
  | .rcp o => some (o.toRaw 0x42).toWord
  | .rsq o => some (o.toRaw 0x43).toWord
  | .sqrt o => some (o.toRaw 0x44).toWord
  | .ex2 o => some (o.toRaw 0x45).toWord
  | .lg2 o => some (o.toRaw 0x46).toWord
  | .sin o => some (o.toRaw 0x47).toWord
  | .cos o => some (o.toRaw 0x48).toWord
  | .tanh o => some (o.toRaw 0x49).toWord
  | .shfl o => some (o.toRaw 0x4A).toWord
  | .shflx o => some (o.toRaw 0x4B).toWord
  | .shflup o => some (o.toRaw 0x4C).toWord
  | .shfldn o => some (o.toRaw 0x4D).toWord
  | .vote o => some (o.toRaw 0x4E).toWord
  | .ballot o => some (o.toRaw 0x4F).toWord
  | .redl o => some (o.toRaw 0x50).toWord
  | .scanl o => some (o.toRaw 0x51).toWord
  | .rdlane o => some (o.toRaw 0x52).toWord
  | .pcomb o => some (o.toRaw 0x60).toWord
  | .p2s o => some (o.toRaw 0x61).toWord
  | .s2p o => some (o.toRaw 0x62).toWord
  | .bra o => some (o.toRaw 0x63).toWord
  | .brx o => some (o.toRaw 0x64).toWord
  | .call o => some (o.toRaw 0x65).toWord
  | .ret o => some (o.toRaw 0x66).toWord
  | .regang o => some (o.toRaw 0x67).toWord
  | .jmpf o => some (o.toRaw 0x68).toWord
  | .cfetch o => some (o.toRaw 0x69).toWord
  | .exit g => some (bareToRaw 0x6A g).toWord
  | .fret i => some (fretToRaw 0x6B i).toWord
  | .enter o => some (o.toRaw 0x6C).toWord
  | .leave g => some (bareToRaw 0x6D g).toWord
  | .svc o => some (o.toRaw 0x6E).toWord
  | .rsr o => some (o.toRaw 0x70).toWord
  | .wsr o => some (o.toRaw 0x71).toWord
  | .brk o => some (o.toRaw 0x72).toWord
  | .nop g => some (bareToRaw 0x73 g).toWord
  | .yield g => some (bareToRaw 0x74 g).toWord
  | .ldGN8 o => some (o.toRaw 0x80).toWord
  | .ldGS8 o => some (o.toRaw 0x81).toWord
  | .ldGN16 o => some (o.toRaw 0x82).toWord
  | .ldGS16 o => some (o.toRaw 0x83).toWord
  | .ldGB32 o => some (o.toRaw 0x84).toWord
  | .ldGB64 o => some (o.toRaw 0x85).toWord
  | .ldSN8 o => some (o.toRaw 0x86).toWord
  | .ldSS8 o => some (o.toRaw 0x87).toWord
  | .ldSN16 o => some (o.toRaw 0x88).toWord
  | .ldSS16 o => some (o.toRaw 0x89).toWord
  | .ldSB32 o => some (o.toRaw 0x8A).toWord
  | .ldSB64 o => some (o.toRaw 0x8B).toWord
  | .ldPB32 o => some (o.toRaw 0x8C).toWord
  | .stGB8 o => some (o.toRaw 0x8D).toWord
  | .stGB16 o => some (o.toRaw 0x8E).toWord
  | .stGB32 o => some (o.toRaw 0x8F).toWord
  | .stGB64 o => some (o.toRaw 0x90).toWord
  | .stSB8 o => some (o.toRaw 0x91).toWord
  | .stSB16 o => some (o.toRaw 0x92).toWord
  | .stSB32 o => some (o.toRaw 0x93).toWord
  | .stSB64 o => some (o.toRaw 0x94).toWord
  | .atom o => some (o.toRaw 0x95).toWord
  | .redM o => some (o.toRaw 0x96).toWord
  | .fence o => some (o.toRaw 0x97).toWord
  | .fenceM o => some (o.toRaw 0x98).toWord
  | .waitcmp o => some (o.toRaw 0x99).toWord
  | .waitc o => some (o.toRaw 0x9A).toWord
  | .pref o => some (o.toRaw 0x9B).toWord
  | .binit o => some (o.toRaw 0x9C).toWord
  | .barv o => some (o.toRaw 0x9D).toWord
  | .bwait o => some (o.toRaw 0x9E).toWord
  | .obres o => some (o.toRaw 0xA0).toWord
  | .obrel o => some (o.toRaw 0xA1).toWord
  | .wld o => some (o.toRaw 0xA2).toWord
  | .mma o => some (o.toRaw 0xA3).toWord
  | .macq o => some (o.toRaw 0xA4).toWord
  | .mrel o => some (o.toRaw 0xA5).toWord
  | .mrd o => some (o.toRaw 0xA6).toWord
  | .mwr o => some (o.toRaw 0xA7).toWord
  | .mdrain o => some (o.toRaw 0xA8).toWord
  | .mzero o => some (o.toRaw 0xA9).toWord
  | .winv o => some (o.toRaw 0xAA).toWord
  | .mstat o => some (o.toRaw 0xAB).toWord
  | .xkick o => some (o.toRaw 0xB0).toWord
  | .xsusp o => some (o.toRaw 0xB1).toWord
  | .xstat o => some (o.toRaw 0xB2).toWord
  | .wcreate o => some (o.toRaw 0xC0).toWord
  | .psend o => some (o.toRaw 0xC1).toWord
  | .precv o => some (o.toRaw 0xC2).toWord
  | .pnote o => some (o.toRaw 0xC3).toWord
  | .wsadd o => some (o.toRaw 0xC4).toWord
  | .wsdel o => some (o.toRaw 0xC5).toWord
  | .wswait o => some (o.toRaw 0xC6).toWord
  | .tarm o => some (o.toRaw 0xC7).toWord
  | .tcan o => some (o.toRaw 0xC8).toWord
  | .oclose o => some (o.toRaw 0xC9).toWord
  | .odup o => some (o.toRaw 0xCA).toWord
  | .nslook o => some (o.toRaw 0xCB).toWord
  | .nsbind o => some (o.toRaw 0xCC).toWord
  | .glaunch o => some (o.toRaw 0xCD).toWord
  | .gcond o => some (o.toRaw 0xCE).toWord
  | .hint o => some (o.toRaw 0xCF).toWord
  | .launch o => some (o.toRaw 0xD0).toWord
  | .oinfo o => some (o.toRaw 0xD1).toWord
  | .rotarm o => some (o.toRaw 0xD8).toWord
  | .rotjoin o => some (o.toRaw 0xD9).toWord
  | .aearm o => some (o.toRaw 0xDA).toWord
  | .aewait o => some (o.toRaw 0xDB).toWord
  | .rotend o => some (o.toRaw 0xDC).toWord
  | .dualNop x y => some (dualToWord (DualHalf.raw { op := .nop, f := x }) y.raw)
  | .dualIadd x y => some (dualToWord (DualHalf.raw { op := .iadd, f := x }) y.raw)
  | .dualIsub x y => some (dualToWord (DualHalf.raw { op := .isub, f := x }) y.raw)
  | .dualImul x y => some (dualToWord (DualHalf.raw { op := .imul, f := x }) y.raw)
  | .dualImin x y => some (dualToWord (DualHalf.raw { op := .imin, f := x }) y.raw)
  | .dualImax x y => some (dualToWord (DualHalf.raw { op := .imax, f := x }) y.raw)
  | .dualAnd x y => some (dualToWord (DualHalf.raw { op := .and, f := x }) y.raw)
  | .dualOr x y => some (dualToWord (DualHalf.raw { op := .or, f := x }) y.raw)
  | .dualXor x y => some (dualToWord (DualHalf.raw { op := .xor, f := x }) y.raw)
  | .dualAndn x y => some (dualToWord (DualHalf.raw { op := .andn, f := x }) y.raw)
  | .dualShl x y => some (dualToWord (DualHalf.raw { op := .shl, f := x }) y.raw)
  | .dualShr x y => some (dualToWord (DualHalf.raw { op := .shr, f := x }) y.raw)
  | .dualMov x y => some (dualToWord (DualHalf.raw { op := .mov, f := x }) y.raw)
  | .iaddi x y => some (dualToWord (DualHalf.raw { op := .iaddi, f := x }) y.raw)
  | .movi x y => some (dualToWord (DualHalf.raw { op := .movi, f := x }) y.raw)
  | .shli x y => some (dualToWord (DualHalf.raw { op := .shli, f := x }) y.raw)
  | .shri x y => some (dualToWord (DualHalf.raw { op := .shri, f := x }) y.raw)
  | .dualIcmpEq x y => some (dualToWord (DualHalf.raw { op := .icmpEq, f := x }) y.raw)
  | .dualIcmpNe x y => some (dualToWord (DualHalf.raw { op := .icmpNe, f := x }) y.raw)
  | .dualIcmpLtS32 x y => some (dualToWord (DualHalf.raw { op := .icmpLtS, f := x }) y.raw)
  | .dualIcmpLtN32 x y => some (dualToWord (DualHalf.raw { op := .icmpLtN, f := x }) y.raw)
  | .dualIcmpLeS32 x y => some (dualToWord (DualHalf.raw { op := .icmpLeS, f := x }) y.raw)
  | .dualIcmpLeN32 x y => some (dualToWord (DualHalf.raw { op := .icmpLeN, f := x }) y.raw)
  | .pand x y => some (dualToWord (DualHalf.raw { op := .pand, f := x }) y.raw)
  | .por x y => some (dualToWord (DualHalf.raw { op := .por, f := x }) y.raw)
  | .pxor x y => some (dualToWord (DualHalf.raw { op := .pxor, f := x }) y.raw)
  | .pnot x y => some (dualToWord (DualHalf.raw { op := .pnot, f := x }) y.raw)
  | .pmov x y => some (dualToWord (DualHalf.raw { op := .pmov, f := x }) y.raw)
  | .dualFadd x y => some (dualToWord (DualHalf.raw { op := .fadd, f := x }) y.raw)
  | .dualFsub x y => some (dualToWord (DualHalf.raw { op := .fsub, f := x }) y.raw)
  | .dualFmul x y => some (dualToWord (DualHalf.raw { op := .fmul, f := x }) y.raw)
  | .dualFmin x y => some (dualToWord (DualHalf.raw { op := .fmin, f := x }) y.raw)
  | .dualFmax x y => some (dualToWord (DualHalf.raw { op := .fmax, f := x }) y.raw)
  | .dualFabs x y => some (dualToWord (DualHalf.raw { op := .fabs, f := x }) y.raw)
  | .dualFneg x y => some (dualToWord (DualHalf.raw { op := .fneg, f := x }) y.raw)
  | .dualPopc x y => some (dualToWord (DualHalf.raw { op := .popc, f := x }) y.raw)
  | .dualClz x y => some (dualToWord (DualHalf.raw { op := .clz, f := x }) y.raw)
  | .dualBrev x y => some (dualToWord (DualHalf.raw { op := .brev, f := x }) y.raw)
  | .dualIabs x y => some (dualToWord (DualHalf.raw { op := .iabs, f := x }) y.raw)
  | .dualFcmpLtF32 x y => some (dualToWord (DualHalf.raw { op := .fcmpLt, f := x }) y.raw)
  | .nonceRead o => some ((rsrPair 0x106 o).toRaw 0x70).toWord
  | .entropyRead o => some ((rsrPair 0x10A o).toRaw 0x70).toWord
  | .keywipeWrite o => some ((wsrPair 0x107 o).toRaw 0x71).toWord
  | .dbgctlWrite o => some ((wsrPair 0x108 o).toRaw 0x71).toWord
  | .measureWrite o => some ((wsrPair 0x109 o).toRaw 0x71).toWord
  | .mbwaitRead o => some ((rsrPair 0x041 o).toRaw 0x70).toWord
  | .dropWrite o => some ((wsrPair 0x050 o).toRaw 0x71).toWord
  | .reprioWrite o => some ((wsrPair 0x051 o).toRaw 0x71).toWord
  | .illegalOpcode _ _ => none
  | .segmentFetchComplete _ _ => none
  | .launchQueueHandoff _ => none
  | .launchRecordAccept _ => none
  | .teamPlacement _ _ _ => none
  | .waveRetire _ _ => none
  | .regangRelease _ => none
  | .segmentMeetingRelease _ => none
  | .shmapPairing _ => none
  | .bwaitRelease _ => none
  | .waitcmpMonitorRead _ => none
  | .kernelOpBegin _ => none
  | .mmaPassEnter _ => none
  | .mmaCommit _ => none
  | .copyQueueReadRecord _ => none
  | .copyGranule _ _ => none
  | .queueLoadRowFetch _ _ _ => none
  | .queueStoreRowPerform _ _ _ => none
  | .userTrapDelivery _ => none
  | .launchCompletionReport _ => none
  | .waitcRelease _ => none
  | .fenceDrainComplete _ => none
  | .mbactRetry _ => none
  | .mbactSkip _ => none
  | .mbactEndSlice _ => none
  | .mbactForward _ => none
  | .mbactReply _ => none
  | .mbactEndWave _ => none
  | .mbactDismiss _ => none
  | .mbactUnassigned _ => none
  | .memread _ => none
  | .memwrite _ => none
  | .regread _ => none
  | .regwrite _ => none
  | .srread _ => none
  | .srwrite _ => none
  | .fuseread _ => none
  | .fuseblow _ => none
  | .gensecret _ => none
  | .cmdport _ => none
  | .extest _ => none
  | .samplePreload _ _ => none
  | .dbgreq _ => none
  | .bypass _ => none
  | .recoveryGo _ _ => none
  | .recoveryFetchComplete _ => none
  | .hostTailSnoop _ _ => none
  | .hostQueueRecordHandoff _ => none
  | .hostRequestRecord _ => none
  | .placementAgeBlock _ => none
  | .waveDrop _ _ => none
  | .compactionCopy _ _ => none
  | .compactionHoldTimeout _ _ => none
  | .waveRestart _ _ _ => none
  | .loadReturn _ => none
  | .storePerformed _ => none
  | .pageWalkComplete _ => none
  | .shootdownReceipt _ _ => none
  | .shootdownAck _ _ => none
  | .atomHomePerform _ => none
  | .redmApply _ => none
  | .replicaUpdate _ => none
  | .hostMemoryAccess _ => none
  | .waitcmpTimeout _ => none
  | .fullEmptyProceed _ => none
  | .mailboxAppend _ => none
  | .sramUncorrectableError _ => none
  | .kernelResultReturn _ => none
  | .timerExpiry _ _ => none
  | .wswaitTimeout _ => none
  | .waitSetMemberReady _ => none
  | .graphNodeComplete _ => none
  | .coalescerHoldExpiry _ => none
  | .copyDisplace _ _ => none
  | .wldLoadComplete _ _ _ => none
  | .gangBoost _ _ _ => none
  | .sampleTake _ _ => none
  | .packetReceive _ _ => none
  | .bridgeForward _ _ _ => none
  | .stompedNoticeReceive _ _ _ => none
  | .nackReceive _ _ _ => none
  | .resendTimeout _ _ _ => none
  | .fabricResponseReceive _ _ _ _ => none
  | .bufferBankRetire _ _ => none
  | .accessTableUpdate _ => none
  | .grantEntryRemoveAck _ => none
  | .ringReadyMarkReceive _ => none
  | .rotjoinTimeout _ => none
  | .ringBlockInject _ _ => none
  | .ringReservationReceive _ _ => none
  | .ringBlockPacketReceive _ _ _ => none
  | .ringIndexFree _ _ => none
  | .aeBlockConsume _ => none
  | .aewaitTimeout _ => none
  | .rotendComplete _ => none
  | .ringFailureNotice _ _ => none
  | .xkickQueuePlace _ => none
  | .cliqueFormation _ _ _ => none
  | .cxlHostLinkBringup _ _ => none
  | .debugDoorbellWrite _ => none
  | .cxlCacheSnoop _ => none
  | .stallCycle _ _ => none
  | .tret => some (bareToRaw 0x6F none).toWord
  | .keywipeComplete => none
  | .cmdShootdown => none
  | .cmdSetHandleTable => none
  | .cmdCreateProcess => none
  | .cmdEndProcess => none
  | .cmdSetHostQueue => none
  | .cmdSetVector => none
  | .cmdInstallKey => none
  | .cmdAttest => none
  | .cmdTraceRing => none
  | .cmdSetStops => none
  | .cmdResume => none
  | .cmdCounterSnapshot => none
  | .cmdFuseblow => none
  | .cmdGensecret => none
  | .cmdEventRing => none
  | .fuseBlowComplete => none
  | .idcode => none
  | .dbgrsp => none
  | .testLogicReset => none
  | .resetRelease => none
  | .powerFaultHold => none
  | .hostClearCondition => none
  | .entropyHealthFail => none

end Sys2Proof
end

