-- ==== Sys2Proof/Machine/State.lean ====
section
/-!
DEFINITION. The state of one package as plain data: everything the spec gives the machine, by lane, slice, wave, core,
cluster, kernel object unit, memory, fabric, host side and security blocks, and the state right after reset.
Sparse tables are sorted lists of key and value with no entry equal to the default (Machine/Store.lean).
-/

namespace Sys2Proof.Machine

/-- A sparse table by number: keys strictly rising, no entry equal to the table's default. -/
abbrev Store (α : Type) := List (Nat × α)

/-- Bytes by address; an unlisted byte reads as 0 (log 21). -/
abbrev Memory := List Host.Cell

/-- Where bytes have their home (12 R229, R241): memory of this package, of the host or of a peer, a core's scratchpad, a
launch's parameter space, or the blocks at untranslated device addresses (27 R442). -/
inductive Place where
  | hbm | tier2 | host
  | peer (chip : Nat)
  | scratch (core : Nat)
  | params (launch : Nat)
  | device
deriving DecidableEq, Repr

/-- Where a wave's L1 copies stand: its core, or the fused L1 of its launch, held at the cluster's first core under the
launch's number (12 R238). -/
structure L1Dom where
  core : Nat
  tag : Nat
deriving DecidableEq, Repr

/-! ### What an agent knows of the writes still on their way (13 R253 to R257) -/

/-- Writes, by the number of their access: those that happen before the agent's next event, those its reads have returned
or whose element it has read past, and those that a read which happens before has returned. -/
structure Known where
  past : List Nat := []
  seen : List Nat := []
  ordered : List Nat := []
deriving DecidableEq, Repr

/-- A release that an acquire may read from (13 R253): the bytes of its element, its scope, the slot and team of its wave, the
write that carries it, and what it hands on. -/
structure Tag where
  place : Place
  addr : Nat
  size : Nat
  scope : Scope
  core : Nat
  slot : Nat
  team : Option Nat
  id : Nat
  known : Known
deriving DecidableEq, Repr

/-! ### Control state of a slice -/

/-- A program counter: segment and word index (02 R66). -/
structure Pc where
  seg : BitVec 12 := 0
  idx : BitVec 9 := 0
deriving DecidableEq, Repr

/-- An entry of the mask stack (02 R67). -/
structure MaskEntry where
  jpc : Option Pc
  keep : Mask4
  ppc : Pc
  pmask : Mask4
  outer : Option Pc
deriving DecidableEq, Repr

/-- A restart point (02 R78): where and with what a region starts again. -/
structure Restart where
  pc : Pc := {}
  mask : Mask4 := 15#4
  done : Mask4 := 0
  join : Option Pc := none
  stack : List MaskEntry := []
  regions : List (BitVec 16) := []
  live : BitVec 256 := 0
  /-- the gang-mates when the edge was passed (06 R139) -/
  gang : List Nat := []
deriving DecidableEq, Repr

/-- One register of a slice: a v register of one lane, a whole s register, or a predicate of one lane. -/
inductive Loc where
  | v (n : Nat) (lane : Nat)
  | s (n : Nat)
deriving DecidableEq, Repr

/-- What produced an outstanding write: a memory result (stall reason 0), or a kernel result (reason 14). -/
inductive Producer where
  | memory | kernel
deriving DecidableEq, Repr

/-- A register write that has not landed (02 R44, R64). -/
structure Outstanding where
  loc : Loc
  by_ : Producer
  pc : Pc
  /-- the access in flight that will write it -/
  id : Nat
deriving DecidableEq, Repr

/-- A lookahead window (01 R32, 07 R166): instructions left, and the old values of the marked destination. -/
structure Window where
  left : Nat
  pc : Pc
  old : List (Loc × W32)
deriving DecidableEq, Repr

/-- A record of the supervisor mailbox (09 R182). -/
structure MailRecord where
  kind : Nat
  cls : Nat := 0
  parked : Bool := false
  slice : Nat := 0
  code : Byte := 0
  wave : Nat := 0
  pc : Pc := {}
  service : BitVec 16 := 0
  word : W64 := 0
  lanes : Mask64 := 0
  addr : W64 := 0
  proc : W32 := 0
  aux : W32 := 0
  args : List W32 := []
  /-- tag generation of the wave it names: no part of the 64 bytes -/
  gen : BitVec 8 := 0
deriving DecidableEq, Repr

/-- A trap as decided: code, lanes of the slice, faulting address, handle (09 R176, R182). -/
structure Trap where
  code : Byte
  lanes : Mask4
  addr : W64 := 0
  aux : W32 := 0
  /-- lanes of other slices that the trap names (04 R128) -/
  others : Mask64 := 0
deriving DecidableEq, Repr

/-- A deferred fabric store error waiting for delivery (09 R186). -/
structure Deferred where
  code : Byte
  pc : Pc
  lanes : Mask64
  addr : W64
  word : W64
deriving DecidableEq, Repr

/-- The accesses a fence or release awaits (10 R207, R208, 13 R251). -/
structure FenceNeed where
  loads : Bool
  stores : Bool
  redm : Bool
  scope : Scope
deriving DecidableEq, Repr

/-- How an instruction uses a shared register in one lane (07 R160). -/
inductive ShareUse where
  | read | readLast
  | write (x : W32)
deriving DecidableEq, Repr

/-- A running monitor (10 R209). -/
structure Monitor where
  d : Reg
  space : Space
  cond : MonCond
  ty : MonTy
  scope : Scope
  /-- lane, address and compare value of every lane with exec(L) -/
  lanes : List (Nat × W64 × W64)
  /-- satisfying value of a satisfied lane, or the latest value read -/
  got : Store (Bool × W64) := []
  start : Nat
  timeout : W32
  /-- the instruction pops or pushes, so it is an edge that has begun (02 R43, R44) -/
  edge : Bool := false
  /-- queues it pops and pushes, and its uses of shared registers: they take effect when it ends (09 R176) -/
  pops : List Nat := []
  uses : List (Nat × Nat × ShareUse) := []
  /-- the issue it belongs to, for the one row that an issue pops or pushes (02 R43) -/
  group : Nat := 0
  /-- its timeout has passed -/
  late : Bool := false
deriving DecidableEq, Repr

/-- Why a slice waits (28 R463 names the stall reasons). -/
inductive Wait where
  /-- WAITC, path and threshold (02 R65): reason 3 -/
  | waitc (path : Nat) (threshold : Nat)
  /-- a fence, or a release, for earlier accesses (10 R208): reason 12; the instruction completes when they are done -/
  | fence (need : FenceNeed)
  /-- WAITCMP (10 R209): reason 5 -/
  | monitor (m : Monitor)
  /-- BWAIT (10 R213): reason 4 -/
  | bwait (addr : W64) (phase : BitVec 16) (d : SReg) (scope : Scope)
  /-- REGANG, naming slices (02 R73): reason 9 -/
  | regang (slices : BitVec 16)
  /-- a segment meeting of a cross-lane instruction over this many slices (04 R123): reason 9 -/
  | meeting (slices : Nat)
  /-- SHMAP for its partner (02 R57), with the range it asks for: reason 9 -/
  | shmap (first partner count : Nat)
  /-- a full/empty state (07 R160): reason 9 -/
  | fullEmpty
  /-- a kernel instruction before its beginning (17 R311): reason 14 -/
  | kernel
  /-- a record for a full mailbox (09 R181): reason 14 -/
  | mailbox
  /-- a supervisor action (09 R179): reason 14 -/
  | action
  /-- the reply of SVC (02 R81), into the eight registers from base on: reason 14 -/
  | reply (base : Nat)
  /-- a fetch before delivery of this trap to the user handler (08 R172): reason 8 -/
  | delivery (t : Trap)
  /-- this segment (12 R245, 02 R82): reason 8 -/
  | segment (seg : BitVec 12)
  /-- room in the cluster's page walker (12 R235): reason 0 -/
  | walker
  /-- earlier matrix work (14 R280, R283): reason 7 -/
  | token
  /-- matrix storage or the array (14 R276): reason 13 -/
  | storage
  /-- an MMA in the array (16 R302): reason 13 -/
  | commit
  /-- an empty load queue or a full store queue (02 R58): reason 6 -/
  | queue
  /-- a place of the copy queue (10 R217): reason 15 -/
  | copyPlace
  /-- entropy (27 R459): reason 15 -/
  | entropy
  /-- a counter at 255 (02 R64): reason 15 -/
  | counter
  /-- park-store room for reprio (09 R183): reason 15 -/
  | park
  /-- a mailbox record at mbwait (09 R183): reason 14 -/
  | mbwait
  /-- the return of a load whose home is on a peer (20 R369): reason 0 -/
  | peerLoad (id : Nat)
  /-- an atomic wider than .WV or an acquire load (02 R63, 10 R204): reason 0 for a later access -/
  | acquire (id : Nat)
  /-- a write to a register it names (02 R44): reason 0, or 14 for a kernel result; none for scratch bytes still on their way -/
  | operand (on : Option Outstanding)
deriving DecidableEq, Repr

/-! ### Kernel instructions of a slice -/

/-- A kernel or ring instruction as issued, with its operands read (17 R308, R311, 21 R373). -/
inductive KernelOp where
  | wcreate (kind : ObjKind) (desc : List W32)
  | psend (h : W32) (addr : W32) (wait : Bool)
  | precv (desc : List W32) (landing : Option W64) (wait : Bool)
  | pnote (h : W32) (value : W32)
  | wsadd (h : W32) (desc : List W32) (key : W32) (member : MemberSel)
  | wsdel (h : W32) (key : W32)
  | wswait (h : W32) (timeout : W32) (poll : Bool) (start : Nat)
  | tarm (h : W32) (dur : W64) (per : Bool)
  | tcan (h : W32)
  | oclose (h : W32)
  | odup (h : W32) (rights : W32)
  | nslook (name : W64)
  | nsbind (name : W64) (h : Option W32)
  | glaunch (h : W32)
  | gcond (h : W32) (node : W32) (value : W32) (kind : GcondKind)
  | hint (vector : W32) (flush : Bool)
  | launch (addr : W64)
  | rotarm (addr : W32)
  | rotjoin (h : W32) (timeout : W32) (start : Nat)
  | aearm (h : W32) (addr : W32) (load : Bool)
  | aewait (h : W32) (timeout : W32) (poll : Bool) (start : Nat)
  | rotend (h : W32) (abort : Bool)
  | oinfo (h : W32) (sel : Nat)
deriving DecidableEq, Repr

/-- A kernel instruction that has issued and not begun (17 R311, R312): the access that counts on path 5, the lanes, since
when it stands in its object's list of waiters (19 R347), a question to a peer on its way, and the release that comes before its
beginning (17 R313). -/
structure KernelWait where
  op : KernelOp
  d : Option SPair
  id : Nat
  lanes : Mask4
  need : Option FenceNeed := none
  since : Option Nat := none
  ask : Option Nat := none
deriving DecidableEq, Repr

/-- A begun PSEND with grants, or through a remote port (17 R320, 19 R353, R354): chip and index of the port, the key of the
place it holds there, shootdowns awaited, and a question on its way. -/
structure SendTask where
  chip : Nat
  port : Nat
  key : Nat
  carried : Carried
  shoots : List Nat
  /-- 0: shootdowns; 1: entries at the owners of its pages; 2: the message to a remote port -/
  stage : Nat := 0
  ask : Option Nat := none
deriving DecidableEq, Repr

/-- A begun PRECV of pages whose frames lie on other chips (17 R321, 19 R353). -/
structure ReceiveTask where
  port : Nat
  process : Nat
  landing : W64
  buffer : Nat
  team : Nat
  cluster : Nat
  ask : Nat
deriving DecidableEq, Repr

/-- What a kernel instruction that has begun still does before its result is written. -/
inductive KernelTask where
  | result (lo hi : W32)
  | send (t : SendTask)
  | receive (t : ReceiveTask)
  | command
deriving DecidableEq, Repr

/-- A kernel instruction that has begun and whose result has not been written (17 R312). -/
structure KernelReturn where
  d : Option SPair
  id : Nat
  edge : Bool
  task : KernelTask
deriving DecidableEq, Repr

/-! ### A slice -/

structure Slice where
  pc : Pc := {}
  mask : Mask4 := 15#4
  done : Mask4 := 0
  join : Option Pc := none
  stack : List MaskEntry := []
  /-- v registers, key 4 × register + lane of the slice -/
  v : Store W32 := []
  /-- predicates: the four lanes of each -/
  p : Store Mask4 := []
  s : Store W32 := []
  regions : List (BitVec 16) := []
  tpc : Pc := {}
  lmask : Mask64 := 0
  tcode : Byte := 0
  /-- in a user handler: the mask held at delivery (08 R172) -/
  handler : Option Mask4 := none
  /-- between a TRET and the next edge, while the trap registers are still parked (08 R173) -/
  afterTret : Bool := false
  restart : Restart := {}
  lastLive : BitVec 256 := 0
  wait : Option Wait := none
  kwait : Option KernelWait := none
  kret : Option KernelReturn := none
  out : List Outstanding := []
  windows : List Window := []
  /-- last-read marks since the last edge (07 R168) -/
  marks : List Loc := []
  /-- registers a committed mark has made unpredictable until next written (07 R168) -/
  dead : List Loc := []
  brk : Option (BitVec 16 × Pc) := none
  stopped : Bool := false
  deferred : List Deferred := []
  /-- writes on their way that bear on what it may read and write (13 R255, R257) -/
  knows : Known := {}
  /-- releases by its fences, which its later writes carry on, and releases its reads have met, which a fence may
  acquire (13 R253) -/
  fenced : List Tag := []
  met : List Tag := []
  ended : Bool := false
deriving DecidableEq, Repr

/-! ### A wave -/

/-- A gang (06 R139, 25 R424): its slices, its arbitration age, whether it is boosted, and its last issue. -/
structure Gang where
  slices : List Nat
  age : Nat
  boosted : Bool := false
  /-- cycle of its last issue -/
  since : Nat := 0
deriving DecidableEq, Repr

/-- A row of a queue: lane values, none for a lane without data, and the accesses that are still to give some (02 R43). -/
structure Row where
  vals : List (Option W64)
  awaits : List Nat := []
deriving DecidableEq, Repr

/-- A queue binding (02 R58, 07 R162). -/
structure Queue where
  dir : QDir
  space : Space
  wide : Bool
  base : W64
  rows : W32
  stride : W32
  row : Nat := 0
  /-- load queue: rows fetched ahead; store queue: pushed rows not yet handed to memory -/
  held : List Row := []
  /-- next row the load engine fetches, or the store engine performs -/
  next : Nat := 0
deriving DecidableEq, Repr

/-- A request to share a range with another wave of the team (02 R57). -/
structure ShareReq where
  first : Nat
  partner : Nat
  count : Nat
deriving DecidableEq, Repr

/-- An operand-buffer record (14 R279). -/
structure ObRecord where
  base : Nat
  extent : Nat
  stride : Nat
  fmt : MFmt
  wide : Bool
  snap : List Byte
  scales : List Byte
  /-- class under which the storage was taken (16 R304) -/
  cls : Nat
deriving DecidableEq, Repr

/-- A weight slot (14 R281). -/
structure WeightSlot where
  fmt : MFmt
  wide : Bool
  kp : Nat
  z : Bool
  /-- stored bytes: the image, or the compressed stream -/
  bytes : List Byte
  loaded : Bool
  cls : Nat
deriving DecidableEq, Repr

/-- A claimed tile (14 R276): its token, type and 64 × 64 elements by row × 64 + column, 0 when unlisted. -/
structure Tile where
  threads : Bool
  ty : AccTy
  elems : Store W32
  cls : Nat
deriving DecidableEq, Repr

/-- A sample (26 R439, 28 R467). -/
structure Sample where
  cycle : Nat
  reason : Nat
  waiting : Pc
  producer : Pc
  rtop : W32
deriving DecidableEq, Repr

/-- The counting window of a wave (26 R437, 28 R463 to R468). -/
structure Count where
  opened : Bool := false
  closed : Bool := false
  /-- dbgctl[2] at the team's first issue: a team record is written -/
  recorded : Bool := false
  span : Nat := 0
  issued : Nat := 0
  stalls : Store Nat := []
  held : List Sample := []
  batch : List Sample := []
  due : Bool := false
  endTop : W32 := 0
deriving DecidableEq, Repr

structure Wave where
  process : Nat
  supervisor : Bool := false
  team : Nat := 0
  index : Nat := 0
  role : Nat := 0
  roleIndex : Nat := 0
  /-- 16, 32 or 64 lanes -/
  width : Nat := 16
  /-- 16, 32, 64 or 128 registers -/
  allot : Nat := 32
  /-- first physical unit of the block (07 R155) -/
  base : Nat := 0
  prio : BitVec 2 := 0
  fflags : BitVec 5 := 0
  tmask : BitVec 5 := 0
  /-- the six in-flight counters (02 R64) -/
  counters : Store Nat := []
  slices : Store Slice
  gangs : List Gang
  queues : Store Queue := []
  shares : List ShareReq := []
  records : Store ObRecord := []
  slots : Store WeightSlot := []
  tiles : Store Tile := []
  count : Count := {}
  /-- held for a compaction copy since this moment (07 R158) -/
  hold : Option Nat := none
  /-- creation age (09 R196) -/
  created : Nat := 0
  /-- park-store bytes reserved for the wave (09 R195) -/
  resv : Nat := 0
  /-- code image of the launch: process of its pages, address, last segment, live-in table and its last entry -/
  code : W64 := 0
  lastSeg : Nat := 0
  liveTab : W64 := 0
  lastLive : Nat := 0
deriving DecidableEq, Repr

/-- State of one lane of a shared register (07 R160): empty, full, filled by a slot, or drained by a slot. -/
inductive Share where
  | empty | full
  | filled (slot : Nat)
  | drained (slot : Nat)
deriving DecidableEq, Repr

/-- A shared register of two waves on a core (07 R160): where each wave has it, and value and state by wave lane. -/
structure Shared where
  slotA : Nat
  regA : Nat
  slotB : Nat
  regB : Nat
  count : Nat
  /-- key 64 × register of the range + wave lane -/
  vals : Store W32
  st : Store Share
deriving DecidableEq, Repr

/-! ### A core -/

/-- A slot of the instruction store (12 R245). -/
structure Segment where
  process : Nat
  code : W64
  seg : BitVec 12
  /-- the 512 words at the fetch, 0 when unlisted; none while the fetch runs -/
  words : Option (Store W64)
  entered : Nat
  /-- a user launch's fetch needs U = 1 -/
  user : Bool := true
  lastSeg : Nat := 0
  /-- a slot has been taken for the fetch -/
  started : Bool := true
deriving DecidableEq, Repr

/-- A pass of the matrix array (16 R295, R302). -/
structure Pass where
  slot : Nat
  op : MmaOp
  cls : Nat
  since : Nat
  /-- course, offsets of source c -/
  courses : List (Nat × W32)
  /-- what its commit records in each slice: the restart point and the last-read marks of the region it closes -/
  edges : List (Nat × Restart × List Loc)
  /-- once in the array: tile, first row and results of each strip -/
  shadows : Option (List (Nat × Nat × Store W32))
deriving DecidableEq, Repr

/-- A parked wave (08 R173): the wave with its slices cut to their restart points and live-ins. -/
structure Parked where
  wave : Wave
  /-- slot and tag generation it was dropped from, for its outstanding stores and returns -/
  slot : Nat
  gen : BitVec 8 := 0
deriving DecidableEq, Repr

/-- A translation held by a TLB (12 R235). -/
structure Xlat where
  process : Nat
  page : Nat
  size : Nat
  place : Place
  frame : Nat
  w : Bool
  u : Bool
  x : Bool
  r : Bool
  a : Bool
deriving DecidableEq, Repr

/-- An L1 copy of a line (12 R237): key is the line address tagged by target; dirty bytes are not yet home. -/
structure L1Line where
  bytes : List Byte
  /-- offset and access of each byte stored and not yet home -/
  dirty : List (Nat × Nat) := []
  /-- offsets at which another agent's write has come home since the copy took them -/
  contested : List Nat := []
  /-- the bytes the copy holds -/
  valid : BitVec 128 := BitVec.allOnes 128
deriving DecidableEq, Repr

structure Core where
  waves : Store Wave := []
  /-- tag generation by slot (09 R192): log 20 -/
  gens : Store (BitVec 8) := []
  istore : List Segment := []
  mailbox : List MailRecord := []
  /-- records of blocks outside the core waiting for a place (09 R181), with the host queue that sent each -/
  heldMail : List MailRecord := []
  rply : Store W64 := []
  parked : Store Parked := []
  fatal : Option MailRecord := none
  placementStopped : Bool := false
  cycleOffset : Nat := 0
  scratch : Memory := []
  l1 : Store L1Line := []
  /-- the core's TLB, 1,024 translations (12 R235) -/
  tlb : List Xlat := []
  shared : List Shared := []
  passes : List Pass := []
  /-- compaction: the last candidate block that failed, beyond which the next is sought (07 R158) -/
  compacting : Option Nat := none
deriving DecidableEq, Repr

/-! ### A cluster -/

/-- A copy request accepted by the queue (10 R214, R217). -/
structure CopyReq where
  recAddr : W64
  team : Nat
  process : Nat
  secure : Bool
  core : Nat
  cls : Nat
  age : Nat
  suspend : Bool := false
  displaced : Bool := false
  /-- the granule's requests to peers: reads, then writes (20 R370) -/
  reads : Option Nat := none
  writes : Option Nat := none
  /-- lines it owns while they run, and the granule's destination bytes written already (10 R218, R220, 12 R244) -/
  owned : List (Place × Nat) := []
  written : Nat := 0
deriving DecidableEq, Repr

/-- An address waiting in the copy queue (10 R217). -/
structure CopyKick where
  addr : W64
  team : Nat
  process : Nat
  core : Nat
  slot : Nat
  slice : Nat
  gen : BitVec 8
  cls : Nat
  /-- the access that holds its count on path 3 -/
  id : Nat
deriving DecidableEq, Repr

/-- A walk queued by PREF (10 R210, 12 R235). -/
structure Walk where
  process : Nat
  user : Bool
  core : Nat
  va : W64
  fillL1 : Bool
  dom : L1Dom
deriving DecidableEq, Repr

/-- A shootdown being served by a cluster (12 R236). -/
structure Shootdown where
  id : Nat
  process : Nat
  start : W64
  pages : Nat
  received : Bool := false
  /-- accesses translated under the old entry and not performed -/
  awaits : List Nat := []
deriving DecidableEq, Repr

/-- An entry of a run queue (19 R345): a team awaiting placement, or a parked wave. -/
inductive RunEntry where
  | team (launch : Nat) (teamid : Nat) (since : Nat) (blocking : Bool)
  | parked (core : Nat) (entry : Nat)
deriving DecidableEq, Repr

/-- The job of an attention engine (21 R380, R381). -/
structure Job where
  ring : Nat
  recAddr : W64
  team : Nat
  core : Nat
  h : Nat
  nq : Nat
  scale : W32
  qpos : Int
  causal : Bool
  oaddr : W64
  saddr : W64
  q : List Byte
  m : List W32
  l : List W32
  o : List W32
  done : Nat
deriving DecidableEq, Repr

/-- A ring of records: trace rings and the device event ring (28 R460, 25 R430). -/
structure RecordRing where
  process : Nat
  desc : W64
  base : W64
  lsize : Nat
  written : Nat
  lost : Nat
deriving DecidableEq, Repr

structure Cluster where
  runq : List (Nat × RunEntry) := []
  copyQueue : List CopyKick := []
  copies : List CopyReq := []
  engines : Store CopyReq := []
  tlb : List Xlat := []
  walks : List Walk := []
  shootdowns : List Shootdown := []
  job : Option Job := none
  trace : Option RecordRing := none
  /-- records begun and not yet written (28 R461) -/
  begun : List (List Byte) := []
  bank : Store W64 := []
deriving DecidableEq, Repr

/-! ### Teams and launches -/

structure Team where
  launch : Nat
  teamid : Nat
  /-- first core; a pair team has also the next -/
  core : Nat
  pair : Bool
  base : Nat
  base2 : Nat := 0
  size : Nat
  members : Nat
  retired : Nat := 0
  /-- address ranges taken by rings and jobs (21 R377, R381) -/
  removed : List (Nat × Nat × Nat) := []
  pins : Nat := 0
  /-- sums over its waves' counting windows, with the samples each wave has held back, by waveid (28 R465) -/
  sum : Count := {}
  held : List (Nat × Sample) := []
  /-- waveid of the wave of index 0 -/
  lead : Nat := 0
deriving DecidableEq, Repr

/-- A role of a launch header (06 R142). -/
structure Role where
  allot : Nat
  waves : Nat
  entry : Pc
deriving DecidableEq, Repr

/-- Where a launch came from (25 R419). -/
inductive Source where
  | host (queue : Nat)
  | wave
  | graph (obj : Nat) (node : Nat)
deriving DecidableEq, Repr

/-- A launch record handed over: address, submitter and class floor (25 R416, R422). -/
structure Submit where
  recAddr : W64
  process : Nat
  floor : Nat
  source : Source
  age : Nat
  cls : Nat
  /-- the record as read from a host queue, whose slot is free since (25 R420) -/
  bytes : Option (List Byte) := none
deriving DecidableEq, Repr

structure Launch where
  process : Nat
  cls : Nat
  source : Source
  width : Nat
  fused : Bool
  cscratch : Bool
  teams : Nat
  clusters : BitVec 12
  cores : W32
  tag : W32
  doneAddr : W64
  irq : Bool
  vector : Nat
  pair : Bool
  segs : Nat
  lives : Nat
  scratch : Nat
  roles : List Role
  code : W64
  liveTab : W64
  params : List Byte
  created : Nat := 0
  ended : Nat := 0
  faults : Bool := false
  log : List MailRecord := []
  /-- 0 running, else the completion status to report (25 R418) -/
  status : Nat := 0
  reported : Bool := false
  accepted : Nat := 0
  parkBytes : Nat := 0
deriving DecidableEq, Repr

/-! ### Kernel objects -/

/-- A slot of a handle table (19 R341). -/
structure HandleSlot where
  used : Bool := false
  rights : BitVec 7 := 0
  gen : Byte := 0
  index : Nat := 0
deriving DecidableEq, Repr

structure Process where
  root : W64
  table : Store HandleSlot := []
  tableSize : Nat := 2
  tableAddr : W64 := 0
  tvec : BitVec 22 := 0
  secure : Bool := false
  supervisor : Bool := false
  vecBase : Nat := 0
  vecCount : Nat := 0
  stops : Bool := false
  step : Bool := false
  /-- kind 5 reasons outstanding (19 R342) -/
  raised : List Nat := []
  ended : Bool := false
deriving DecidableEq, Repr

/-- A message in a port's queue (17 R318, 19 R346, R347): its place is taken when its PSEND begins, under the sender's key;
it is ready once its pages have left the sender, and claimed while a PRECV waits for access-table entries. -/
structure Message where
  sender : Nat × Nat
  plen : Nat
  ready : Bool := false
  claimed : Bool := false
  carried : Carried := { bytes := [], payload := [], grants := [], reply := none }
deriving DecidableEq, Repr

/-- A port (17 R315, 19 R340): closed once its last receive handle has gone; a peer may hold a send handle to it. -/
structure PortBody where
  capacity : Nat
  queue : List Message := []
  notify : W32 := 0
  closed : Bool := false
  away : Bool := false
  /-- names bound to it at other chips, with the process that bound each -/
  names : List (W64 × Nat) := []
deriving DecidableEq, Repr

/-- A graph (17 R326, 19 R351, R352): its array, its state, launches not yet reported, and whether one was refused. -/
structure GraphBody where
  array : W64
  count : Nat
  running : Bool := false
  iterations : W32 := 0
  prio : Nat := 0
  closing : Bool := false
  out : Nat := 0
  refused : Bool := false
deriving DecidableEq, Repr

/-- A wait-set member that a peer keeps: the question to it that is on its way, and the ready bit its last answer set
(19 R349). -/
structure Far where
  ask : Option Nat := none
  ready : Bool := false
deriving DecidableEq, Repr

/-- A member of a wait set (17 R323, 19 R349). -/
inductive Member where
  | port (obj : Nat) (notify : Option W32) (far : Far := {})
  | timer (obj : Nat)
  | barrier (addr : Nat) (team : Nat) (core : Nat) (phase : W32)
  | monitor (addr : W64) (process : Nat) (core : Nat) (cond : MonCond) (signed : Bool) (scope : Scope) (value : W32)
      (far : Far := {})
deriving DecidableEq, Repr

/-- State of a timer (17 R317, R324). -/
structure Timer where
  cluster : Nat := 0
  armed : Bool := false
  deadline : Nat := 0
  period : Option Nat := none
  expired : Bool := false
deriving DecidableEq, Repr

/-- States of a ring (21 R375). -/
inductive RingState where
  | armed | running | failed | ended
deriving DecidableEq, Repr

/-- An index of a ring on this chip (23 R397, R398). -/
structure RingIndex where
  /-- packets of the block that stand in the slot, in the order they came, and whether all do -/
  got : List Nat := []
  present : Bool := false
  consumed : Bool := false
  freed : Bool := false
  /-- the forward and backward receivers have reserved; packets sent to each, and packets each has acknowledged -/
  wantF : Bool := false
  wantB : Bool := false
  outF : List Nat := []
  outB : List Nat := []
  ackF : List Nat := []
  ackB : List Nat := []
deriving DecidableEq, Repr

structure Ring where
  state : RingState := .armed
  ringid : W32
  mm1 : Nat
  dir : Nat
  nloc : Nat
  members : W64
  sbase : W64
  ssize : W32
  hcode : Nat
  sbase2 : W64
  ltab : W64
  team : Nat
  core : Nat
  /-- this chip has marked ready, and marks of members by position -/
  ready : Bool := false
  marks : List ReadyMark := []
  indices : Store RingIndex := []
  failCode : Byte := 0
  /-- failed before any ROTEND -/
  failed : Bool := false
  /-- when a mismatch at the join failed it, as a serial number: ROTJOINs issued before return 15 -/
  mismatch : Option Nat := none
  jobState : Nat := 0
  jobDone : Nat := 0
  jobRanges : List (Nat × Nat × Nat) := []
  slotRanges : List (Nat × Nat × Nat) := []
deriving DecidableEq, Repr

/-- Bodies of the objects (19 R340). -/
inductive ObjBody where
  | process (p : Process)
  | port (p : PortBody)
  | remotePort (chip : Nat) (index : Nat)
  | waitSet (capacity : Nat) (members : List (W32 × Member))
  | timer (t : Timer)
  | graph (g : GraphBody)
  | ring (r : Ring)
  | control
  /-- a wave of a team, from its queueing to its retirement: its launch, team and index (19 R340, R344) -/
  | wave (launch teamid index : Nat)
deriving DecidableEq, Repr

/-- An object table entry (19 R339). -/
structure Obj where
  body : ObjBody
  refs : Nat
  owner : Nat
deriving DecidableEq, Repr

/-- A command accepted on a control port (19 R343), with who waits for its result. -/
structure Command where
  code : W32
  secure : Bool
  process : Nat
  ops : List W32
  /-- the kernel instruction that sent it, or the debug source -/
  reply : Option Nat
  debug : Option DebugSource
  started : Bool := false
  /-- shootdown id awaited -/
  await : Option Nat := none
deriving DecidableEq, Repr

/-! ### Memory accesses in flight -/

/-- One byte range of an access at its home. -/
structure Part where
  lane : Nat
  place : Place
  addr : Nat
  size : Nat
  data : List Byte := []
  cmp : List Byte := []
  va : Nat := 0
  /-- the page is replicated: a write reaches the other die at a moment of its own (12 R243) -/
  rep : Bool := false
  /-- what a peer answered (20 R370), or that this part has taken its moment here (13 R248) -/
  got : Option PeerReply := none
  /-- a peer's line that an L1 copy may answer: no request has been sent -/
  copy : Bool := false
  /-- a write to a host line that stands in the LLC and not yet at the host (13 R256) -/
  llc : Bool := false
deriving DecidableEq, Repr

/-- What an access in flight does (02 R64, 10 R202, R206). -/
inductive Flight where
  | load (d : Reg) (wide : Bool) (bytes : Nat) (signed : Bool) (acquire : Option Scope)
  | store
  | atom (d : Option Reg) (kind : AtomKind) (ty : AtomTy) (scope : Scope)
  | redm (kind : RedKind) (ty : Ty)
  /-- a counted instruction of path 3 or 5: it only counts -/
  | counted
deriving DecidableEq, Repr

/-- An access in flight. -/
structure Access where
  core : Nat
  slot : Nat
  slice : Nat
  gen : BitVec 8
  pc : Pc
  word : W64
  /-- counter path, or none for an uncounted access -/
  path : Option Nat
  kind : Flight
  parts : List Part
  lanes : Mask4
  process : Nat
  secure : Bool
  /-- class 3: no L1 allocation (02 R62) -/
  noL1 : Bool := false
  /-- the L1 of its wave at its issue (12 R238) -/
  dom : L1Dom := { core := 0, tag := 0 }
  /-- writes on their way that it comes after, beside those its slice issued earlier (13 R255, R258) -/
  after : Known := {}
  /-- a store that stands in the L1 copy (12 R237) -/
  inL1 : Bool := false
  /-- lanes a deferred error of it names, when they are not those of its parts (09 R186) -/
  courseLanes : Option Mask64 := none
  /-- its answer is no newer than what the L1 has met since, and fills no copy (13 R258) -/
  noFill : Bool := false
  /-- cancelled by a drop: its return writes nothing (09 R192) -/
  cancelled : Bool := false
  /-- the queue row its values go to (02 R43) -/
  row : Nat := 0
  /-- returned, and still counted behind an earlier access of its path (02 R64) -/
  returned : Bool := false
deriving DecidableEq, Repr

/-! ### Fabric -/

/-- A request of this package to a peer, not yet answered (20 R362, R364). -/
structure Sent where
  dst : Nat
  vc : Nat
  seq : Nat
  attempts : Nat
  /-- access it belongs to, or other work -/
  access : Option Nat
  /-- first part of the access it carries -/
  part : Nat := 0
  body : PacketBody
  /-- when the last attempt was made -/
  since : Nat := 0
deriving DecidableEq, Repr

/-- What this package puts on its links beside its own requests: responses, and one given again (20 R362); the notices and
packets of R363; and the denials of an egress (20 R366). -/
inductive WireOut where
  | response (dst vc seq : Nat) (r : PeerReply)
  | nack (dst vc seq : Nat)
  | stompedNotice (dst vc seq : Nat)
  | forward (p : Packet)
  | denial (dst vc seq : Nat)
deriving DecidableEq, Repr

/-- A stream of requests arriving from a peer (20 R362). -/
structure InStream where
  /-- every packet below this sequence number has been performed -/
  base : Nat := 0
  performed : List (Nat × PeerReply) := []
  /-- performed, with the answer to come -/
  open_ : List Nat := []
  held : List Packet := []
deriving DecidableEq, Repr

structure Port where
  inService : Bool := false
  peer : Nat := 0
  /-- receive-buffer banks retired, of 24 (20 R365) -/
  retired : List Nat := []
  stomps : Nat := 0
deriving DecidableEq, Repr

/-- An update waiting for its replicas' acknowledgements (20 R366, 19 R353). -/
structure TableUpdate where
  id : Nat
  entry : AccessEntry
  remove : Bool
  /-- the access that asks the replicas -/
  ask : Nat
  /-- the request it answers: source, channel, sequence number -/
  asker : Option (Nat × Nat × Nat) := none
deriving DecidableEq, Repr

/-! ### Host side -/

/-- A write that has taken its moment at a page's home and not yet at the replica on this die (12 R243, 13 R266), with the
slice that made it. -/
structure ReplicaWrite where
  die : Nat
  place : Place
  addr : Nat
  bytes : List Byte
  id : Nat := 0
  core : Nat := 0
  slot : Nat := 64
  slice : Nat := 0
  gen : BitVec 8 := 0
  /-- it is a memory-side reduction's, which only FENCE.M awaits (10 R207) -/
  redm : Bool := false
deriving DecidableEq, Repr

structure HostQueue where
  enabled : Bool := false
  process : Nat := 0
  ring : W64 := 0
  tail : W64 := 0
  headAddr : W64 := 0
  lsize : Nat := 0
  floor : Nat := 0
  port : Bool := false
  request : Bool := false
  core : Nat := 0
  head : Nat := 0
  seen : Nat := 0
  stopped : Bool := false
  /-- host requests handed to the supervisor and not yet removed from its mailbox (25 R428) -/
  out : Nat := 0
deriving DecidableEq, Repr

structure VectorState where
  count : Nat := 0
  threshold : Nat := 1
  hold : Nat := 0
  start : Nat := 0
  sent : Nat := 0
deriving DecidableEq, Repr

/-- A device event (25 R429). -/
structure DevEvent where
  kind : Nat
  info : W64
  body : List Byte
deriving DecidableEq, Repr

/-! ### Security and debug -/

structure Region where
  valid : Bool
  secure : Bool
  key : Nat
  base : Nat
  last : Nat
deriving DecidableEq, Repr

structure MemKey where
  xts1 : W256 := 0
  xts2 : W256 := 0
  kmac : W256 := 0
deriving DecidableEq, Repr

/-- One source of debug requests (27 R454). -/
structure DebugPort where
  request : Option (BitVec 192) := none
  response : BitVec 128 := 0
  since : Nat := 0
deriving DecidableEq, Repr

structure Recovery where
  state : Nat := 1
  reason : Nat := 0
  addr : W64 := 0
  len : W64 := 0
deriving DecidableEq, Repr

/-- Where the package stands in bring-up (29 R477, R478). -/
inductive Phase where
  | held | reset | recovery | running
deriving DecidableEq, Repr

structure Security where
  fuses : Store W64 := []
  /-- the words as sensed at the last reset (27 R447, R455) -/
  sensed : Store W64 := []
  /-- security version of the firmware that boot accepted (27 R455, R458) -/
  fwVersion : Nat := 0
  lcstate : Nat := 0
  fuseaddr : BitVec 10 := 0
  nonce : W64 := 0
  dbgctl : BitVec 3 := 0
  debugOpened : Bool := false
  wiping : Bool := false
  wipeSinceNonce : Bool := false
  installSinceWipe : Bool := false
  wipeSinceReset : Bool := false
  keys : Store MemKey := []
  linkKey : MemKey := {}
  keyGen : Store Nat := []
  regions : Store W64 := []
  measure : W512 := 0
  entropyFails : Nat := 0
  entropyFailed : Bool := false
  /-- a fuse operation being blown: words and masks, and who waits (27 R447) -/
  blowing : Option (List (Nat × W64) × Option Command × Option DebugSource) := none
  tap : DebugPort := {}
  window : DebugPort := {}
  ir : Byte := 0x01
  dr : List Bool := []
  cells : List Bool := []
  outputs : List Bool := []
  recovery : Option Recovery := none
  flash : Memory := []
deriving DecidableEq, Repr

/-! ### Turns, and the whole machine -/

/-- The gang that issues now; prompt says that what the instruction sends out also returns within this step (log 1). -/
structure Now where
  core : Nat := 0
  slot : Nat := 63
  slices : List Nat := []
  prompt : Bool := true
  word : W64 := 0
deriving DecidableEq, Repr

/-- What happens next: a gang issues, an event comes, or a core's standard supervisor serves its mailbox (log 1). -/
inductive Turn where
  | issue (core slot slice : Nat) (prompt : Bool)
  | event (e : Instr)
  | serve (core : Nat)
deriving DecidableEq, Repr

structure State where
  phase : Phase := .reset
  now : Now := {}
  schedule : List Turn := []
  fresh : Nat := 0
  time : Nat := 0
  /-- how far each cluster's counter has run ahead of time since reset: the counters are unrelated (02 R85) -/
  clocks : List Nat := List.replicate 12 0
  cycles : Nat := 0
  serial : Nat := 0
  cores : Store Core := []
  clusters : Store Cluster := []
  teams : Store Team := []
  launches : Store Launch := []
  launchQueue : List Submit := []
  /-- records handed to a cluster's run-queue controller and not yet read (25 R422) -/
  handed : List (Nat × Submit) := []
  objects : Store Obj := []
  /-- where firmware has reserved the object table in HBM (19 R338) -/
  objectTable : Option Nat := none
  /-- indices of the entries that stand valid in the object table -/
  tabled : List Nat := []
  names : List (W64 × Nat × Nat × Nat) := []
  commands : List Command := []
  pools : Store Nat := []
  heldMarks : List ReadyMark := []
  hbm : Memory := []
  tier2 : Memory := []
  host : Memory := []
  /-- old bytes of replicated lines on the die that has not been updated (12 R243) -/
  stale : Store Byte := []
  /-- writes not yet at a replica, oldest first -/
  replicaWrites : List ReplicaWrite := []
  poisoned : List Nat := []
  /-- key index × 2^32 + key generation under which a line was last written, default 0 (20 R368) -/
  lineGen : Store Nat := []
  inflight : Store Access := []
  /-- releases that hand on writes still on their way (13 R253) -/
  tags : List Tag := []
  /-- LLC copies of host lines, by line (12 R237, 13 R256) -/
  hostLines : Store L1Line := []
  ports : Store Port := []
  chip : Nat := 0
  cliqueSize : Nat := 1
  sent : List Sent := []
  outSeq : Store Nat := []
  streams : Store InStream := []
  accessTable : List AccessEntry := []
  /-- replicas of the peers' tables at this package's egress, by peer (20 R366) -/
  replicas : Store (List AccessEntry) := []
  updates : List TableUpdate := []
  /-- what has gone out on the links beside requests, oldest first -/
  wire : List WireOut := []
  queues : Store HostQueue := []
  vectors : Store VectorState := []
  eventRing : Option RecordRing := none
  events : List DevEvent := []
  eventsLost : Nat := 0
  cxlUp : Bool := false
  /-- the range of HBM exposed to the host, which firmware assigns (25 R427) -/
  exposedBase : Nat := 0
  exposedBytes : Nat := 0
  dieBanks : Store W64 := []
  systemRoot : W64 := 0
  security : Security := {}
deriving DecidableEq, Repr

/-- The memory's canonical form: addresses strictly rising and no byte equal to what an unlisted address reads as. -/
abbrev Memory.wf (m : Memory) : Prop := m.Pairwise (fun a b => a.1 < b.1) ∧ ∀ c ∈ m, c.2 ≠ 0

/-- The machine right after reset: nothing booted, nothing resident, every register at the value the spec states or
the logs name. -/
def State.reset : State := {}

/-- Why a step stops with a fault.  Every case the spec describes is a next state, traps included, so no meaning and no
step of this model raises one. -/
inductive Fault where
  /-- safe: raised by nothing -/
  | neverRaised
deriving DecidableEq, Repr

/-- Why a step is refused. -/
inductive Refusal where
  /-- safe: the instruction has no meaning in the model; raised only by an arm of exec -/
  | notModelled (mnemonic : String)
deriving DecidableEq, Repr

end Sys2Proof.Machine
end

