-- ==== Sys2Proof/Machine/Flags.lean ====
section
/-!
DEFINITION. Exception flags (02 R85, 04 R121): the five flags in the order of tmask, and which trap an enabled one takes.
-/

namespace Sys2Proof.Machine

/-- The flags: invalid, divide-by-zero, overflow, underflow, inexact, bits 0 to 4. -/
abbrev FFlags := BitVec 5

def FFlags.invalid : FFlags := 1#5
def FFlags.divZero : FFlags := 2#5
def FFlags.overflow : FFlags := 4#5
def FFlags.underflow : FFlags := 8#5
def FFlags.inexact : FFlags := 16#5

/-- The lowest-numbered set bit of five, if any. -/
def lowestFlag (e : BitVec 5) : Option Nat := (List.range 5).find? (fun i => e.getLsbD i)

/-- The trap that exceptions e take under mask tmask: the code of the lowest-numbered enabled one (04 R121). -/
def enabledTrap (tmask e : BitVec 5) : Option Nat := lowestFlag (e &&& tmask)

/-- The trap code of exception i. -/
def flagCode (i : Nat) : Byte := BitVec.ofNat 8 (0x10 + i)

/-- The lanes that raised exception i, as a mask of the slice. -/
def lanesRaising (i : Nat) (lanes : List (Nat × FFlags)) : Mask4 :=
  lanes.foldl (fun m x => if x.2.getLsbD i then m ||| (1#4 <<< x.1) else m) 0

/-- All the exceptions of a set of lanes. -/
def allFlags (lanes : List (Nat × FFlags)) : FFlags := lanes.foldl (fun m x => m ||| x.2) 0

end Sys2Proof.Machine
end

