-- ==== Sys2Proof/Machine/Store.lean ====
section
/-!
DEFINITION. Sparse tables: reading and writing one entry, for tables with a default and for tables of present entries.
Both keep keys strictly rising; a table with a default lists no entry equal to it.
-/

namespace Sys2Proof.Machine

/-- The entry under key k, if there is one. -/
def Store.find? {α : Type} : Store α → Nat → Option α
  | [], _ => none
  | (i, x) :: m, k => if i = k then some x else Store.find? m k

/-- The table without the entry under key k. -/
def Store.erase {α : Type} : Store α → Nat → Store α
  | [], _ => []
  | (i, x) :: m, k => if i = k then Store.erase m k else (i, x) :: Store.erase m k

/-- The table with x under key k. -/
def Store.insert {α : Type} : Store α → Nat → α → Store α
  | [], k, x => [(k, x)]
  | (i, y) :: m, k, x =>
    if k < i then (k, x) :: (i, y) :: m else if i = k then (k, x) :: m else (i, y) :: Store.insert m k x

/-- The entry under key k of a table with default d. -/
def Store.get {α : Type} (m : Store α) (d : α) (k : Nat) : α := (Store.find? m k).getD d

/-- Write x under key k of a table with default d. -/
def Store.set {α : Type} [DecidableEq α] (m : Store α) (d : α) (k : Nat) (x : α) : Store α :=
  if x = d then Store.erase m k else Store.insert m k x

/-- Write x under key k, or remove the entry. -/
def Store.put {α : Type} (m : Store α) (k : Nat) (x : Option α) : Store α :=
  match x with
  | some y => Store.insert m k y
  | none => Store.erase m k

/-- Change the entry under key k, if there is one. -/
def Store.update {α : Type} (m : Store α) (k : Nat) (f : α → α) : Store α :=
  match Store.find? m k with
  | some x => Store.insert m k (f x)
  | none => m

/-- The entries, the values and the keys. -/
def Store.values {α : Type} (m : Store α) : List α := m.map (·.2)
def Store.keys {α : Type} (m : Store α) : List Nat := m.map (·.1)

/-- The least key that is not used, from k on, among the first n. -/
def Store.freeKey {α : Type} (m : Store α) (k : Nat) : Nat → Option Nat
  | 0 => none
  | n + 1 => if (Store.find? m k).isNone then some k else Store.freeKey m (k + 1) n

/-- Insert into a list that a relation orders, before the first member it does not follow. -/
def insertBy {α : Type} (le : α → α → Bool) (x : α) : List α → List α
  | [] => [x]
  | y :: ys => if le x y then x :: y :: ys else y :: insertBy le x ys

/-- The list in the order of a relation. -/
def sortBy {α : Type} (le : α → α → Bool) : List α → List α
  | [] => []
  | x :: xs => insertBy le x (sortBy le xs)

/-- Numbers, ascending. -/
def sortNat (l : List Nat) : List Nat := sortBy (fun a b => a ≤ b) l

/-- Keys strictly rise. -/
def Store.sorted {α : Type} (m : Store α) : Prop := m.Pairwise (fun a b => a.1 < b.1)

end Sys2Proof.Machine
end

