-- ==== Sys2Proof/Machine/Ops.lean ====
section
/-!
DEFINITION. The named operations over the machine: reaching cores, waves and slices; registers with their lookahead
windows and last-read marks; lane masks; the mailbox; taking a trap and returning from one; region edges; gangs; the
instruction store; device events.
-/

namespace Sys2Proof.Machine

/-! ### Reaching the parts -/

def State.core (s : State) (c : Nat) : Core := (Store.find? s.cores c).getD {}
def State.setCore (s : State) (c : Nat) (x : Core) : State := { s with cores := Store.insert s.cores c x }
def State.cluster (s : State) (c : Nat) : Cluster := (Store.find? s.clusters c).getD {}
def State.setCluster (s : State) (c : Nat) (x : Cluster) : State := { s with clusters := Store.insert s.clusters c x }
def State.wave? (s : State) (c w : Nat) : Option Wave := Store.find? (s.core c).waves w
def State.setWave (s : State) (c w : Nat) (x : Wave) : State :=
  s.setCore c { s.core c with waves := Store.insert (s.core c).waves w x }
def State.slice? (s : State) (c w k : Nat) : Option Slice := (s.wave? c w).bind (fun x => Store.find? x.slices k)
def Wave.setSlice (x : Wave) (k : Nat) (sl : Slice) : Wave := { x with slices := Store.insert x.slices k sl }
def Wave.slice (x : Wave) (k : Nat) : Slice := (Store.find? x.slices k).getD { ended := true }

/-- Change one slice, if it is there. -/
def State.modSlice (s : State) (c w k : Nat) (f : Slice → Slice) : State :=
  match s.wave? c w with
  | none => s
  | some x =>
    match Store.find? x.slices k with
    | none => s
    | some sl => s.setWave c w (x.setSlice k (f sl))

/-- Change one wave, if it is there. -/
def State.modWave (s : State) (c w : Nat) (f : Wave → Wave) : State :=
  match s.wave? c w with
  | none => s
  | some x => s.setWave c w (f x)

def State.obj? (s : State) (i : Nat) : Option Obj := Store.find? s.objects i
def State.setObj (s : State) (i : Nat) (o : Obj) : State := { s with objects := Store.insert s.objects i o }

/-- One more reference to an object (19 R339). -/
def State.holdObj (s : State) (i : Nat) : State := match s.obj? i with
  | some o => s.setObj i { o with refs := o.refs + 1 }
  | none => s

/-- One reference less to an object that nothing refers on from: with the last its entry is freed (19 R339). -/
def State.dropObj (s : State) (i : Nat) : State := match s.obj? i with
  | some o => if 1 < o.refs then s.setObj i { o with refs := o.refs - 1 } else { s with objects := Store.erase s.objects i }
  | none => s

/-- The table index of an object identity (19 R338). -/
def objIndex (id : Nat) : Nat := id % 1048576
/-- The identity of a table index on this package. -/
def State.objId (s : State) (index : Nat) : Nat := s.chip * 1048576 + index

def State.process? (s : State) (i : Nat) : Option Process :=
  match s.obj? i with
  | some { body := .process p, .. } => some p
  | _ => none

def State.modProcess (s : State) (i : Nat) (f : Process → Process) : State :=
  match s.obj? i with
  | some { body := .process p, refs, owner } => s.setObj i { body := .process (f p), refs, owner }
  | _ => s

/-- The wave acts in the secure world (27 R441). -/
def State.secureWave (s : State) (x : Wave) : Bool := ((s.process? x.process).map (·.secure)).getD false

/-- waveid (02 R85). -/
def waveId (core slot : Nat) : Nat := (core / 32) * 2048 + (core % 32) * 64 + slot
/-- The core and slot a waveid names. -/
def waveIdCore (id : Nat) : Nat := (id / 2048) % 16 * 32 + (id / 64) % 32
def waveIdSlot (id : Nat) : Nat := id % 64

/-! ### Counter banks (28 R471) -/

/-- Counter k of a cluster's bank counts n more events; counter 0 holds the cycle at which the bank was last cleared. -/
def State.bump (s : State) (cluster k n : Nat) : State :=
  let x := s.cluster cluster
  s.setCluster cluster { x with bank := Store.set x.bank 0 k (Store.get x.bank 0 k + BitVec.ofNat 64 n) }
/-- Counter k of a compute die's bank counts n more events. -/
def State.bumpDie (s : State) (die k n : Nat) : State :=
  { s with dieBanks := Store.set s.dieBanks 0 (16 * die + k) (Store.get s.dieBanks 0 (16 * die + k) + BitVec.ofNat 64 n) }

/-! ### Program counters and masks -/

/-- The 21-bit form of a PC (02 R66). -/
def Pc.bits (p : Pc) : BitVec 21 := p.seg ++ p.idx
def Pc.ofBits (b : BitVec 21) : Pc := { seg := b.extractLsb' 9 12, idx := b.extractLsb' 0 9 }
/-- Sequential issue: index 511 continues at index 0 of the segment (02 R66). -/
def Pc.next (p : Pc) : Pc := { p with idx := p.idx + 1 }

def laneBit (l : Nat) : Mask4 := 1#4 <<< l
/-- The lanes of a mask, ascending. -/
def lanesOf (m : Mask4) : List Nat := (List.range 4).filter (fun l => m.getLsbD l)
/-- A slice's mask placed among the wave's lanes (02 R85 lmask). -/
def waveLanes (k : Nat) (m : Mask4) : Mask64 := (m.setWidth 64) <<< (4 * k)

def Slice.pred (sl : Slice) (n : Nat) : Mask4 := Store.get sl.p 0 n
def Slice.setPred (sl : Slice) (n : Nat) (m : Mask4) : Slice := { sl with p := Store.set sl.p 0 n m }
def Slice.setPredLane (sl : Slice) (n l : Nat) (b : Bool) : Slice :=
  let m := sl.pred n
  sl.setPred n (if b then m ||| laneBit l else m &&& ~~~(laneBit l))

/-- Lanes active and not exited. -/
def Slice.active (sl : Slice) : Mask4 := sl.mask &&& ~~~sl.done

/-- exec(L) of 02 R40. -/
def Slice.exec (sl : Slice) (g : Option Guard) : Mask4 :=
  match g with
  | none => sl.active
  | some g => sl.active &&& (if g.neg then ~~~(sl.pred g.pred.toNat) else sl.pred g.pred.toNat)

/-! ### Registers (06 R137), with lookahead windows (07 R166) and last-read marks (07 R168) -/

/-- A number that tells one register of a slice from another. -/
def Loc.code : Loc → Nat
  | .v n l => 4 * n + l
  | .s n => 1024 + n

/-- The stored value of a register. -/
def Slice.raw (sl : Slice) : Loc → W32
  | .v n l => Store.get sl.v 0 (4 * n + l)
  | .s n => Store.get sl.s 0 n

def Slice.setRaw (sl : Slice) (loc : Loc) (x : W32) : Slice :=
  match loc with
  | .v n l => { sl with v := Store.set sl.v 0 (4 * n + l) x }
  | .s n => { sl with s := Store.set sl.s 0 n x }

/-- The value before the marked instruction, inside an open window (07 R166). (DESIGN CHOICE, log 64) -/
def Slice.oldIn (sl : Slice) (loc : Loc) : Option W32 :=
  sl.windows.findSome? (fun w => (w.old.find? (fun x => x.1 = loc)).map (·.2))

/-- The number of the free choice for a location of an open window: both halves of a 64-bit destination share one. -/
def Slice.windowKey (sl : Slice) (loc : Loc) : Nat :=
  let mate : Option Loc := match loc with
    | .v n l => if n % 2 = 1 then some (.v (n - 1) l) else none
    | .s n => if n % 2 = 1 then some (.s (n - 1)) else none
  match mate with
  | none => loc.code
  | some m =>
    if sl.windows.any (fun w => w.old.any (fun x => x.1 = loc) && w.old.any (fun x => x.1 = m)) then m.code else loc.code

/-- Read a register: inside a window the old or the new value, after a committed last-read mark the value or 0, and
which of the two is free for each read (log 2): fresh is the reader's own. (also log 64, DESIGN CHOICE) -/
def Slice.read (sl : Slice) (fresh : Nat) (loc : Loc) : W32 :=
  let x := match sl.oldIn loc with
    | some old => if Config.pick (fresh + sl.windowKey loc) % 2 = 0 then sl.raw loc else old
    | none => sl.raw loc
  if loc ∈ sl.dead then (if Config.pick (fresh + loc.code) / 2 % 2 = 0 then x else 0) else x

/-- A write to a location prevails over the marked instruction of an open window. -/
def Slice.windowWins (sl : Slice) (fresh : Nat) (loc : Loc) : Bool :=
  (sl.oldIn loc).isNone || Config.pick (fresh + sl.windowKey loc) % 2 = 0

/-- Write a register: it is live again, its mark is void, and a write under an open window to a marked destination leaves
one of the two writers' values, which one is free. -/
def Slice.write (sl : Slice) (fresh : Nat) (loc : Loc) (x : W32) : Slice :=
  let sl' := { sl with marks := sl.marks.filter (· ≠ loc), dead := sl.dead.filter (· ≠ loc) }
  if sl.windowWins fresh loc then { sl'.setRaw loc x with out := sl.out.filter (fun o => o.loc ≠ loc || (sl.oldIn loc).isNone) }
  else if sl.out.any (·.loc = loc) then sl'.setRaw loc x
  else sl'

/-- The picks one instruction may use: the counter advances by this much at each step (log 2). -/
def freshStep : Nat := 2 ^ 24
/-- The picks of a slice's reads, field by field, and of its writes (07 R166). -/
def readFresh (fresh k field : Nat) : Nat := fresh + 2 ^ 20 + (8 * k + field) * 2048
def writeFresh (fresh k : Nat) : Nat := fresh + 2 ^ 21 + k * 2048

/-! ### Mailbox, fatal record and device events -/

/-- Append a device event; at most 16 are held while no ring takes them (25 R430). -/
def State.raiseEvent (s : State) (e : DevEvent) : State :=
  if s.events.length < 16 then { s with events := s.events ++ [e] } else { s with eventsLost := s.eventsLost + 1 }

/-- Bytes of a number, least significant first. -/
def leBytes (n : Nat) (x : Nat) : List Byte := (List.range n).map (fun i => BitVec.ofNat 8 (x / 256 ^ i))
/-- The number in bytes, least significant first. -/
def ofLeBytes (b : List Byte) : Nat := b.foldr (fun (x : Byte) n => x.toNat + 256 * n) 0

/-- The 64 bytes of a mailbox record (09 R182). -/
def MailRecord.bytes (r : MailRecord) : List Byte :=
  leBytes 4 (r.kind * 2 ^ 24 + r.cls * 2 ^ 22 + (if r.parked then 2 ^ 21 else 0) + r.slice * 2 ^ 16 + r.code.toNat * 256)
    ++ leBytes 4 r.wave ++ leBytes 4 r.pc.bits.toNat ++ leBytes 4 r.service.toNat ++ leBytes 8 r.word.toNat
    ++ leBytes 8 r.lanes.toNat ++ leBytes 8 r.addr.toNat ++ leBytes 4 r.proc.toNat ++ leBytes 4 r.aux.toNat
    ++ ((r.args ++ [0, 0, 0, 0]).take 4).flatMap (fun (x : W32) => leBytes 4 x.toNat)

def mailboxSize : Nat := 64

/-- A block outside the core sends a record: it joins the mailbox, or is held until a place frees (09 R181). -/
def State.sendRecord (s : State) (c : Nat) (r : MailRecord) : State :=
  let k := s.core c
  if k.mailbox.length < mailboxSize && k.heldMail.isEmpty then s.setCore c { k with mailbox := k.mailbox ++ [r] }
  else s.setCore c { k with heldMail := k.heldMail ++ [r] }

/-- The core's fatal record (09 R187): the supervisor wave stops, placement stops, and the host learns of it. -/
def State.writeFatal (s : State) (c : Nat) (r : MailRecord) : State :=
  let k := s.core c
  let s := s.setCore c { k with fatal := some r, placementStopped := true }
  s.raiseEvent { kind := 1, info := BitVec.ofNat 64 (waveId c 63), body := r.bytes.take 48 }

/-! ### Gangs (06 R139) -/

/-- The gang that holds a slice. -/
def Wave.gangOf? (x : Wave) (k : Nat) : Option Gang := x.gangs.find? (fun g => g.slices.contains k)

/-- The slice leaves its gang: it stands in a gang of its own, of the same age. -/
def Wave.leaveGang (x : Wave) (k : Nat) : Wave :=
  match x.gangOf? k with
  | none => x
  | some g =>
    if g.slices = [k] then x
    else
      let rest := x.gangs.map (fun h => if h = g then { h with slices := h.slices.filter (· ≠ k) } else h)
      { x with gangs := rest ++ [{ g with slices := [k], boosted := false }] }

/-- The slice belongs to no gang any more: it has ended. -/
def Wave.dropFromGang (x : Wave) (k : Nat) : Wave :=
  let rest := x.gangs.map (fun (h : Gang) => { h with slices := h.slices.filter (· ≠ k) })
  { x with gangs := rest.filter (fun h => !h.slices.isEmpty) }

/-- Split a gang into one gang for each pc (02 R68). -/
def Wave.splitGang (x : Wave) (g : Gang) : List Gang :=
  let pcs := (g.slices.map (fun k => (x.slice k).pc)).eraseDups
  pcs.map (fun p => { g with slices := g.slices.filter (fun k => (x.slice k).pc = p) })

/-- Form one gang of these slices (02 R73, 04 R123). -/
def Wave.formGang (x : Wave) (ks : List Nat) (age : Nat) : Wave :=
  let rest := x.gangs.map (fun (h : Gang) => { h with slices := h.slices.filter (fun k => !ks.contains k) })
  { x with gangs := rest.filter (fun h => !h.slices.isEmpty) ++ [{ slices := ks, age }] }

/-- The rejoining rule of 02 R67, at most n times. -/
def Slice.rejoin (sl : Slice) : Nat → Slice
  | 0 => sl
  | n + 1 =>
    if sl.mask = 0 ∨ some sl.pc = sl.join then
      match sl.stack with
      | [] => if sl.mask = 0 then { sl with ended := true } else sl
      | e :: rest =>
        if e.pmask ≠ 0 then
          Slice.rejoin { sl with mask := e.pmask &&& ~~~sl.done, pc := e.ppc, stack := { e with pmask := 0 } :: rest } n
        else
          Slice.rejoin { sl with mask := e.keep &&& ~~~sl.done, join := e.outer, pc := e.jpc.getD sl.pc
                                 stack := rest } n
    else sl

/-- Apply the rejoining rule to a slice that is about to issue; a stack of eight needs at most sixteen uses. -/
def Slice.settle (sl : Slice) : Slice := if sl.ended then sl else sl.rejoin 32

/-- Rejoin every slice of a wave, drop ended slices from their gangs and split gangs whose pcs differ. -/
def Wave.settle (x : Wave) : Wave :=
  let x : Wave := { x with slices := x.slices.map (fun p => (p.1, if p.2.wait.isSome then p.2 else p.2.settle)) }
  let gangs := x.gangs.map (fun (g : Gang) => { g with slices := g.slices.filter (fun k => !(x.slice k).ended) })
  { x with gangs := (gangs.filter (fun g => !g.slices.isEmpty)).flatMap x.splitGang }

/-! ### Instruction store (12 R245) -/

/-- The number that stands for the system half, in place of a process. -/
def systemHalf : Nat := 2 ^ 20
def halfOf (process va : Nat) : Nat := if va.testBit 55 then systemHalf else process

/-- A code image: its address, in the system half or in a process's (log 32). -/
abbrev Image := Nat × W64
def Wave.image (x : Wave) : Image := (halfOf x.process x.code.toNat, x.code)
def Segment.image (e : Segment) : Image := (halfOf e.process e.code.toNat, e.code)

/-- The segment of a code image in a core's store, if it is there or being fetched. -/
def Core.segment? (k : Core) (i : Image) (seg : BitVec 12) : Option Segment :=
  k.istore.find? (fun e => e.image = i ∧ e.seg = seg)

/-- The segment stands in the store. -/
def Core.hasSegment (k : Core) (i : Image) (seg : BitVec 12) : Bool :=
  match k.segment? i seg with
  | some e => e.words.isSome
  | none => false

/-- The word at a pc of a code image. -/
def Core.wordAt (k : Core) (i : Image) (pc : Pc) : Option W64 :=
  (k.segment? i pc.seg).bind (fun e => e.words.map (fun m => Store.get m 0 pc.idx.toNat))

/-- A slot is pinned while a fetch into it runs or a resident slice's pc lies in it (12 R245). -/
def Core.pinned (k : Core) (e : Segment) : Bool :=
  e.words.isNone || k.waves.any (fun w => w.2.image = e.image &&
    w.2.slices.any (fun sl => !sl.2.ended && sl.2.pc.seg = e.seg))

/-- The unpinned slot least recently entered. -/
def Core.victimSegment (k : Core) : Option Segment :=
  (k.istore.filter (fun e => !k.pinned e)).foldl (fun best e =>
    match best with
    | none => some e
    | some b => if e.entered < b.entered then some e else some b) none

/-- A store slot for a fetch: a free one, or the victim's; none while every slot is pinned. -/
def Core.takeSlot (k : Core) : Option Core :=
  if (k.istore.filter (·.started)).length < 48 then some k
  else (k.victimSegment).map (fun v => { k with istore := k.istore.filter (· ≠ v) })

/-- Start fetching a segment; while every slot is pinned the fetch waits for one. -/
def State.startFetch (s : State) (c : Nat) (x : Wave) (seg : BitVec 12) : State :=
  let k := s.core c
  if (k.segment? x.image seg).isSome then s
  else
    let e : Segment := { process := x.process, code := x.code, seg, words := none, entered := s.serial
                         user := !x.supervisor, lastSeg := x.lastSeg }
    match k.takeSlot with
    | some k => s.setCore c { k with istore := k.istore ++ [e] }
    | none => s.setCore c { k with istore := k.istore ++ [{ e with started := false }] }

/-! ### Shared register ranges (07 R160, R161) -/

/-- The shared range that holds register n of a slot: the range's number and the offset. -/
def Core.sharedAt (k : Core) (slot n : Nat) : Option (Nat × Nat) :=
  k.shared.zipIdx.findSome? (fun x =>
    if x.1.slotA = slot ∧ x.1.regA ≤ n ∧ n < x.1.regA + x.1.count then some (x.2, n - x.1.regA)
    else if x.1.slotB = slot ∧ x.1.regB ≤ n ∧ n < x.1.regB + x.1.count then some (x.2, n - x.1.regB)
    else none)

/-- Register n of a slot in a wave lane is this cell of the range. -/
def Shared.names (h : Shared) (slot n lane cell : Nat) : Bool :=
  (h.slotA = slot && h.regA ≤ n && n < h.regA + h.count && 64 * (n - h.regA) + lane = cell)
    || (h.slotB = slot && h.regB ≤ n && n < h.regB + h.count && 64 * (n - h.regB) + lane = cell)

/-- Settle every pending fill and drain of a slot: at an edge fills stand and drains empty, at a drop the reverse.  A fill whose
value is still on its way (register and lane) stays pending until it comes (07 R161). (DEDUCED, log 42) -/
def Shared.settle (h : Shared) (slot : Nat) (edge : Bool) (due : List (Nat × Nat)) : Shared :=
  { h with st := h.st.map (fun x => (x.1, match x.2 with
      | .filled w => if w = slot && !due.any (fun d => h.names slot d.1 d.2 x.1) then (if edge then .full else .empty) else x.2
      | .drained w => if w = slot then (if edge then .empty else .full) else x.2
      | y => y)) }

/-- The v registers and wave lanes that a wave's slices await from accesses of these numbers. -/
def Wave.dueCells (x : Wave) (ids : Nat → Bool) : List (Nat × Nat) :=
  x.slices.flatMap (fun p => p.2.out.filterMap (fun o => match o.loc with
    | .v n l => if ids o.id then some (n, 4 * p.1 + l) else none
    | .s _ => none))

/-- Settle the shared registers of a wave; values that these accesses bring are still to come. -/
def State.settleShared (s : State) (c slot : Nat) (edge : Bool) (ids : Nat → Bool) : State :=
  let k := s.core c
  if k.shared.isEmpty then s
  else s.setCore c { k with shared := k.shared.map (fun h => h.settle slot edge (((s.wave? c slot).map (·.dueCells ids)).getD [])) }

/-! ### Region edges (02 R78, R79) -/

/-- An MMA of the slice has not committed (09 R197): a later edge, and the end of the slice, wait for it. (DEDUCED, log 48) -/
def Core.uncommitted (k : Core) (slot slice : Nat) : Bool :=
  k.passes.any (fun p => p.slot = slot && p.edges.any (fun e => e.1 = slice))

/-- The registers of a live-in set (01 R17). -/
def liveBit : Loc → Nat
  | .v n _ => n
  | .s n => 128 + n
def liveOf (ls : List Loc) : BitVec 256 := ls.foldl (fun m l => m ||| (1#256 <<< liveBit l)) 0

/-- Commit the last-read marks of a closing region, those that still stand (07 R168). (DESIGN CHOICE, log 64) -/
def Slice.commitMarks (sl : Slice) (ls : List Loc) : Slice :=
  { sl with dead := sl.dead ++ (sl.marks.filter (fun l => ls.contains l)).filter (fun l => !sl.dead.contains l)
            marks := sl.marks.filter (fun l => !ls.contains l) }

/-- rtop: the top two region identifiers (02 R85). -/
def Slice.rtop (sl : Slice) : W32 := (sl.regions.headD 0) ++ ((sl.regions.drop 1).headD 0)

/-- A cluster begins a trace record (28 R461); it is written to the ring at the end of the step. -/
def State.beginRecord (s : State) (cl : Nat) (b : List Byte) : State :=
  let x := s.cluster cl
  match x.trace with
  | none => s
  | some _ => s.setCluster cl { x with begun := x.begun ++ [b] }

/-- The bytes of a stop record (28 R469). -/
def stopRecord (c w k : Nat) (x : Wave) (sl : Slice) (cause : Nat) (code : BitVec 16) (cpc : Pc) : List Byte :=
  leBytes 4 (2 * 2 ^ 24 + cause * 2 ^ 16) ++ leBytes 4 (waveId c w) ++ leBytes 4 (code.toNat * 65536 + k)
    ++ leBytes 4 x.process ++ leBytes 4 sl.restart.pc.bits.toNat ++ leBytes 4 cpc.bits.toNat
    ++ leBytes 4 sl.rtop.toNat ++ leBytes 4 sl.mask.toNat ++ List.replicate 96 0

/-- The stop that is due at an edge of a slice (28 R469): its cause, code and PC. -/
def Slice.stopDue (sl : Slice) (p : Option Process) (supervisor : Bool) (edgePc : Pc) : Option (Nat × BitVec 16 × Pc) :=
  match sl.brk.filter (fun _ => (p.map (·.stops)).getD false) with
  | some (code, pc) => some (1, code, pc)
  | none => if (p.map (·.step)).getD false && !supervisor then some (2, 0, edgePc) else none

/-- Close the region of a slice at a restart point (02 R78, R79); edgePc is the edge's own PC.  These marks commit, shared
registers settle, and a debug stop that is due takes place (28 R469): whether stops are enabled is judged here, at the edge
(DESIGN CHOICE, log 72). -/
def State.closeRegionAt (s : State) (c w k : Nat) (r : Restart) (marks : List Loc) (edgePc : Pc) : State :=
  match s.wave? c w with
  | none => s
  | some x =>
    match Store.find? x.slices k with
    | none => s
    | some sl =>
      let sl := { sl.commitMarks marks with afterTret := false, restart := r }
      let s' := (s.setWave c w (x.setSlice k { sl with brk := none })).settleShared c w true (fun _ => true)
      match sl.stopDue (s.process? x.process) x.supervisor edgePc with
      | some (cause, code, pc) =>
        ((s'.modSlice c w k (fun sl => { sl with stopped := true })).modWave c w (·.leaveGang k)).beginRecord (c / 32)
          (stopRecord c w k x sl cause code pc)
      | none => s'

/-- The restart point of an edge passed by a slice as it stands, with live-in set live. -/
def Wave.restartAt (x : Wave) (k : Nat) (live : BitVec 256) : Restart :=
  let sl := x.slice k
  { pc := sl.pc, mask := sl.mask, done := sl.done, join := sl.join, stack := sl.stack, regions := sl.regions, live
    gang := ((x.gangOf? k).map (·.slices)).getD [k] }

/-- The slice passes a region edge where it stands. -/
def State.closeRegion (s : State) (c w k : Nat) (live : BitVec 256) (edgePc : Pc) : State :=
  match s.wave? c w with
  | none => s
  | some x =>
    (s.modSlice c w k (fun sl => { sl with windows := [] })).closeRegionAt c w k (x.restartAt k live) (x.slice k).marks edgePc

/-! ### Taking a trap, and returning from one (09 R177 to R187, 08 R172, 02 R82) -/

/-- The trap registers of a slice that takes a trap outside a handler (09 R177). -/
def Slice.setTrapRegs (sl : Slice) (k : Nat) (t : Trap) : Slice :=
  { sl with tpc := sl.pc, lmask := waveLanes k t.lanes ||| t.others, tcode := t.code }

/-- The record of a trap of this code carries the faulting address (09 R182). -/
def hasAddr (code : Byte) : Bool := code = 0x08 || (0x20 ≤ code.toNat && code.toNat ≤ 0x23) || code = 0x40 || code = 0x41

/-- The mailbox record of a trap (09 R182): its word is that of the instruction the slice stands at, 0 when the segment of
its pc is not there. (DEDUCED, log 41) -/
def trapRecord (s : State) (c w k : Nat) (x : Wave) (sl : Slice) (t : Trap) (kind : Nat) : MailRecord :=
  { kind, cls := x.prio.toNat, slice := k, code := t.code, wave := waveId c w, pc := sl.pc
    word := ((s.core c).wordAt x.image sl.pc).getD 0
    lanes := waveLanes k t.lanes ||| t.others, addr := if hasAddr t.code then t.addr else 0, proc := BitVec.ofNat 32 (s.objId x.process)
    aux := if t.code = 0x30 ∨ t.code = 0x31 ∨ t.code = 0x32 then t.aux else 0
    gen := Store.get (s.core c).gens 0 w }

/-- The code is one of 0x10 to 0x14. -/
def isFpCode (code : Byte) : Bool := 0x10 ≤ code.toNat && code.toNat ≤ 0x14

/-- tvec of a process: its handler PC, when valid (02 R85). -/
def Process.handler? (p : Process) : Option Pc := if p.tvec.getLsbD 21 then some (Pc.ofBits (p.tvec.setWidth 21)) else none

/-- Deliver to the user handler (08 R172): the slice runs at the PC in tvec with its mask as it stood, and delivery is a
region edge whose restart point is the handler's first instruction, with the live-in set of the last FRET. (DEDUCED, log 41) -/
def State.deliver (s : State) (c w k : Nat) (h : Pc) (t : Trap) : State :=
  match s.slice? c w k with
  | none => s
  | some sl =>
    let s := s.modSlice c w k (fun sl => { (sl.setTrapRegs k t) with handler := some sl.mask, pc := h, wait := none })
    (s.closeRegion c w k sl.lastLive sl.pc).modWave c w (·.leaveGang k)

/-- Send a record of a slice to the core's mailbox; the slice then waits.  With the mailbox full nothing is written and
the instruction runs again once a place frees (09 R181). (DEDUCED, log 41) -/
def State.mailSlice (s : State) (c w k : Nat) (r : MailRecord) (f : Slice → Slice) (wait : Wait) : State :=
  let m := s.core c
  if m.mailbox.length < mailboxSize && m.heldMail.isEmpty then
    let s := s.setCore c { m with mailbox := m.mailbox ++ [r] }
    (s.modSlice c w k (fun sl => { f sl with wait := some wait })).modWave c w (·.leaveGang k)
  else (s.modSlice c w k (fun sl => { sl with wait := some .mailbox })).modWave c w (·.leaveGang k)

/-- Deliver the slice's first deferred fabric error at the edge it stands at (09 R186): a record of kind 4, whose word is the
store's. (DESIGN CHOICE, log 82) -/
def State.deliverDeferred (s : State) (c w k : Nat) : State :=
  match s.wave? c w, s.slice? c w k with
  | some x, some sl =>
    match sl.deferred with
    | [] => s
    | e :: rest =>
      s.mailSlice c w k
        { kind := 4, cls := x.prio.toNat, slice := k, code := e.code, wave := waveId c w, pc := sl.pc, word := e.word
          lanes := e.lanes, addr := e.addr, proc := BitVec.ofNat 32 (s.objId x.process)
          aux := e.pc.bits.setWidth 32, gen := Store.get (s.core c).gens 0 w }
        (fun sl => { sl with deferred := rest }) .action
  | _, _ => s

/-- Deliver a trap to the user handler as soon as a region edge may be passed: the handler's segment is fetched first, every
earlier write of the slice lands, its MMAs commit and its deferred errors are delivered (02 R44, 08 R172, 09 R186).  The tvec
that stands when all this is so decides; without one, or with a segment that no fetch brings, the supervisor has the trap.
(DESIGN CHOICE, log 82) -/
def State.deliverDue (s : State) (c w k : Nat) (t : Trap) : State :=
  match s.wave? c w, s.slice? c w k with
  | some x, some sl =>
    let mailed := s.mailSlice c w k (trapRecord s c w k x sl t 1) (fun sl => sl.setTrapRegs k t) .action
    let waits := (s.modSlice c w k (fun sl => { sl with wait := some (.delivery t) })).modWave c w (·.leaveGang k)
    match (s.process? x.process).bind (·.handler?) with
    | none => mailed
    | some h =>
      if x.lastSeg < h.seg.toNat then mailed
      else if !(s.core c).hasSegment x.image h.seg then waits.startFetch c x h.seg
      else if !sl.out.isEmpty || (s.core c).uncommitted w k then waits
      else if !sl.deferred.isEmpty then s.deliverDeferred c w k
      else s.deliver c w k h t
  | _, _ => s

/-- Take a trap in one slice: the one operation that every trap of the machine goes through.  The slice stands at the
instruction; its trap registers are written unless it runs a handler; the trap goes to the user handler, to the
supervisor's mailbox, or, in the supervisor wave, to the core's fatal record. (DEDUCED, log 41) -/
def State.takeTrap (s : State) (c w k : Nat) (t : Trap) : State :=
  match s.wave? c w with
  | none => s
  | some x =>
    match Store.find? x.slices k with
    | none => s
    | some sl =>
      if x.supervisor then
        let s := (s.modSlice c w k (fun sl => { sl.setTrapRegs k t with wait := some .action })).modWave c w (·.leaveGang k)
        s.writeFatal c (trapRecord s c w k x sl t 1)
      else if sl.handler.isSome then
        s.mailSlice c w k (trapRecord s c w k x sl t 3) id .action
      else
        if isFpCode t.code then s.deliverDue c w k t
        else s.mailSlice c w k (trapRecord s c w k x sl t 1) (fun sl => sl.setTrapRegs k t) .action

/-- The return from a handler (02 R82): pc to tpc plus one, the mask held at delivery restored, and a region edge. -/
def State.trapReturn (s : State) (c w k : Nat) : State :=
  match s.slice? c w k with
  | none => s
  | some sl =>
    let s := s.modSlice c w k (fun sl =>
      { sl with pc := sl.tpc.next, mask := (sl.handler.getD sl.mask) &&& ~~~sl.done, handler := none })
    (s.closeRegion c w k sl.lastLive sl.pc).modSlice c w k (fun sl => { sl with afterTret := true })

/-! ### In-flight counters (02 R64) -/

def Wave.counter (x : Wave) (p : Nat) : Nat := Store.get x.counters 0 p
def Wave.bumpCounter (x : Wave) (p : Nat) : Wave := { x with counters := Store.set x.counters 0 p (x.counter p + 1) }
def Wave.dropCounter (x : Wave) (p : Nat) : Wave := { x with counters := Store.set x.counters 0 p (x.counter p - 1) }

/-! ### Ending slices -/

/-- Every lane of the slice exits and the slice ends (02 R76, 05 R132): a deferred fabric error that it still holds at an end
the supervisor gives it meets no edge and no EXIT, and is delivered no more. (DESIGN CHOICE, log 82) -/
def State.endSlice (s : State) (c w k : Nat) : State :=
  (s.modSlice c w k (fun sl => { sl with done := 15#4, mask := 0, ended := true, wait := none, stack := [] })).modWave c w (·.dropFromGang k)

/-! ### Time -/

/-- cltime of a cluster: a counter of its own, 0 at reset (02 R85). -/
def State.cltime (s : State) (cluster : Nat) : Nat := s.time + s.clocks.getD cluster 0

end Sys2Proof.Machine
end

