-- ==== Sys2Proof/Machine/Operands.lean ====
section
/-!
DEFINITION. Operand forms and the issue of lane-wise instructions (02 R40 to R43): which registers an instruction names,
what a lane reads, where its result goes, and the one driver that every register-to-register instruction issues through.
-/

namespace Sys2Proof.Machine

/-! ### Operands -/

/-- A source field: its register, whether it is a pair, and its last-read bit. -/
structure OpSrc where
  reg : Reg
  wide : Bool := false
  last : Bool := false

/-- The operands of one instruction, or of one half of a dual word. -/
structure Shape where
  g : Option Guard
  srcs : List OpSrc
  d : Option (Reg × Bool) := none
  look : Nat := 0
  /-- raises floating-point exceptions, and which: an enabled one closes its lookahead (07 R167) -/
  fp : Bool := false
  raises : FFlags := 31
  /-- only this lane of the slice -/
  only : Option Nat := none
  /-- predicates it writes -/
  dp : List Nat := []

/-- What a lane reads: its number in the slice, its source values and its predicates. -/
structure LaneIn where
  lane : Nat
  src : List W64
  pred : Nat → Bool

/-- What a lane writes: the destination's value, predicates, and the exceptions it raises. -/
structure LaneOut where
  val : W64 := 0
  preds : List (Nat × Bool) := []
  flags : FFlags := 0

def LaneIn.a (x : LaneIn) : W64 := x.src.getD 0 0
def LaneIn.b (x : LaneIn) : W64 := x.src.getD 1 0
def LaneIn.c (x : LaneIn) : W64 := x.src.getD 2 0

/-- Vector registers of a field. -/
def vNums (r : Reg) (wide : Bool) : List Nat :=
  match r with
  | .v n => if wide then [n.toNat, n.toNat + 1] else [n.toNat]
  | _ => []

def Shape.vAll (sh : Shape) : List Nat :=
  sh.srcs.flatMap (fun o => vNums o.reg o.wide) ++ (match sh.d with | some (r, w) => vNums r w | none => [])

/-- The locations of a field in one lane. -/
def regLocs (r : Reg) (wide : Bool) (lane : Nat) : List Loc :=
  match r with
  | .v n => if wide then [.v n.toNat lane, .v (n.toNat + 1) lane] else [.v n.toNat lane]
  | .s n => if wide then [.s n.toNat, .s (n.toNat + 1)] else [.s n.toNat]
  | .q _ => []

/-- Every location the fields name over these lanes. -/
def Shape.locs (sh : Shape) (lanes : List Nat) : List Loc :=
  lanes.flatMap (fun l => sh.srcs.flatMap (fun o => regLocs o.reg o.wide l)
    ++ (match sh.d with | some (r, w) => regLocs r w l | none => []))

def qNum? : Reg → Option Nat
  | .q n => some n.toNat
  | _ => none

/-- Queues the sources pop, and the queue the destination pushes to. -/
def Shape.pops (sh : Shape) : List Nat := sh.srcs.filterMap (fun o => qNum? o.reg)
def Shape.push? (sh : Shape) : Option Nat := sh.d.bind (fun x => qNum? x.1)
/-- Queues the instruction names. -/
def Shape.queues (sh : Shape) : List Nat := sh.pops ++ sh.push?.toList
/-- The destination is an s register: the instruction acts once for the slice. -/
def Shape.uniform (sh : Shape) : Bool :=
  match sh.d with
  | some (.s _, _) => true
  | _ => false

/-! ### Queue registers (02 R58, 07 R162, R164) -/

/-- Rows a store queue buffers: the spec gives no depth; eight, as for the load engine (log 5). -/
def queueDepth : Nat := 8

/-- Popping is legal on a queue bound for loading. -/
def Wave.popOk (x : Wave) (q : Nat) : Bool :=
  match Store.find? x.queues q with
  | some b => b.dir == .load
  | none => false
def Wave.pushOk (x : Wave) (q : Nat) : Bool :=
  match Store.find? x.queues q with
  | some b => b.dir == .store
  | none => false

/-- A monitor whose instruction pops the queue runs in the wave: the row is its own (02 R43). (DESIGN CHOICE, log 76) -/
def Wave.popping (x : Wave) (q : Nat) : Bool :=
  x.slices.any (fun p => match p.2.wait with
    | some (.monitor m) => m.pops.contains q
    | _ => false)

/-- A row can be delivered: one is fetched, or the stream has ended and the pop delivers zero. -/
def Wave.popReady (x : Wave) (q : Nat) : Bool :=
  match Store.find? x.queues q with
  | some b => !x.popping q && (b.rows.toNat ≤ b.row || (match b.held with
    | r :: _ => r.awaits.isEmpty
    | [] => false))
  | none => false
def Wave.pushReady (x : Wave) (q : Nat) : Bool :=
  match Store.find? x.queues q with
  | some b => b.held.length < queueDepth || b.rows.toNat ≤ b.row
  | none => false

/-- The value a pop delivers to a lane of the wave. -/
def Wave.popValue (x : Wave) (q lane : Nat) : W64 :=
  match Store.find? x.queues q with
  | some b => ((b.held.headD { vals := [] }).vals.getD lane none).getD 0
  | none => 0

/-- The pop's effect: the committed row advances (07 R162). -/
def Wave.pop (x : Wave) (q : Nat) : Wave :=
  { x with queues := Store.update x.queues q (fun b =>
      if b.rows.toNat ≤ b.row then b else { b with row := b.row + 1, held := b.held.drop 1 }) }

/-- The row of these lane values. -/
def Wave.rowOf (x : Wave) (vals : List (Nat × W64)) : List (Option W64) :=
  (List.range x.width).map (fun l => (vals.find? (fun v => v.1 = l)).map (·.2))

/-- The push's effect: the row goes into the store buffer; after the last row it is discarded (02 R58).  These accesses are
still to give it values. -/
def Wave.pushRow (x : Wave) (q : Nat) (vals : List (Nat × W64)) (awaits : List Nat) : Wave :=
  { x with queues := Store.update x.queues q (fun b =>
      if b.rows.toNat ≤ b.row then b
      else { b with row := b.row + 1, held := b.held ++ [{ vals := x.rowOf vals, awaits }] }) }
def Wave.push (x : Wave) (q : Nat) (vals : List (Nat × W64)) : Wave := x.pushRow q vals []

/-! ### Shared registers (07 R160) -/

/-- One access to one lane of a shared register by a slot: none when it must wait. -/
def shareAct (st : Share) (slot : Nat) : ShareUse → Option Share
  | .read => match st with
    | .empty => none
    | .full => some .full
    | .filled w => if w = slot then some st else none
    | .drained _ => some st
  | .readLast => match st with
    | .empty => none
    | .full => some (.drained slot)
    | .filled w => if w = slot then some st else none
    | .drained _ => some st
  | .write _ => match st with
    | .empty => some (.filled slot)
    | .full => none
    | .filled w => if w = slot then some st else none
    | .drained w => if w = slot then some (.filled slot) else none

/-- Perform accesses (register, wave lane, use) in order on the shared ranges of a core, or none when one must wait. -/
def Core.shareAll (k : Core) (slot : Nat) : List (Nat × Nat × ShareUse) → Option Core
  | [] => some k
  | (n, l, u) :: rest =>
    match k.sharedAt slot n with
    | none => Core.shareAll k slot rest
    | some (i, off) =>
      match k.shared[i]? with
      | none => Core.shareAll k slot rest
      | some h =>
        match shareAct ((Store.find? h.st (64 * off + l)).getD .full) slot u with
        | none => none
        | some st =>
          let h := { h with st := Store.insert h.st (64 * off + l) st
                            vals := match u with
                              | .write x => Store.set h.vals 0 (64 * off + l) x
                              | _ => h.vals }
          Core.shareAll { k with shared := k.shared.set i h } slot rest

/-- The value of a shared register in a wave lane. -/
def Core.shareVal (k : Core) (slot n l : Nat) : Option W32 :=
  match k.sharedAt slot n with
  | none => none
  | some (i, off) => (k.shared[i]?).map (fun h => Store.get h.vals 0 (64 * off + l))

/-! ### Reading fields -/

/-- Where an instruction issues: the core, the slot, the wave, the slice and the free values it may use. -/
structure Ctx where
  core : Core
  slot : Nat
  wave : Wave
  k : Nat
  fresh : Nat
  /-- the issuing gang -/
  gang : List Nat

/-- Read one 32-bit location for a source field; a shared register's window is that of any other (07 R166). -/
def Ctx.readLocAt (x : Ctx) (sl : Slice) (field : Nat) : Loc → W32
  | .v n l =>
    match x.core.shareVal x.slot n (4 * x.k + l) with
    | some v => { sl.setRaw (.v n l) v with dead := [] }.read (readFresh x.fresh x.k field) (.v n l)
    | none => sl.read (readFresh x.fresh x.k field) (.v n l)
  | .s n => sl.read (readFresh x.fresh x.k field) (.s n)
def Ctx.readLoc (x : Ctx) (sl : Slice) (loc : Loc) : W32 := x.readLocAt sl 0 loc

/-- Read a field in a lane as 64 bits, a 32-bit value zero-extended; a queue gives its head row's element. -/
def Ctx.readRegAt (x : Ctx) (sl : Slice) (field : Nat) (r : Reg) (wide : Bool) (lane : Nat) : W64 :=
  match r with
  | .v n => if wide then x.readLocAt sl field (.v (n.toNat + 1) lane) ++ x.readLocAt sl field (.v n.toNat lane)
            else (x.readLocAt sl field (.v n.toNat lane)).setWidth 64
  | .s n => if wide then x.readLocAt sl field (.s (n.toNat + 1)) ++ x.readLocAt sl field (.s n.toNat)
            else (x.readLocAt sl field (.s n.toNat)).setWidth 64
  | .q n => if wide then x.wave.popValue n.toNat (4 * x.k + lane)
            else ((x.wave.popValue n.toNat (4 * x.k + lane)).setWidth 32).setWidth 64
def Ctx.readReg (x : Ctx) (sl : Slice) (r : Reg) (wide : Bool) (lane : Nat) : W64 := x.readRegAt sl 0 r wide lane

/-- What one lane of an instruction reads. -/
def Ctx.laneIn (x : Ctx) (sl : Slice) (sh : Shape) (lane : Nat) : LaneIn :=
  { lane, src := sh.srcs.zipIdx.map (fun o => x.readRegAt sl o.2 o.1.reg o.1.wide lane)
    pred := fun n => (sl.pred n).getLsbD lane }

/-! ### Writing results -/

/-- The 32-bit writes of a destination. -/
def destWrites (r : Reg) (wide : Bool) (lane : Nat) (x : W64) : List (Loc × W32) :=
  match r with
  | .v n => if wide then [(.v n.toNat lane, x.setWidth 32), (.v (n.toNat + 1) lane, x.extractLsb' 32 32)]
            else [(.v n.toNat lane, x.setWidth 32)]
  | .s n => if wide then [(.s n.toNat, x.setWidth 32), (.s (n.toNat + 1), x.extractLsb' 32 32)]
            else [(.s n.toNat, x.setWidth 32)]
  | .q _ => []

/-- Write locations of a slice, the shared ones apart. -/
def Slice.writeAll (sl : Slice) (fresh : Nat) (ws : List (Loc × W32)) : Slice :=
  ws.foldl (fun sl w => sl.write fresh w.1 w.2) sl

/-- A location that stands in a shared range. -/
def Ctx.isShared (x : Ctx) : Loc → Bool
  | .v n _ => (x.core.sharedAt x.slot n).isSome
  | .s _ => false

/-- Instructions left in each window after one issues; a window of none left closes (01 R32). -/
def Slice.tickWindows (sl : Slice) : Slice :=
  { sl with windows := (sl.windows.map (fun w => { w with left := w.left - 1 })).filter (fun w => w.left ≠ 0) }

/-- Open a window of the n instructions that follow over these locations, whose old values are kept (07 R166). -/
def Slice.openWindow (sl : Slice) (n : Nat) (pc : Pc) (old : List (Loc × W32)) : Slice :=
  if n = 0 then sl else { sl with windows := sl.windows ++ [{ left := n, pc, old }] }

/-- Last-read marks of the fields over the executing lanes, on locations that are not shared. -/
def Shape.markLocs (sh : Shape) (lanes : List Nat) : List Loc :=
  lanes.flatMap (fun l => (sh.srcs.filter (·.last)).flatMap (fun o => regLocs o.reg o.wide l))

/-- A named location has an outstanding write that no window lets the instruction pass. -/
def Slice.blocked (sl : Slice) (locs : List Loc) : Bool :=
  sl.out.any (fun o => locs.contains o.loc && (sl.oldIn o.loc).isNone)

/-- The earliest write that the instruction awaits; any one for a region edge (02 R44, 28 R467). -/
def Slice.awaited (sl : Slice) (locs : List Loc) (edge : Bool) : Option Outstanding :=
  sl.out.find? (fun o => edge || (locs.contains o.loc && (sl.oldIn o.loc).isNone))

/-- Shared accesses of a shape over lanes: reads, then writes. -/
def Ctx.shareUses (x : Ctx) (sh : Shape) (lanes : List Nat) (ws : List (Loc × W32)) : List (Nat × Nat × ShareUse) :=
  lanes.flatMap (fun l => sh.srcs.flatMap (fun o => (vNums o.reg o.wide).map (fun n =>
    (n, 4 * x.k + l, if o.last then ShareUse.readLast else ShareUse.read))))
    ++ ws.filterMap (fun w => match w.1 with
      | .v n l => some (n, 4 * x.k + l, ShareUse.write w.2)
      | .s _ => none)

/-! ### The driver -/

/-- One operation of a word: a full instruction has one, a dual word two. -/
structure LaneOp where
  sh : Shape
  f : LaneIn → LaneOut

/-- What a slice does when the instruction issues. -/
inductive Plan where
  /-- a register it names has not landed: nothing happens yet -/
  | stall (on : Option Outstanding)
  | wait (w : Wait)
  | trap (t : Trap)
  /-- a deferred fabric error is delivered first (09 R186) -/
  | deferred
  /-- the slice's new state, the exceptions raised, shared accesses, pushed lane values, and the queues it pops or pushes -/
  | run (sl : Slice) (flags : FFlags) (share : List (Nat × Nat × ShareUse)) (pushes : List (Nat × Nat × W64))
    (queues : List Nat)

/-- The lanes an operation works on: all with exec(L), or the lowest of them when it acts once for the slice. -/
def LaneOp.lanes (o : LaneOp) (sl : Slice) : List Nat :=
  let l := (lanesOf (sl.exec o.sh.g)).filter (fun l => o.sh.only.all (· = l))
  if o.sh.uniform then l.take 1 else l

/-- The result of each lane. -/
def LaneOp.results (o : LaneOp) (x : Ctx) (sl : Slice) : List (Nat × LaneOut) :=
  (o.lanes sl).map (fun l => (l, o.f (x.laneIn sl o.sh l)))

/-- Register writes and predicate writes of the results. -/
def LaneOp.writes (o : LaneOp) (rs : List (Nat × LaneOut)) : List (Loc × W32) :=
  match o.sh.d with
  | none => []
  | some (r, wide) => rs.flatMap (fun x => destWrites r wide x.1 x.2.val)
def LaneOp.predWrites (rs : List (Nat × LaneOut)) : List (Nat × Nat × Bool) :=
  rs.flatMap (fun x => x.2.preds.map (fun p => (p.1, x.1, p.2)))
def LaneOp.pushed (o : LaneOp) (k : Nat) (rs : List (Nat × LaneOut)) : List (Nat × Nat × W64) :=
  match o.sh.push? with
  | none => []
  | some q => rs.map (fun x => (q, 4 * k + x.1, x.2.val))

/-- The checks before any effect, in the order of 09 R178: register bounds, then queue state. -/
def planChecks (ops : List LaneOp) (x : Ctx) (sl : Slice) : Option Trap :=
  if ops.any (fun o => o.sh.vAll.any (fun n => x.wave.allot ≤ n)) then some { code := 0x04, lanes := sl.active }
  else if ops.any (fun o => !(o.lanes sl).isEmpty
      && (o.sh.pops.any (fun q => !x.wave.popOk q) || o.sh.push?.any (fun q => !x.wave.pushOk q))) then
    some { code := 0x03, lanes := sl.active }
  else none

/-- The operation pops or pushes in a slice, and so closes its region (02 R43): with no lane of exec(L) it does neither
(02 R40). (DEDUCED, log 51) -/
def LaneOp.queues (o : LaneOp) (sl : Slice) : List Nat := if (o.lanes sl).isEmpty then [] else o.sh.queues
def isQueueEdge (ops : List LaneOp) (sl : Slice) : Bool := ops.any (fun o => !(o.queues sl).isEmpty)

/-- A region edge ends the slice's lookahead windows before it reads its operands (01 R32). -/
def Slice.atEdge (sl : Slice) (edge : Bool) : Slice := if edge then { sl with windows := [] } else sl

/-- A full/empty access that an operation will make, whatever it writes (07 R160). -/
def LaneOp.uses (o : LaneOp) (x : Ctx) (sl : Slice) : List (Nat × Nat × ShareUse) :=
  x.shareUses o.sh (o.lanes sl) (match o.sh.d with
    | some (r, wide) => (o.lanes sl).flatMap (fun l => destWrites r wide l 0)
    | none => [])

/-- The lanes an operation's exceptions are charged to: with an s destination, every lane with exec(L) (04 R121).
(DEDUCED, log 51) -/
def LaneOp.flagged (o : LaneOp) (sl : Slice) (r : Nat × LaneOut) : List (Nat × FFlags) :=
  (if o.sh.uniform then lanesOf (sl.exec o.sh.g) else [r.1]).map (fun l => (l, r.2.flags))

/-- What a write to a location leaves there: within a window over a shared register, one of the two writers' values. -/
def Ctx.shareWrite (x : Ctx) (sl : Slice) (w : Loc × W32) : Loc × W32 :=
  match w.1 with
  | .v n l =>
    (match x.core.shareVal x.slot n (4 * x.k + l) with
      | some cur =>
        if sl.windowWins (writeFresh x.fresh x.k) w.1 || sl.out.any (fun o => o.loc = w.1) then w else (w.1, cur)
      | none => w)
  | .s _ => w

/-- The value a location holds before it is written. -/
def Ctx.current (x : Ctx) (sl : Slice) (loc : Loc) : W32 :=
  match loc with
  | .v n l => (x.core.shareVal x.slot n (4 * x.k + l)).getD (sl.raw loc)
  | .s _ => sl.raw loc

/-- The plan of one slice: every source is read before anything is written, guards included (01 R34, 06 R138). -/
def planSlice (ops : List LaneOp) (x : Ctx) (sl0 : Slice) : Plan :=
  let edge := isQueueEdge ops sl0
  let sl := sl0.atEdge edge
  match planChecks ops x sl with
  | some t => .trap t
  | none =>
    let locs := ops.flatMap (fun o => o.sh.locs (o.lanes sl))
    if sl.blocked locs || (edge && !sl.out.isEmpty) then .stall (sl.awaited locs edge)
    else if edge && x.core.uncommitted x.slot x.k then .wait .commit
    else if edge && !sl.deferred.isEmpty then .deferred
    else if ops.any (fun o => !(o.lanes sl).isEmpty
        && (o.sh.pops.any (fun q => !x.wave.popReady q) || o.sh.push?.any (fun q => !x.wave.pushReady q)))
    then .wait .queue
    else if (x.core.shareAll x.slot (ops.flatMap (fun o => o.uses x sl))).isNone then .wait .fullEmpty
    else
      let rs := ops.map (fun o => (o, o.results x sl))
      let lanes := rs.flatMap (fun r => r.2.flatMap (r.1.flagged sl))
      let flags := allFlags lanes
      match enabledTrap x.wave.tmask flags with
      | some i => .trap { code := flagCode i, lanes := lanesRaising i lanes }
      | none =>
        let ws : List (Loc × W32) := rs.flatMap (fun r => r.1.writes r.2)
        let uses := rs.flatMap (fun r => x.shareUses r.1.sh (r.1.lanes sl) [])
          ++ x.shareUses { g := none, srcs := [] } [] (ws.map (x.shareWrite sl))
        let look := (ops.map (fun o => if o.sh.fp && (x.wave.tmask &&& o.sh.raises) ≠ 0 then 0 else o.sh.look)).foldl max 0
        let fresh := (ops.flatMap (fun (o : LaneOp) => o.sh.markLocs (o.lanes sl))).filter
          (fun l => !sl.marks.contains l && !x.isShared l)
        let sl1 : Slice := { sl with marks := sl.marks ++ fresh }
        let sl2 := (sl1.writeAll (writeFresh x.fresh x.k) ws).tickWindows.openWindow look sl.pc
          (ws.map (fun (w : Loc × W32) => (w.1, x.current sl w.1)))
        let sl3 := (rs.flatMap (fun r => LaneOp.predWrites r.2)).foldl (fun sl p => sl.setPredLane p.1 p.2.1 p.2.2) sl2
        .run { sl3 with pc := sl.pc.next } flags uses (rs.flatMap (fun r => r.1.pushed x.k r.2))
          (ops.flatMap (fun o => o.queues sl))

/-- The issuing slices with their plans. -/
def plans (plan : Ctx → Slice → Plan) (s : State) (x : Wave) : List (Nat × Plan) :=
  s.now.slices.map (fun k =>
    (k, plan { core := s.core s.now.core, slot := s.now.slot, wave := x, k, fresh := s.fresh, gang := s.now.slices } (x.slice k)))

def Plan.isStall : Plan → Bool
  | .stall _ => true
  | _ => false
def Plan.stall? : Plan → Option (Option Outstanding)
  | .stall o => some o
  | _ => none
def Plan.wait? : Plan → Option Wait
  | .wait w => some w
  | _ => none

/-- A wait: the slice stays at its instruction and leaves its gang (06 R139). -/
def State.setWait (s : State) (k : Nat) (w : Wait) : State :=
  (s.modSlice s.now.core s.now.slot k (fun sl => { sl with wait := some w })).modWave s.now.core s.now.slot (·.leaveGang k)

/-- A wait before the instruction issues: the gang issues when it is over, so its mates stay with the slice (06 R138, R139,
15). (DEDUCED, log 42) -/
def Wait.holdsGang : Wait → Bool
  | .token | .storage | .commit | .queue | .copyPlace | .entropy | .counter | .park | .mbwait | .acquire _ | .walker => true
  | _ => false

/-- The gang stays together: every member waits, or one waits for something that must be over before the gang issues. (DEDUCED, log 42) -/
def waitTogether (ws : List (Nat × Option Wait)) : Bool :=
  ws.all (fun w => w.2.isSome) || ws.any (fun w => w.2.any Wait.holdsGang)

/-- Members that wait; the gang stays as it is. (DEDUCED, log 42) -/
def State.waitAll (s : State) (ws : List (Nat × Option Wait)) : State :=
  s.modWave s.now.core s.now.slot (fun x => ws.foldl (fun (x : Wave) k => match k.2 with
    | some w => x.setSlice k.1 { x.slice k.1 with wait := some w }
    | none => x) x)

/-- Members that await a register write; the gang stays as it is. -/
def State.stallOn (s : State) (ss : List (Nat × Option (Option Outstanding))) : State :=
  s.modWave s.now.core s.now.slot (fun x => ss.foldl (fun (x : Wave) k => match k.2 with
    | some o => x.setSlice k.1 { x.slice k.1 with wait := some (.operand o) }
    | none => x) x)

/-- A trap of a slice of the issuing gang. -/
def State.trapNow (s : State) (k : Nat) (t : Trap) : State := s.takeTrap s.now.core s.now.slot k t

/-- Carry out the plan of one slice. (DEDUCED, log 51) -/
def commitPlan (s : State) (k : Nat) (p : Plan) : State :=
  match p with
  | .stall _ => s
  | .wait w => s.setWait k w
  | .trap t => s.trapNow k t
  | .deferred => s.deliverDeferred s.now.core s.now.slot k
  | .run sl flags share _ _ =>
    let s := s.modWave s.now.core s.now.slot (fun x => { x.setSlice k { sl with wait := none } with
      fflags := x.fflags ||| flags })
    match (s.core s.now.core).shareAll s.now.slot share with
    | some c => if share.isEmpty then s else s.setCore s.now.core c
    | none => s

/-- What a slice that ran hands on: its pushed values, and the queues it pops or pushes. -/
structure Committed where
  k : Nat
  pushes : List (Nat × Nat × W64)
  queues : List Nat

/-- The registers and predicates an operation writes, as the live-in set of its edge takes them (01 R17, 02 R79). -/
def LaneOp.liveOut (o : LaneOp) : BitVec 256 :=
  liveOf (match o.sh.d with | some (d, w) => regLocs d w 0 | none => [])
    ||| o.sh.dp.foldl (fun m p => m ||| (1#256 <<< (192 + p))) 0

/-- Pops, pushes and the region edges they make, once for the issue: one row of each queue that a slice pops or pushes
(02 R40, R43, 07 R162). (DEDUCED, log 51) -/
def commitQueues (ops : List LaneOp) (ran : List Committed) (s : State) : State :=
  let named := ran.flatMap (·.queues)
  if named.isEmpty then s
  else
    let pushes := ran.flatMap (·.pushes)
    let s := s.modWave s.now.core s.now.slot (fun x =>
      let x := ((ops.flatMap (fun o => o.sh.pops)).eraseDups.filter (fun q => named.contains q)).foldl (fun x q => x.pop q) x
      ((ops.filterMap (fun o => o.sh.push?)).eraseDups.filter (fun q => named.contains q)).foldl (fun x q =>
        x.push q ((pushes.filter (fun p => p.1 = q)).map (·.2))) x)
    (ran.filter (fun r => !r.queues.isEmpty)).foldl (fun s r =>
      match s.slice? s.now.core s.now.slot r.k with
      | none => s
      | some sl =>
        s.closeRegion s.now.core s.now.slot r.k (ops.foldl (fun m o => m ||| o.liveOut) sl.lastLive)
          { sl.pc with idx := sl.pc.idx - 1 }) s

/-- Issue one word for the gang: nothing while a member's register has not landed, else every member runs, waits or traps
on its own; what ran is then handed on. (DEDUCED, log 41) -/
def issuePlans (plan : Ctx → Slice → Plan) (after : List Committed → State → State) (s : State) : State :=
  match s.wave? s.now.core s.now.slot with
  | none => s
  | some x =>
    let ps := plans plan s x
    if ps.any (fun p => p.2.isStall) then s.stallOn (ps.map (fun p => (p.1, p.2.stall?)))
    else if waitTogether (ps.map (fun p => (p.1, p.2.wait?))) then s.waitAll (ps.map (fun p => (p.1, p.2.wait?)))
    else
      let s' := ps.foldl (fun s p => commitPlan s p.1 p.2) s
      after (ps.filterMap (fun p => match p.2 with
        | .run _ _ _ pushes queues => some { k := p.1, pushes, queues }
        | _ => none)) s'

/-- Issue a word of lane operations. -/
def issueOps (ops : List LaneOp) (s : State) : State := issuePlans (planSlice ops) (commitQueues ops) s

/-- Issue one lane operation. -/
def issueLane (sh : Shape) (f : LaneIn → LaneOut) (s : State) : State := issueOps [{ sh, f }] s

end Sys2Proof.Machine

namespace Sys2Proof

open Machine

/-! ### Operand forms of the arithmetic words -/

def Machine.srcOf (x : Src) (wide : Bool) : OpSrc := { reg := x.reg, wide, last := x.last }

/-- Full A with one, two or three sources, all of the type's width but where the opcode's entry says otherwise. -/
def Alu1.shape (o : Alu1) (fp dWord : Bool) (raises : Machine.FFlags := 31) : Shape :=
  { g := o.g, srcs := [srcOf o.a o.ty.wide], d := some (o.d, o.ty.wide && !dWord), look := o.look.toNat, fp, raises }
def Alu2.shape (o : Alu2) (fp bWord : Bool) : Shape :=
  { g := o.g, srcs := [srcOf o.a o.ty.wide, srcOf o.b (o.ty.wide && !bWord)], d := some (o.d, o.ty.wide)
    look := o.look.toNat, fp }
def Alu3.shape (o : Alu3) (fp : Bool) : Shape :=
  { g := o.g, srcs := [srcOf o.a o.ty.wide, srcOf o.b o.ty.wide, srcOf o.c o.ty.wide], d := some (o.d, o.ty.wide)
    look := o.look.toNat, fp }
/-- Full B: one register source; the immediate is the second operand (01 R22). -/
def AluI.shape (o : AluI) (fp : Bool) : Shape :=
  { g := o.g, srcs := [{ reg := o.a }], d := some (o.d, false), fp }
/-- A predicate destination: two sources and no register written. -/
def Machine.cmpShape (g : Option Guard) (a b : Src) (aw bw fp : Bool) (d : Nat) : Shape :=
  { g, srcs := [srcOf a aw, srcOf b bw], fp, dp := [d] }

/-- The immediates of 01 R22. -/
def AluI.signed (o : AluI) : W64 := ((o.imm.signExtend 32).setWidth 64)
def AluI.natural (o : AluI) : W64 := o.imm.setWidth 64
def AluI.float (o : AluI) : W64 := (o.imm ++ 0#6 : BitVec 32).setWidth 64

end Sys2Proof
end

