-- ==== Sys2Proof/Machine/Home.lean ====
section
/-!
DEFINITION. Memory at its home (12 R229, R237, R241, R243, 13 R256): bytes by place, the region table (27 R443, R444),
poison and key generations (20 R368), the blocks at device addresses (27 R442), replicas, and the L1 copies that nobody
else's writes invalidate.
-/

namespace Sys2Proof.Machine

/-! ### Bytes -/

def Memory.get (m : Memory) (a : Nat) : Byte := Store.get m 0 a
def Memory.set (m : Memory) (a : Nat) (b : Byte) : Memory := Store.set m 0 a b
/-- Bytes from an address on. -/
def Memory.read (m : Memory) (a n : Nat) : List Byte := (List.range n).map (fun i => Memory.get m (a + i))
def Memory.write (m : Memory) (a : Nat) : List Byte → Memory
  | [] => m
  | b :: bs => Memory.write (Memory.set m a b) (a + 1) bs

/-! ### The region table (27 R443, R444) -/

/-- Entry i as stored: two words, low and high. -/
def Security.region (z : Security) (i : Nat) : Region :=
  let lo := Store.get z.regions 0 (2 * i)
  let hi := Store.get z.regions 0 (2 * i + 1)
  { valid := hi.getLsbD 63, secure := hi.getLsbD 62, key := (hi.toNat / 2 ^ 56) % 64
    base := (hi.toNat % 2 ^ 28) * 2 ^ 12 + lo.toNat / 2 ^ 52, last := lo.toNat / 2 ^ 12 % 2 ^ 40 }

/-- The entry that decides for an address of local HBM: the lowest valid one that covers its page. -/
def Security.regionOf (z : Security) (a : Nat) : Option Region :=
  ((List.range 64).map z.region).find? (fun r => r.valid && r.base ≤ a / 4096 && a / 4096 ≤ r.last)

def State.secureAt (s : State) (a : Nat) : Bool := ((s.security.regionOf a).map (·.secure)).getD false
def State.keyAt (s : State) (a : Nat) : Nat := ((s.security.regionOf a).map (·.key)).getD 0

/-- A world may touch this address of a place. -/
def State.worldOk (s : State) (secure : Bool) (p : Place) (a : Nat) : Bool :=
  match p with
  | .hbm => secure || !s.secureAt a
  | _ => true

/-! ### Poison (20 R368) -/

/-- The key a line is under now: its index, and how often that key has been replaced. (DESIGN CHOICE, log 71) -/
def State.keyTag (s : State) (a : Nat) : Nat := s.keyAt a * 2 ^ 32 + Store.get s.security.keyGen 0 (s.keyAt a)

/-- The stored tag of the line fails: it was written under another key than the one in force. (DESIGN CHOICE, log 71) -/
def State.tagFails (s : State) (a : Nat) : Bool := Store.get s.lineGen 0 (a / 128) ≠ s.keyTag a

/-- Poison a line, once, and record it for the host (25 R429, R430). (DESIGN CHOICE, log 71) -/
def State.poison (s : State) (line : Nat) : State :=
  if s.poisoned.contains line then s
  else ({ s with poisoned := s.poisoned ++ [line] }.raiseEvent { kind := 2, info := BitVec.ofNat 64 (line * 128), body := [] }).bumpDie
    (Config.lineDie line % 2) 11 1

/-- A line of HBM is about to be read or partly written: a failing tag poisons it. -/
def State.checkLine (s : State) (p : Place) (a : Nat) : State :=
  match p with
  | .hbm => if s.tagFails a then s.poison (a / 128) else s
  | _ => s

/-- The line reads as poison. -/
def State.isPoisoned (s : State) (p : Place) (a : Nat) : Bool := p == .hbm && (s.poisoned.contains (a / 128) || s.tagFails a)

/-! ### The blocks at device addresses (25 R432, 27 R442) -/

/-- The second tier: what is fitted, at most 16 TiB (00 R4). -/
def tier2Bytes : Nat := min Config.tier2Bytes (2 ^ 44)

/-- The capability list: six entries, each a header and its body. -/
def capHeader (next len ident : Nat) : W64 := BitVec.ofNat 64 (next * 2 ^ 32 + len * 2 ^ 24 + 1 * 2 ^ 16 + ident)

/-- DEDUCED, log 53. (also log 70, DESIGN CHOICE) -/
def clustersMask (s : State) : Nat := (Store.get s.security.sensed 0 4).toNat / 256 % 4096
def popNat (n : Nat) : Nat := ((List.range 64).filter (fun i => n.testBit i)).length
def portsMask (s : State) : Nat := (s.ports.filter (fun p => p.2.inService)).foldl (fun m p => m + 2 ^ p.1) 0

def State.capabilityWords (s : State) : List W64 :=
  [ capHeader 0x20 4 1,
    BitVec.ofNat 64 ((Store.get s.security.sensed 0 4).toNat % 256 + clustersMask s * 256
      + popNat (clustersMask s) * 32 * 2 ^ 32),
    Config.capability 0, Config.capability 1,
    capHeader 0x30 2 2, 0x1FFF#64,
    capHeader 0x48 3 3, BitVec.ofNat 64 (s.chip + (s.cliqueSize - 1) * 256), BitVec.ofNat 64 (portsMask s),
    capHeader 0x68 4 4, BitVec.ofNat 64 (768 * 2 ^ 30), BitVec.ofNat 64 tier2Bytes, BitVec.ofNat 64 s.exposedBytes,
    capHeader 0x78 2 5, BitVec.ofNat 64 (64 + 1024 * 256),
    capHeader 0 2 6, BitVec.ofNat 64 2048 ]

/-- Byte at an offset of the device window. -/
def State.deviceByte (s : State) (off : Nat) : Byte :=
  if off < 0x10000 then BitVec.ofNat 8 ((s.capabilityWords.getD (off / 8) 0).toNat / 256 ^ (off % 8))
  else if off < 0x10400 then BitVec.ofNat 8 ((Store.get s.security.regions 0 ((off - 0x10000) / 8)).toNat / 256 ^ (off % 8))
  else if 0x20000 ≤ off && off < 0x20040 then BitVec.ofNat 8 (s.security.measure.toNat / 256 ^ (off - 0x20000))
  else 0

/-- Store a byte into the region table; no other block takes a store. -/
def State.setDeviceByte (s : State) (off : Nat) (b : Byte) : State :=
  if 0x10000 ≤ off && off < 0x10400 then
    let i := (off - 0x10000) / 8
    let old := (Store.get s.security.regions 0 i).toNat
    let w := 256 ^ (off % 8)
    { s with security := { s.security with
        regions := Store.set s.security.regions 0 i (BitVec.ofNat 64 (old - old / w % 256 * w + b.toNat * w)) } }
  else s

/-! ### Homes -/

/-- The die of a core: clusters 0 to 5 and 6 to 11. -/
def dieOf (core : Nat) : Nat := core / 192

def placeTag : Place → Nat
  | .hbm => 0 | .tier2 => 1 | .host => 2 | .peer c => 3 + c
  | .scratch _ | .params _ | .device => 31

/-- The key of a byte that one die still sees as it was (12 R243). -/
def staleKey (p : Place) (a die : Nat) : Nat := 2 * (placeTag p * 2 ^ 60 + a) + die

/-- The byte at its home: for a replicated page, at the primary. -/
def State.homeByte (s : State) (p : Place) (a : Nat) : Byte :=
  match p with
  | .hbm => Memory.get s.hbm a
  | .tier2 => Memory.get s.tier2 a
  | .host => Memory.get s.host a
  | .peer _ => 0
  | .scratch c => Memory.get (s.core c).scratch a
  | .params l => ((Store.find? s.launches l).map (fun x => x.params.getD a 0)).getD 0
  | .device => s.deviceByte a

/-- The byte as the agents of a die see it (12 R243). -/
def State.peek (s : State) (die : Nat) (p : Place) (a : Nat) : Byte :=
  match Store.find? s.stale (staleKey p a die) with
  | some b => b
  | none => s.homeByte p a

def State.peekN (s : State) (die : Nat) (p : Place) (a n : Nat) : List Byte :=
  (List.range n).map (fun i => s.peek die p (a + i))

/-- Bytes at the primary. -/
def State.homeN (s : State) (p : Place) (a n : Nat) : List Byte := (List.range n).map (fun i => s.homeByte p (a + i))

def State.poke (s : State) (p : Place) (a : Nat) (b : Byte) : State :=
  match p with
  | .hbm => { s with hbm := Memory.set s.hbm a b }
  | .tier2 => { s with tier2 := Memory.set s.tier2 a b }
  | .host => { s with host := Memory.set s.host a b }
  | .peer _ => s
  | .scratch c => s.setCore c { s.core c with scratch := Memory.set (s.core c).scratch a b }
  | .params _ => s
  | .device => s.setDeviceByte a b

def State.pokeN (s : State) (p : Place) (a : Nat) : List Byte → State
  | [] => s
  | b :: bs => State.pokeN (s.poke p a b) p (a + 1) bs

/-! ### L1 copies (12 R237, R238) -/

/-- The L1 of a wave. (DEDUCED, log 46) -/
def State.l1Dom (s : State) (core slot : Nat) : L1Dom :=
  match s.wave? core slot with
  | none => { core, tag := 0 }
  | some x =>
    match Store.find? s.teams x.team with
    | none => { core, tag := 0 }
    | some t =>
      match Store.find? s.launches t.launch with
      | none => { core, tag := 0 }
      | some l => if l.fused && !x.supervisor then { core := core / 32 * 32, tag := t.launch + 1 } else { core, tag := 0 }

def Place.cached : Place → Bool
  | .hbm | .tier2 | .host | .peer _ => true
  | .scratch _ | .params _ | .device => false

/-- Key of a line in a core's table of copies, and the place and address a key names. -/
def l1Key (d : L1Dom) (p : Place) (a : Nat) : Nat := (d.tag * 32 + placeTag p) * 2 ^ 52 + a / 128
def keyPlace (key : Nat) : Place :=
  match key / 2 ^ 52 % 32 with
  | 0 => .hbm | 1 => .tier2 | 2 => .host | n + 3 => .peer n
def keyIs (key : Nat) (p : Place) (a : Nat) : Bool := key % 2 ^ 52 = a / 128 && key / 2 ^ 52 % 32 = placeTag p

def State.l1? (s : State) (d : L1Dom) (p : Place) (a : Nat) : Option L1Line := Store.find? (s.core d.core).l1 (l1Key d p a)
def State.setL1 (s : State) (d : L1Dom) (p : Place) (a : Nat) (x : Option L1Line) : State :=
  s.setCore d.core { s.core d.core with l1 := Store.put (s.core d.core).l1 (l1Key d p a) x }

/-- Lines of 128 bytes in an L1 of 256 KiB, and in the fused L1 of 8 MiB (00 R4, 12 R238). -/
def L1Dom.lines (d : L1Dom) : Nat := if d.tag = 0 then 2048 else 65536

/-- Offsets in its line of n bytes at an address. -/
def lineOffs (a n : Nat) : List Nat := (List.range n).map (fun i => (a + i) % 128)

def L1Line.has (x : L1Line) (off : Nat) : Bool := x.valid.getLsbD off
def L1Line.isDirty (x : L1Line) (off : Nat) : Bool := x.dirty.any (fun y => y.1 = off)
/-- The copy holds these bytes. -/
def L1Line.holds (x : L1Line) (a n : Nat) : Bool := (lineOffs a n).all x.has
def L1Line.read (x : L1Line) (a n : Nat) : List Byte := (lineOffs a n).map (fun i => x.bytes.getD i 0)
/-- The stores not yet home among these bytes. -/
def L1Line.writers (x : L1Line) (a n : Nat) : List Nat :=
  ((x.dirty.filter (fun y => (lineOffs a n).contains y.1)).map (·.2)).eraseDups

/-- The copy without these bytes, but for those not yet home. -/
def L1Line.pass (x : L1Line) (offs : List Nat) : L1Line :=
  let gone := offs.filter (fun o => !x.isDirty o)
  { x with valid := gone.foldl (fun v o => v &&& ~~~(1#128 <<< o)) x.valid
           contested := x.contested.filter (fun o => !gone.contains o) }

/-- The copy with fresh bytes of the line, but for those not yet home. -/
def L1Line.refill (x : L1Line) (bs : List Byte) : L1Line :=
  { x with bytes := bs.zipIdx.map (fun b => if x.isDirty b.2 then x.bytes.getD b.2 0 else b.1)
           valid := BitVec.allOnes 128
           contested := x.contested.filter x.isDirty }

/-- A store's bytes enter the copy, not yet home. -/
def L1Line.store (x : L1Line) (a : Nat) (bs : List Byte) (id : Nat) : L1Line :=
  bs.zipIdx.foldl (fun (x : L1Line) b =>
    let off := (a + b.2) % 128
    { x with bytes := x.bytes.set off b.1, dirty := x.dirty.filter (fun y => y.1 ≠ off) ++ [(off, id)]
             contested := x.contested.filter (· ≠ off), valid := x.valid ||| (1#128 <<< off) }) x

/-- A copy that holds nothing yet. -/
def emptyLine : L1Line := { bytes := List.replicate 128 0, valid := 0 }

/-- Room for one more line: a copy with nothing on its way is evicted from a full L1. (DESIGN CHOICE, log 83) -/
def State.roomL1 (s : State) (d : L1Dom) : State :=
  let k := s.core d.core
  if (k.l1.filter (fun l => l.1 / 2 ^ 57 = d.tag)).length < d.lines then s
  else match List.find? (fun (l : Nat × L1Line) => l.1 / 2 ^ 57 = d.tag && l.2.dirty.isEmpty) k.l1 with
    | some l => s.setCore d.core { k with l1 := Store.erase k.l1 l.1 }
    | none => s

/-- Fresh bytes of the line that holds an address. (DEDUCED, log 46) -/
def State.lineBytes (s : State) (die : Nat) (p : Place) (a : Nat) : List Byte := s.peekN die p (a / 128 * 128) 128

/-- These bytes of a whole line come to L1. -/
def State.bringL1 (s : State) (d : L1Dom) (p : Place) (a : Nat) (bs : List Byte) : State :=
  match s.l1? d p a with
  | some x => s.setL1 d p a (some (x.refill bs))
  | none => (s.roomL1 d).setL1 d p a (some { bytes := bs })

/-- Bring a line of this package or of the host into L1 from its home. -/
def State.fillL1 (s : State) (d : L1Dom) (p : Place) (a : Nat) : State :=
  match p with
  | .hbm | .tier2 | .host => s.bringL1 d p a (s.lineBytes (dieOf d.core) p a)
  | _ => s

/-- Something newer than the copy's clean bytes has been read or written: the copy serves them no more (13 R257). (DESIGN
CHOICE, log 83) -/
def State.passL1 (s : State) (d : L1Dom) (p : Place) (a n : Nat) : State :=
  match s.l1? d p a with
  | none => s
  | some x => s.setL1 d p a (some (x.pass (lineOffs a n)))

/-- Bytes kept for one access are clean or gone: the line stays while it holds anything. -/
def L1Line.rest? (x : L1Line) : Option L1Line := if x.valid = 0 then none else some x

/-- A load of class 3 ends the copy (02 R62, 13 R261), but for bytes not yet home. -/
def State.evictL1 (s : State) (d : L1Dom) (p : Place) (a : Nat) : State :=
  match s.l1? d p a with
  | none => s
  | some x => s.setL1 d p a (x.pass (List.range 128)).rest?

/-- A store enters the copy before it reaches home. -/
def State.dirtyL1 (s : State) (d : L1Dom) (p : Place) (a : Nat) (bs : List Byte) (id : Nat) : State :=
  match s.l1? d p a with
  | some x => s.setL1 d p a (some (x.store a bs id))
  | none => (s.roomL1 d).setL1 d p a (some (emptyLine.store a bs id))

/-- The bytes of an access are home: clean where the copy still has them from it, and passed where the copy has older ones. -/
def State.cleanL1 (s : State) (d : L1Dom) (p : Place) (a n : Nat) (id : Nat) : State :=
  match s.l1? d p a with
  | none => s
  | some x =>
    let offs := lineOffs a n
    let mine := offs.filter (fun o => x.dirty.contains (o, id))
    let x := { x with dirty := x.dirty.filter (fun y => !(y.2 = id && offs.contains y.1))
                      contested := x.contested.filter (fun o => !mine.contains o) }
    s.setL1 d p a (some (x.pass (offs.filter (fun o => !mine.contains o))))

/-- A write has come home: other copies of those bytes may be passed over for it (13 R258). -/
def L1Line.contest (x : L1Line) (a n id : Nat) : L1Line :=
  let offs := (lineOffs a n).filter (fun o => x.has o && !x.dirty.contains (o, id))
  { x with contested := x.contested ++ offs.filter (fun o => !x.contested.contains o) }

/-- Mark the copies of these bytes in every L1. -/
def State.contestL1 (s : State) (p : Place) (a n id : Nat) : State :=
  if p.cached then
    { s with cores := s.cores.map (fun c => (c.1, { c.2 with l1 := c.2.l1.map (fun l =>
        if keyIs l.1 p a then (l.1, l.2.contest a n id) else l) })) }
  else s

/-- The home of a line is on this package: an acquire at .CL or .DV discards its copies (12 R237). -/
def Place.homeHere : Place → Bool
  | .hbm | .tier2 => true
  | _ => false

/-- Discard the copies of a domain: all of them, or those whose home is on this package and, of the others, the bytes that a
write of this package has made old (12 R237, 13 R258).  Bytes not yet home stay. (DESIGN CHOICE, log 83) -/
def State.discardL1 (s : State) (d : L1Dom) (all : Bool) : State :=
  let k := s.core d.core
  s.setCore d.core { k with l1 := k.l1.filterMap (fun l =>
    if l.1 / 2 ^ 57 ≠ d.tag then some l
    else ((l.2.pass (if all || (keyPlace l.1).homeHere then List.range 128 else l.2.contested)).rest?).map (fun x => (l.1, x))) }

/-- An engine takes a line: it goes from every L1 of the package, stores on their way included (12 R244). -/
def State.recallLine (s : State) (p : Place) (a : Nat) : State :=
  if p.cached then
    let lost := s.cores.flatMap (fun c => (c.2.l1.filter (fun l => keyIs l.1 p a)).flatMap (fun l => l.2.dirty.map (·.2)))
    { s with
      cores := s.cores.map (fun c => (c.1, { c.2 with l1 := c.2.l1.filter (fun l => !keyIs l.1 p a) }))
      inflight := s.inflight.map (fun x => if lost.contains x.1 then (x.1, { x.2 with inL1 := false }) else x) }
  else s

/-! ### LLC copies of host lines (12 R237, 13 R256) -/

/-- A line of host memory is held in the LLC once it has been read or written. -/
def State.holdHostLine (s : State) (p : Place) (a : Nat) : State :=
  match p with
  | .host =>
    if (Store.find? s.hostLines (a / 128)).isSome then s
    else { s with hostLines := Store.insert s.hostLines (a / 128) { bytes := s.homeN .host (a / 128 * 128) 128 } }
  | _ => s

/-- A store to host memory stands in the LLC, for every core to read, before the host has it. -/
def State.enterLlc (s : State) (a : Nat) (bs : List Byte) (id : Nat) : State :=
  let s := s.holdHostLine .host a
  { s with hostLines := Store.update s.hostLines (a / 128) (fun x => x.store a bs id) }

/-- The host has the bytes of an access: the LLC's copy agrees with it there. -/
def State.leaveLlc (s : State) (p : Place) (a : Nat) (bs : List Byte) (id : Nat) : State :=
  match p with
  | .host =>
    { s with hostLines := Store.update s.hostLines (a / 128) (fun x =>
        let x := { x with dirty := x.dirty.filter (fun y => !(y.2 = id && (lineOffs a bs.length).contains y.1)) }
        { x with bytes := bs.zipIdx.foldl (fun (l : List Byte) b =>
            if x.isDirty ((a + b.2) % 128) then l else l.set ((a + b.2) % 128) b.1) x.bytes }) }
  | _ => s

/-! ### Writes at home -/

/-- A whole line written is poisoned no more; a part of a line whose tag fails poisons it (20 R368). -/
def State.settlePoison (s : State) (p : Place) (a n : Nat) : State :=
  if a % 128 = 0 && n = 128 then { s with poisoned := s.poisoned.filter (fun l => !(p == .hbm && l = a / 128)) }
  else s.checkLine p a

/-- A line about to be written goes under the key in force (20 R368). -/
def State.stampLine (s : State) (p : Place) (a n : Nat) : State :=
  let s := s.settlePoison p a n
  if p == .hbm then { s with lineGen := Store.set s.lineGen 0 (a / 128) (s.keyTag a) } else s

/-- A write that is no atomic ends the release sequences of the releases already home there (13 R253). -/
def State.untag (s : State) (p : Place) (a n id : Nat) : State :=
  if s.tags.isEmpty then s
  else
    { s with tags := s.tags.filter (fun t => !(t.place == p && t.addr < a + n && a < t.addr + t.size && t.id ≠ id
        && ((Store.find? s.inflight t.id).map (·.returned)).getD true)) }

/-- The other die keeps the old bytes of a replicated page until the write reaches it (12 R243). -/
def State.holdReplica (s : State) (p : Place) (a : Nat) (bs : List Byte) (id : Nat) : State :=
  let other := 1 - Config.lineDie (a / 128) % 2
  let w : ReplicaWrite := { die := other, place := p, addr := a, bytes := bs, id }
  let w := match Store.find? s.inflight id with
    | some x => { w with core := x.core, slot := x.slot, slice := x.slice, gen := x.gen
                         redm := match x.kind with | .redm _ _ => true | _ => false }
    | none => w
  { s with
    stale := (List.range bs.length).foldl (fun m i => Store.insert m (staleKey p (a + i) other) (s.peek other p (a + i))) s.stale
    replicaWrites := s.replicaWrites ++ [w] }

/-- A write within one line takes its moment at the home: key, poison, bytes, and the replica of a replicated page, which follows
at a moment of its own (12 R243). -/
def State.homeWriteLine (s : State) (p : Place) (a : Nat) (bs : List Byte) (rep : Bool) (id : Nat) : State :=
  let s := s.stampLine p a bs.length
  let s := if rep then s.holdReplica p a bs id else s
  ((s.pokeN p a bs).contestL1 p a bs.length id).leaveLlc p a bs id

/-- A write at the home, line by line. -/
def State.homeWriteAll (s : State) (p : Place) (rep : Bool) (id : Nat) : Nat → Nat → List Byte → State
  | 0, _, _ => s
  | fuel + 1, a, bs =>
    match bs with
    | [] => s
    | _ =>
      let n := 128 - a % 128
      State.homeWriteAll (s.homeWriteLine p a (bs.take n) rep id) p rep id fuel (a + n) (bs.drop n)

/-- The number of a write that no access in flight makes. -/
def noAccess : Nat := 2 ^ 64

/-- Write bytes at their home, for an access in flight or for another agent. (DEDUCED, log 46) -/
def State.homeWrite (s : State) (p : Place) (a : Nat) (bs : List Byte) (rep : Bool) (id : Nat) : State :=
  s.homeWriteAll p rep id (bs.length / 128 + 2) a bs

/-- A plain write at home of an agent other than an access in flight: it ends the release sequences there. -/
def State.homePut (s : State) (p : Place) (a : Nat) (bs : List Byte) (rep : Bool) : State :=
  (s.homeWrite p a bs rep noAccess).untag p a bs.length noAccess

/-- Bytes of a home read: a poisoned line's are free values (20 R368 gives none, log 28). -/
def State.homeRead (s : State) (die : Nat) (p : Place) (a n fresh : Nat) : List Byte :=
  if s.isPoisoned p a then (List.range n).map (fun i => BitVec.ofNat 8 (Config.pick (fresh + i)))
  else s.peekN die p a n

/-- The die of a location's primary home (12 R243). -/
def primaryDie (a : Nat) : Nat := Config.lineDie (a / 128) % 2

/-- A write reaches the replica on its die. -/
def State.applyReplica (s : State) (w : ReplicaWrite) : State :=
  let rest := s.replicaWrites.erase w
  let pending := fun (x : Nat) => rest.any (fun y => y.die = w.die && y.place == w.place && y.addr ≤ x && x < y.addr + y.bytes.length)
  { s.bumpDie w.die 8 1 with
    replicaWrites := rest
    stale := w.bytes.zipIdx.foldl (fun m b =>
      let x := w.addr + b.2
      if pending x then Store.insert m (staleKey w.place x w.die) b.1 else Store.erase m (staleKey w.place x w.die)) s.stale }

/-- The oldest write not yet at a die's replica reaches it. -/
def State.replicaStep (s : State) (die : Nat) : State :=
  match s.replicaWrites.find? (fun w => w.die = die) with
  | none => s
  | some w => s.applyReplica w

end Sys2Proof.Machine
end

