-- ==== Sys2Proof/Machine/Translate.lean ====
section
/-!
DEFINITION. Addresses (02 R60, R61, 12 R229 to R235): the table walk with its faults in order, the TLBs, scratch windows,
launch parameters, device addresses, and the parts of an access.
-/

namespace Sys2Proof.Machine

/-- Who translates and for what. -/
structure Asker where
  process : Nat
  user : Bool
  secure : Bool
  write : Bool := false
  /-- a fetch of a segment needs X -/
  fetch : Bool := false
  /-- a memory-side reduction needs HBM -/
  redm : Bool := false
  cluster : Nat := 0
  /-- a core's own access, which its TLB serves -/
  core : Option Nat := none
  fresh : Nat := 0

/-! ### Table entries (12 R233, R234) -/

def pteTarget (e : W64) : Nat := e.toNat / 2 ^ 60
def ptePeer (e : W64) : Nat := e.toNat / 2 ^ 56 % 16
def pteFrame (e : W64) : Nat := e.toNat % 2 ^ 52 / 4096 * 4096
def pteState (e : W64) : Nat := e.toNat / 2 ^ 10 % 4
def pteC (e : W64) : Bool := e.getLsbD 9
def pteR (e : W64) : Bool := e.getLsbD 8
def pteA (e : W64) : Bool := e.getLsbD 7
def pteX (e : W64) : Bool := e.getLsbD 6
def pteW (e : W64) : Bool := e.getLsbD 5
def pteU (e : W64) : Bool := e.getLsbD 4

/-- The index into the table of a level, and the bytes a leaf there maps. -/
def levelIndex (va level : Nat) : Nat := if level = 4 then va / 2 ^ 48 % 256 else va / 2 ^ (12 + 9 * level) % 512
def leafSize (level : Nat) : Nat := 2 ^ (12 + 9 * level)

/-- What every entry must satisfy whatever its level. -/
def pteReserved (e : W64) (level : Nat) : Bool :=
  e.toNat / 2 ^ 52 % 16 ≠ 0 || e.toNat % 16 ≠ 0 || 4 ≤ pteTarget e || (pteA e && !pteR e) || (pteC e && level ≠ 0)
    || (ptePeer e ≠ 0 && !(pteTarget e = 3 && 2 ≤ pteState e))

/-- A leaf's frame fits its size, and a group member its place in the group. -/
def leafMisplaced (e : W64) (va level : Nat) : Bool :=
  (!pteC e && pteFrame e % leafSize level ≠ 0) || (pteC e && pteFrame e / 4096 % 16 ≠ va / 4096 % 16)

/-- Where a leaf's target has its home. -/
def leafPlace (s : State) (e : W64) : Place :=
  match pteTarget e with
  | 0 => .hbm
  | 1 => .tier2
  | 2 => .host
  | _ => if ptePeer e = s.chip then .hbm else .peer (ptePeer e)

/-- A table entry, read at its home (12 R232). -/
def word64At (s : State) (p : Place) (a : Nat) : W64 := BitVec.ofNat 64 (ofLeBytes (s.homeN p a 8))

/-- The translation a leaf gives. -/
def leafXlat (s : State) (process : Nat) (e : W64) (va level : Nat) : Xlat :=
  let size := if pteC e then 65536 else leafSize level
  { process, page := va / size * size, size, place := leafPlace s e, frame := pteFrame e / size * size
    w := pteW e, u := pteU e, x := pteX e, r := pteR e, a := pteA e }

/-- The walk from a table of a level down (12 R232, R234): the leaf, or the fault's code.  In a 64 KiB group the choice
among its sixteen entries is free. (DEDUCED, log 46)  A frame beyond the memory that is fitted is translated like any other: no
row of the table faults it. (DESIGN CHOICE, log 74) -/
def walkFrom (s : State) (process va pick : Nat) : Nat → Nat → Except Byte Xlat
  | 0, table =>
    let e := word64At s .hbm (table + 8 * levelIndex va 0)
    if pteReserved e 0 || pteState e < 2 then .error 0x20
    else if leafMisplaced e va 0 then .error 0x20
    else if pteState e = 3 then .error 0x22
    else
      let i := levelIndex va 0 / 16 * 16 + pick % 16
      let e' := word64At s .hbm (table + 8 * i)
      let other := pteC e && pteState e' = 2 && pteC e' && !pteReserved e' 0
      .ok (leafXlat s process (if other then e' else e) va 0)
  | level + 1, table =>
    let e := word64At s .hbm (table + 8 * levelIndex va (level + 1))
    if pteReserved e (level + 1) then .error 0x20
    else if pteState e = 1 then
      if pteTarget e ≠ 0 then .error 0x20 else walkFrom s process va pick level (pteFrame e)
    else if pteState e = 2 && level + 1 < 3 && !leafMisplaced e va (level + 1) then
      .ok (leafXlat s process e va (level + 1))
    else .error 0x20

/-- The root that translates an address (12 R230). -/
def State.rootOf (s : State) (process : Nat) (va : Nat) : Nat :=
  if va.testBit 55 then s.systemRoot.toNat else ((s.process? process).map (·.root.toNat)).getD 0

/-- Bits [63:55] are all equal. -/
def canonical (va : Nat) : Bool := va / 2 ^ 55 % 512 = 0 || va / 2 ^ 55 % 512 = 511

/-- A walk, as the walker makes it. -/
def State.walk (s : State) (process va fresh : Nat) : Except Byte Xlat :=
  walkFrom s (halfOf process va) va (Config.pick fresh) 4 (s.rootOf process va)

/-- The translation in force: one the core's or the cluster's TLB holds, or what the tables say now; which, when both could answer, is
free, since an entry may be evicted at any time (12 R235, R236). -/
def State.xlat (s : State) (q : Asker) (va : Nat) : Except Byte Xlat :=
  let hit := fun (x : Xlat) => x.process = halfOf q.process va && x.page ≤ va && va < x.page + x.size
  let own := q.core.bind (fun c => (s.core c).tlb.find? hit)
  match (if own.isSome && Config.pick (q.fresh + 2) % 2 = 0 then own else (s.cluster q.cluster).tlb.find? hit) with
  | some x => if Config.pick (q.fresh + 1) % 2 = 0 then .ok x else s.walk q.process va q.fresh
  | none => s.walk q.process va q.fresh

/-- The window of device addresses that are never translated (27 R442). -/
def deviceBase : Nat := 0xFF80000000000000
def deviceSize : Nat := 0x1000000

/-- An access to a block at a device address. (DEDUCED, log 46) -/
def deviceFault (q : Asker) (off : Nat) : Option Byte :=
  if q.user then some 0x21
  else if off < 0x10000 then (if q.write || q.redm || q.fetch then some 0x21 else none)
  else if off < 0x10400 then (if q.redm || q.fetch then some 0x21 else if q.secure then none else some 0x23)
  else if 0x20000 ≤ off && off < 0x20040 then
    (if q.write || q.redm || q.fetch then some 0x21 else if q.secure then none else some 0x23)
  else some 0x20

/-- Where a global address has its home, or the fault's code (12 R230, R234, 10 R206): the home, the address there and
whether writes reach a replica at a moment of their own; the translation it used. -/
def State.resolve (s : State) (q : Asker) (va : Nat) : Except Byte (Place × Nat × Bool × Option Xlat) :=
  if !canonical va then .error 0x20
  else if deviceBase ≤ va && va < deviceBase + deviceSize then
    match deviceFault q (va - deviceBase) with
    | some c => .error c
    | none => .ok (.device, va - deviceBase, false, none)
  else
    match s.xlat q va with
    | .error c => .error c
    | .ok x =>
      let a := x.frame + (va - x.page)
      if (q.user && (!x.u || va.testBit 55)) || (q.write && !x.w) || (q.fetch && !x.x) then .error 0x21
      else if q.redm && !(match x.place with | .hbm | .peer _ => true | _ => false) then .error 0x21
      else if !s.worldOk q.secure x.place a then .error 0x23
      else .ok (x.place, a, x.r && !x.a, some x)

/-- The cluster's TLB keeps a successful translation; it holds 16,384 (12 R235). -/
def State.fillTlb (s : State) (cluster : Nat) (x : Xlat) : State :=
  let k := s.cluster cluster
  if k.tlb.contains x then s else s.setCluster cluster { k with tlb := (x :: k.tlb).take 16384 }

/-- A core's TLB keeps it too, 1,024 of them (12 R235). -/
def State.fillCoreTlb (s : State) (core : Nat) (x : Xlat) : State :=
  let k := s.core core
  (if k.tlb.contains x then s else s.setCore core { k with tlb := (x :: k.tlb).take 1024 }).fillTlb (core / 32) x

/-- Misses the walker holds at once (12 R235). -/
def walkerPlaces : Nat := 4096

/-- Different pages that the walker is asked for: misses to one page are one walk (12 R235). -/
def State.walksHeld (s : State) (cluster : Nat) : Nat :=
  (((s.cluster cluster).walks.map (fun k => (halfOf k.process k.va.toNat, k.va.toNat / 4096))).eraseDups).length

/-- No TLB holds the page of an address, and the walker has no room for its miss: the access waits at the core (12 R235). -/
def State.walkerFull (s : State) (core process va : Nat) : Bool :=
  let hit := fun (x : Xlat) => x.process = halfOf process va && x.page ≤ va && va < x.page + x.size
  walkerPlaces ≤ s.walksHeld (core / 32) && !(s.core core).tlb.any hit && !(s.cluster (core / 32)).tlb.any hit
    && (s.cluster (core / 32)).walks.all (fun k => halfOf k.process k.va.toNat ≠ halfOf process va || k.va.toNat / 4096 ≠ va / 4096)

/-! ### Scratch (12 R231) -/

/-- The base and size of the window of scratch that core c of the cluster holds for a team, if the team may access it. -/
def State.scratchWindow (s : State) (teamId c : Nat) : Option (Nat × Nat) :=
  match Store.find? s.teams teamId with
  | none => none
  | some t =>
    if c = t.core then some (t.base, t.size)
    else if t.pair && c = t.core + 1 then some (t.base2, t.size)
    else
      match Store.find? s.launches t.launch with
      | none => none
      | some l =>
        if l.cscratch && c / 32 = t.core / 32 then
          s.teams.findSome? (fun u =>
            if u.2.launch ≠ t.launch then none
            else if c = u.2.core then some (u.2.base, u.2.size)
            else if u.2.pair && c = u.2.core + 1 then some (u.2.base2, u.2.size)
            else none)
        else none

/-- A byte of the range belongs to a ring or a job (21 R377, R381, R385). -/
def State.removedAt (s : State) (c a n : Nat) : Bool :=
  s.teams.any (fun t => t.2.removed.any (fun r => r.1 = c && r.2.1 < a + n && a < r.2.1 + r.2.2))

/-- Resolve a scratch range of a team whose waves stand in a cluster: the core and the byte there. -/
def State.scratch (s : State) (teamId cluster va n : Nat) : Except Byte (Place × Nat) :=
  if 2 ^ 24 ≤ va then .error 0x08
  else
    let c := cluster * 32 + va / 2 ^ 19
    let o := va % 2 ^ 19
    match s.scratchWindow teamId c with
    | none => .error 0x08
    | some (base, size) => if o + n ≤ size && !s.removedAt c (base + o) n then .ok (.scratch c, base + o) else .error 0x08

/-! ### Parts of an access (02 R61) -/

/-- The byte ranges of n bytes at va: one when naturally aligned, else split at 8-byte boundaries. -/
def splitAccess (va n : Nat) : List (Nat × Nat) :=
  if va % n = 0 then [(va, n)]
  else
    let first := min n (8 - va % 8)
    if first = n then [(va, n)] else [(va, first), ((va + first) % 2 ^ 64, n - first)]

/-- Collect the parts, or the first fault. -/
def collect {α β : Type} (f : α → Except Byte β) : List α → Except Byte (List β)
  | [] => .ok []
  | x :: xs =>
    match f x with
    | .error c => .error c
    | .ok y =>
      match collect f xs with
      | .error c => .error c
      | .ok ys => .ok (y :: ys)

/-- The parts of one lane's global access, with the translations used. -/
def State.globalParts (s : State) (q : Asker) (lane va n : Nat) : Except Byte (List (Part × Option Xlat)) :=
  collect (fun r =>
    match s.resolve q r.1 with
    | .error c => .error c
    | .ok (place, addr, rep, x) => .ok ({ lane, place, addr, size := r.2, va := r.1, rep }, x)) (splitAccess va n)

/-- The parts of one lane's scratch access. -/
def State.scratchParts (s : State) (team cluster lane va n : Nat) : Except Byte (List (Part × Option Xlat)) :=
  match s.scratch team cluster va n with
  | .error c => .error c
  | .ok (place, addr) =>
    .ok ((splitAccess va n).map (fun r => ({ lane, place, addr := addr + (r.1 - va), size := r.2, va := r.1 }, none)))

/-! ### Records in memory, as blocks read and write them -/

/-- A range of n bytes cut at 4 KiB boundaries. -/
def pageRanges : Nat → Nat → Nat → List (Nat × Nat)
  | 0, _, _ => []
  | fuel + 1, va, n =>
    if n = 0 then []
    else
      let first := min n (4096 - va % 4096)
      (va, first) :: pageRanges fuel ((va + first) % 2 ^ 64) (n - first)

/-- The lines a range of n bytes touches, by their first addresses. -/
def linesOf (a n : Nat) : List Nat := (List.range ((a % 128 + n + 127) / 128)).map (fun i => a / 128 * 128 + 128 * i)

/-- A range of n bytes cut at lines. -/
def lineRanges (a n : Nat) : List (Nat × Nat) :=
  (linesOf a n).map (fun l => (max a l, min (a + n) (l + 128) - max a l))

/-- Where a range has its homes, page by page, with their sizes; the first fault decides. -/
def State.resolveRange (s : State) (q : Asker) (va n : Nat) : Except Byte (List (Place × Nat × Bool × Nat)) :=
  collect (fun r =>
    match s.resolve q r.1 with
    | .error c => .error c
    | .ok (p, a, rep, _) => .ok (p, a, rep, r.2)) (pageRanges (n / 4096 + 2) va n)

/-- Bytes a block outside the cores reads at their home; no rule says how it reads a peer's, so those are free (log 31). -/
def State.blockBytes (s : State) (die fresh : Nat) (p : Place) (a n : Nat) : List Byte :=
  match p with
  | .peer _ => (List.range n).map (fun i => BitVec.ofNat 8 (Config.pick (fresh + i)))
  | _ => s.homeRead die p a n fresh

/-- Read n bytes of a process's memory at their homes. -/
def State.readVirtual (s : State) (q : Asker) (va n : Nat) : Except Byte (List Byte) :=
  match s.resolveRange q va n with
  | .error c => .error c
  | .ok rs => .ok (rs.flatMap (fun r => s.blockBytes (dieOf (32 * q.cluster)) (q.fresh + 20000) r.1 r.2.1 r.2.2.2))

/-- Write the bytes over resolved ranges, in order. -/
def State.writeRanges (s : State) : List (Place × Nat × Bool × Nat) → List Byte → State
  | [], _ => s
  | r :: rs, bs => State.writeRanges (s.homePut r.1 r.2.1 (bs.take r.2.2.2) r.2.2.1) rs (bs.drop r.2.2.2)

/-- Write bytes to a process's memory at their homes, or fault with nothing written. -/
def State.writeVirtual (s : State) (q : Asker) (va : Nat) (bs : List Byte) : Except Byte State :=
  match s.resolveRange { q with write := true } va bs.length with
  | .error c => .error c
  | .ok rs => .ok (s.writeRanges rs bs)

/-- Read n bytes of a team's scratch. -/
def State.readScratch (s : State) (team cluster va n : Nat) : Except Byte (List Byte) :=
  match s.scratch team cluster va n with
  | .error c => .error c
  | .ok (p, a) => .ok (s.peekN 0 p a n)

/-- Write bytes of a team's scratch. -/
def State.writeScratch (s : State) (team cluster va : Nat) (bs : List Byte) : Except Byte State :=
  match s.scratch team cluster va bs.length with
  | .error c => .error c
  | .ok (p, a) => .ok ((s.pokeN p a bs).untag p a bs.length noAccess)

/-- The asker a wave is. (DEDUCED, log 62) -/
def State.asker (s : State) (x : Wave) (core : Nat) (write : Bool) : Asker :=
  { process := x.process, user := !((s.process? x.process).map (·.supervisor)).getD false, secure := s.secureWave x
    write, cluster := core / 32, core := some core, fresh := s.fresh + 4096 }

end Sys2Proof.Machine
end

