-- ==== Sys2Proof/Machine/Access.lean ====
section
/-!
DEFINITION. Accesses in flight (02 R59 to R64, 13 R250 to R263): how an instruction acts slice by slice, what a load or
store issues, when it takes its moment, what returns, and how the counters fall in issue order.
-/

namespace Sys2Proof.Machine

/-! ### Acting slice by slice -/

/-- What one slice does at an instruction that acts beyond its registers. -/
inductive Act where
  | stall (on : Option Outstanding)
  | wait (w : Wait)
  | trap (t : Trap)
  /-- a deferred fabric error is delivered first (09 R186) -/
  | deferred
  | go (f : State → State)

def Act.isStall : Act → Bool
  | .stall _ => true
  | _ => false
def Act.stall? : Act → Option (Option Outstanding)
  | .stall o => some o
  | _ => none
def Act.wait? : Act → Option Wait
  | .wait w => some w
  | _ => none

/-- The context of a slice of the issuing gang. -/
def State.ctx (s : State) (x : Wave) (k : Nat) : Ctx :=
  { core := s.core s.now.core, slot := s.now.slot, wave := x, k, fresh := s.fresh, gang := s.now.slices }

def commitAct (s : State) (k : Nat) (a : Act) : State :=
  match a with
  | .stall _ => s
  | .wait w => s.setWait k w
  | .trap t => s.trapNow k t
  | .deferred => s.deliverDeferred s.now.core s.now.slot k
  | .go f => f s

/-- Issue for the gang: nothing while a member's register has not landed, else every member acts, ascending. -/
def issueActs (plan : State → Ctx → Slice → Act) (s : State) : State :=
  match s.wave? s.now.core s.now.slot with
  | none => s
  | some x =>
    let acts := s.now.slices.map (fun k => (k, plan s (s.ctx x k) (x.slice k)))
    if acts.any (fun a => a.2.isStall) then s.stallOn (acts.map (fun a => (a.1, a.2.stall?)))
    else if waitTogether (acts.map (fun a => (a.1, a.2.wait?))) then s.waitAll (acts.map (fun a => (a.1, a.2.wait?)))
    else acts.foldl (fun s a => commitAct s a.1 a.2) s

/-- Change the issuing slice k. -/
def State.modNow (s : State) (k : Nat) (f : Slice → Slice) : State := s.modSlice s.now.core s.now.slot k f
def State.modNowWave (s : State) (f : Wave → Wave) : State := s.modWave s.now.core s.now.slot f

/-- The instruction has issued in slice k: marks, windows and the pc move on. -/
def State.advance (s : State) (sh : Shape) (lanes : List Nat) (k : Nat) : State :=
  let shared := fun (l : Loc) => match l with
    | .v n _ => ((s.core s.now.core).sharedAt s.now.slot n).isSome
    | .s _ => false
  s.modNow k (fun sl =>
    let fresh := (sh.markLocs lanes).filter (fun l => !sl.marks.contains l && !shared l)
    { { sl with marks := sl.marks ++ fresh }.tickWindows with pc := sl.pc.next, wait := none })

/-- The checks every operand list takes before anything else: register bounds, values that have not landed, and, for a
region edge, every earlier write landed and every deferred error delivered (02 R44, 09 R178, R186). -/
def operandCheck (sh : Shape) (edge : Bool) (x : Ctx) (sl : Slice) (lanes : List Nat) : Option Act :=
  match planChecks [{ sh, f := fun _ => {} }] x sl with
  | some t => some (.trap t)
  | none =>
    if sl.blocked (sh.locs lanes) || (edge && !sl.out.isEmpty) then some (.stall (sl.awaited (sh.locs lanes) edge))
    else if edge && x.core.uncommitted x.slot x.k then some (.wait .commit)
    else if edge && !sl.deferred.isEmpty then some .deferred
    else none

/-- Shared registers take the uses of an instruction. -/
def State.shareNow (s : State) (uses : List (Nat × Nat × ShareUse)) : State :=
  if uses.isEmpty || (s.core s.now.core).shared.isEmpty then s
  else match (s.core s.now.core).shareAll s.now.slot uses with
    | some c => s.setCore s.now.core c
    | none => s

/-- The slice's lanes that an instruction works on; one for the slice when it is slice-wise. -/
def workLanes (sl : Slice) (g : Option Guard) (once : Bool) : List Nat :=
  let l := lanesOf (sl.exec g)
  if once then l.take 1 else l

def lanesMask (ls : List Nat) : Mask4 := ls.foldl (fun m l => m ||| laneBit l) 0

/-! ### The policy operand (02 R62) -/

def polOrder (p : W32) : Nat := p.toNat % 8
def polScope (p : W32) : Nat := p.toNat / 8 % 8
def polClass (p : W32) : Nat := p.toNat / 64 % 4
def polThreshold (p : W32) : Nat := p.toNat / 256 % 512

/-- The operand raises 0x03 for a load or a store. -/
def polBad (p : W32) (load : Bool) : Bool :=
  2 ^ 17 ≤ p.toNat || 256 < polThreshold p || 6 ≤ polScope p || 3 ≤ polOrder p
    || (if load then polOrder p = 2 else polOrder p = 1)

def scopeOf : Nat → Scope
  | 0 => .wv | 1 => .tm | 2 => .cl | 3 => .dv | 4 => .cq | _ => .sy
def Scope.rank : Sys2Proof.Scope → Nat
  | .wv => 0 | .tm => 1 | .cl => 2 | .dv => 3 | .cq => 4 | .sy => 5

/-- The hash of a line's address. -/
def lineHash (va : Nat) : Nat := (List.range 7).foldl (fun h k => h ^^^ (va / 2 ^ (7 + 8 * k) % 256)) 0
/-- The class the line takes under a policy operand. -/
def lineClass (p : W32) (va : Nat) : Nat := if lineHash (va % 2 ^ 56) < polThreshold p then polClass p else 0

/-! ### Peers (20 R362, R366, R367) -/

def streamKey (dst vc : Nat) : Nat := dst * 8 + vc

/-- An entry covers a request (20 R366). -/
def AccessEntry.covers (e : AccessEntry) (chip proc addr size : Nat) (write : Bool) : Bool :=
  (e.kind = 1 || e.kind = 2) && e.srcchip = chip && ((e.kind = 2 && e.anyproc) || e.srcproc = proc)
    && e.base * 4096 ≤ addr && addr + size ≤ (e.base + e.pages + 1) * 4096 && (if write then e.write else e.read)

/-- The check of a request to a peer at this package's egress, against the replica of its table. -/
def State.egressAllows (s : State) (dst src proc addr size : Nat) (write : Bool) : Bool :=
  ((Store.find? s.replicas dst).getD []).any (fun e => AccessEntry.covers e src proc addr size write)

/-- The check of this package's own request. -/
def State.egressOk (s : State) (dst proc addr size : Nat) (write : Bool) : Bool := s.egressAllows dst s.chip proc addr size write

/-- Put a request on its stream. -/
def State.sendPacket (s : State) (dst vc : Nat) (access : Option Nat) (part : Nat) (body : PacketBody) : State :=
  let key := streamKey dst vc
  let seq := Store.get s.outSeq 0 key
  { s with
    outSeq := Store.set s.outSeq 0 key ((seq + 1) % 2 ^ 32)
    sent := s.sent ++ [{ dst, vc, seq, attempts := 1, access, part, body, since := s.time }] }

/-! ### Reaching the slice an access belongs to, resident or parked (09 R192, R194) -/

def State.gen (s : State) (core slot : Nat) : BitVec 8 := Store.get (s.core core).gens 0 slot

/-- Change the slice that an access of this generation belongs to. -/
def State.modOwner (s : State) (core slot : Nat) (gen : BitVec 8) (k : Nat) (f : Slice → Slice) : State :=
  if s.gen core slot = gen then s.modSlice core slot k f
  else
    let c := s.core core
    s.setCore core { c with parked := c.parked.map (fun p =>
      if p.2.slot = slot ∧ p.2.gen = gen then
        (p.1, { p.2 with wave := match Store.find? p.2.wave.slices k with
          | some sl => p.2.wave.setSlice k (f sl)
          | none => p.2.wave })
      else p) }

/-! ### Sources of order (13 R251 to R258) -/

/-- The accesses of a slice that have not returned. (DEDUCED, log 44) -/
def State.pendingOf (s : State) (core slot k : Nat) (gen : BitVec 8) : List (Nat × Access) :=
  s.inflight.filter (fun a => a.2.core = core && a.2.slot = slot && a.2.slice = k && a.2.gen = gen && !a.2.returned && !a.2.cancelled)

def Flight.isRead : Flight → Bool
  | .load _ _ _ _ _ | .atom _ _ _ _ => true
  | _ => false
def Flight.isWrite : Flight → Bool
  | .store | .atom _ _ _ _ => true
  | _ => false
def Flight.isRedm : Flight → Bool
  | .redm _ _ => true
  | _ => false

def Part.overlaps (p q : Part) : Bool := p.place == q.place && p.addr < q.addr + q.size && q.addr < p.addr + p.size
def overlap (ps qs : List Part) : Bool := ps.any (fun p => qs.any (fun q => p.overlaps q))
def ReplicaWrite.overlaps (w : ReplicaWrite) (p : Part) : Bool :=
  w.place == p.place && p.addr < w.addr + w.bytes.length && w.addr < p.addr + p.size

def Place.isPeer : Place → Bool
  | .peer _ => true
  | _ => false

/-- A part of the access that takes in bytes of p has not taken its moment. -/
def Access.holds (b : Access) (p : Part) : Bool := !b.returned && b.parts.any (fun q => q.got.isNone && q.overlaps p)

/-- A write is still on its way to a home or a replica. -/
def State.onWay (s : State) (id : Nat) : Bool :=
  ((Store.find? s.inflight id).map (fun a => !a.returned && a.kind.isWrite)).getD false || s.replicaWrites.any (fun w => w.id = id)

def Known.live (s : State) (k : Known) : Known :=
  { past := k.past.filter s.onWay, seen := k.seen.filter s.onWay, ordered := k.ordered.filter s.onWay }
/-- Writes that a read may not return anything older than (13 R258), and those that a write comes after (13 R255). -/
def Known.reads (k : Known) : List Nat := k.past ++ k.seen
def Known.writes (k : Known) : List Nat := k.past ++ k.seen ++ k.ordered
def Known.join (a b : Known) : Known :=
  { past := (a.past ++ b.past).eraseDups, seen := (a.seen ++ b.seen).eraseDups, ordered := (a.ordered ++ b.ordered).eraseDups }
def Known.isEmpty (k : Known) : Bool := k.past.isEmpty && k.seen.isEmpty && k.ordered.isEmpty

/-- One of these writes has not reached bytes of p, as the agents of a die see them. -/
def State.behind (s : State) (die : Nat) (ids : List Nat) (p : Part) : Bool :=
  ids.any (fun i => ((Store.find? s.inflight i).map (fun b => b.kind.isWrite && b.holds p)).getD false
    || s.replicaWrites.any (fun w => w.id = i && w.die = die && w.overlaps p))

/-- What the slice of a wave knows. -/
def State.knowsOf (s : State) (core slot k : Nat) : Known := (((s.slice? core slot k).map (fun (sl : Slice) => sl.knows)).getD {}).live s

/-- A replica's write that the slice made itself. -/
def ReplicaWrite.of (w : ReplicaWrite) (core slot k : Nat) (gen : BitVec 8) : Bool :=
  w.core = core && w.slot = slot && w.slice = k && w.gen = gen

/-- What a release of the slice hands on: its own writes on their way and those before them, and those whose values it has
read (13 R253 to R255). -/
def State.handsOn (s : State) (core slot k : Nat) : Known :=
  let gen := s.gen core slot
  let own := ((s.pendingOf core slot k gen).filter (fun a => a.2.kind.isWrite)).map (·.1)
    ++ (s.replicaWrites.filter (fun w => w.of core slot k gen && !w.redm)).map (·.id)
  let kn := s.knowsOf core slot k
  { past := (own ++ kn.past).eraseDups, ordered := (kn.seen ++ kn.ordered).eraseDups }

/-- The team a slice's releases name; a supervisor wave has none. -/
def Wave.teamName (x : Wave) : Option Nat := if x.supervisor then none else some x.team

/-- The scope holds both the releasing slice and a slice of this wave (13 R249). -/
def Tag.within (t : Tag) (scope : Sys2Proof.Scope) (core slot : Nat) (x : Wave) : Bool :=
  match scope with
  | .wv => t.core = core && t.slot = slot
  | .tm => (t.core = core && t.slot = slot) || (t.team.isSome && t.team = x.teamName)
  | .cl => t.core / 32 = core / 32
  | .dv | .cq | .sy => true
def Tag.reaches (t : Tag) (scope : Sys2Proof.Scope) (core slot : Nat) (x : Wave) : Bool :=
  t.within t.scope core slot x && t.within scope core slot x

/-- Put a release on these bytes, carried by the write id; one that hands on nothing is not kept. (DESIGN CHOICE, log 76) -/
def State.tagRelease (s : State) (core slot : Nat) (scope : Sys2Proof.Scope) (place : Place) (addr size id : Nat) (known : Known) : State :=
  if known.isEmpty then s
  else
    match s.wave? core slot with
    | none => s
    | some x =>
      { s with tags := s.tags.filter (fun t => !(t.known.live s).isEmpty)
          ++ [{ place, addr, size, scope, core, slot, team := x.teamName, id, known }] }

/-- A write of the slice over parts: a release at a scope of its own, and one at that of each release fence before it. -/
def State.tagWrite (s : State) (core slot k : Nat) (scope : Option Sys2Proof.Scope) (ps : List Part) (id : Nat) : State :=
  let fenced := ((s.slice? core slot k).map (·.fenced)).getD []
  if scope.isNone && fenced.isEmpty then s
  else
    let known := s.handsOn core slot k
    ps.foldl (fun (s : State) p =>
      let s := match scope with
        | some c => s.tagRelease core slot c p.place p.addr p.size id known
        | none => s
      fenced.foldl (fun (s : State) t => s.tagRelease core slot t.scope p.place p.addr p.size id (t.known.live s)) s) s

/-- The releases a read of these bytes meets: those whose write has come home, or stands in an L1. (DESIGN CHOICE, log 76) -/
def State.metTags (s : State) (place : Place) (addr size : Nat) : List Tag :=
  s.tags.filter (fun t => t.place == place && t.addr < addr + size && addr < t.addr + t.size
    && ((Store.find? s.inflight t.id).map (fun a => a.returned || a.inL1 || a.parts.all (fun q => q.got.isSome))).getD true)

/-- A slice takes what these releases hand on, as an acquire at a scope. -/
def State.takeTags (s : State) (core slot k : Nat) (scope : Sys2Proof.Scope) (ts : List Tag) : State :=
  match s.wave? core slot with
  | none => s
  | some x => (ts.filter (fun t => t.reaches scope core slot x)).foldl (fun (s : State) t =>
      s.modSlice core slot k (fun sl => { sl with knows := (sl.knows.join t.known).live s })) s

/-- A read of these bytes by a slice: an acquire at a scope takes what the releases there hand on; another read leaves that to
a fence (13 R253). -/
def State.meet (s : State) (core slot : Nat) (gen : BitVec 8) (k : Nat) (scope : Option Sys2Proof.Scope) (place : Place) (addr size : Nat) :
    State :=
  if s.tags.isEmpty || s.gen core slot ≠ gen then s
  else
    let ts := s.metTags place addr size
    match scope with
    | some c => s.takeTags core slot k c ts
    | none => s.modSlice core slot k (fun sl => { sl with
        met := (sl.met ++ ts).eraseDups.filter (fun t => !(t.known.live s).isEmpty) })

/-- FENCE.ACQ at a scope: the releases that earlier reads met. -/
def State.acquireMet (s : State) (core slot k : Nat) (scope : Sys2Proof.Scope) : State :=
  s.takeTags core slot k scope (((s.slice? core slot k).map (·.met)).getD [])

/-- FENCE.REL at a scope: later writes of the slice are releases of what it hands on now. -/
def State.releaseMet (s : State) (core slot k : Nat) (scope : Sys2Proof.Scope) : State :=
  match s.wave? core slot with
  | none => s
  | some x =>
    let known := s.handsOn core slot k
    s.modSlice core slot k (fun sl => { sl with
      fenced := sl.fenced.filter (fun t => !(t.known.live s).isEmpty)
        ++ (if known.isEmpty then [] else [{ place := .device, addr := 0, size := 0, scope, core, slot, team := x.teamName
                                             id := noAccess, known }]) })

/-- The team of a wave is one core's. -/
def State.oneCoreTeam (s : State) (x : Wave) : Bool := ((Store.find? s.teams x.team).map (fun t => !t.pair)).getD true

/-- A write counts as performed at the point of a scope (12 R237): at the core once it stands in its L1 copy, else at the
home. -/
def State.pushed (s : State) (x : Wave) (dom : L1Dom) (scope : Sys2Proof.Scope) (a : Access) : Bool :=
  if Scope.rank scope = 0 then true
  else if Scope.rank scope = 1 && s.oneCoreTeam x then a.inL1 && a.dom = dom
  else false

/-- A release or fence awaits this access. -/
def State.fenceAwaits (s : State) (x : Wave) (dom : L1Dom) (n : FenceNeed) (a : Access) : Bool :=
  (n.loads && a.kind.isRead) || (n.stores && a.kind.isWrite && !s.pushed x dom n.scope a) || (n.redm && a.kind.isRedm)

/-- A copy of a replicated page that a release at a scope must see updated: both at .DV or wider, else that of its own die
(12 R243, 13 R266). -/
def replicaNeeded (scope : Sys2Proof.Scope) (oneCore : Bool) (redm : Bool) (die : Nat) (w : ReplicaWrite) : Bool :=
  if 3 ≤ Scope.rank scope then true
  else w.die = die && (redm || 2 ≤ Scope.rank scope || (Scope.rank scope = 1 && !oneCore))

/-- Nothing a release or fence awaits is left: the slice's own accesses, and for a release the writes that happen before it
(10 R207, R208, 13 R251, R254). -/
def State.drained (s : State) (core slot k : Nat) (n : FenceNeed) : Bool :=
  match s.wave? core slot with
  | none => true
  | some x =>
    let gen := s.gen core slot
    let dom := s.l1Dom core slot
    let past := (s.knowsOf core slot k).past
    (s.pendingOf core slot k gen).all (fun a => !s.fenceAwaits x dom n a.2)
    && (!n.stores || past.all (fun i => ((Store.find? s.inflight i).map (fun a => a.returned || s.pushed x dom n.scope a)).getD true))
    && (!n.stores || s.replicaWrites.all (fun w => !(replicaNeeded n.scope (s.oneCoreTeam x) n.redm (dieOf core) w
        && ((w.of core slot k gen && (n.redm || !w.redm)) || past.contains w.id))))

/-- The earlier acquire load, wide atomic or PRECV that a later access waits for (02 R63, 10 R204, 17 R313). -/
def State.acquireAhead (s : State) (core slot k : Nat) : Option Nat :=
  match (s.slice? core slot k).bind (fun (sl : Slice) => sl.kret) with
  | some { task := .receive _, id, .. } => some id
  | _ => ((s.pendingOf core slot k (s.gen core slot)).find? (fun a =>
    match a.2.kind with
    | .load _ _ _ _ (some _) => true
    | .atom (some _) _ _ scope => scope ≠ .wv
    | _ => false)).map (·.1)

/-- Answers on their way to a domain fill no copy any more: something newer has been read, written or acquired (13 R258). -/
def State.noFillFrom (s : State) (d : L1Dom) (line : Option (Place × Nat)) : State :=
  { s with inflight := s.inflight.map (fun x =>
      if x.2.dom = d && x.2.kind.isRead && x.2.parts.any (fun p => p.place.isPeer && line.all (fun l => l.1 == p.place && l.2 / 128 = p.addr / 128))
      then (x.1, { x.2 with noFill := true }) else x) }

/-- Discard the copies an acquire discards in one domain (12 R237). -/
def State.acquireIn (s : State) (d : L1Dom) (all : Bool) : State :=
  let s := s.discardL1 d all
  if all then s.noFillFrom d none else s

/-- The copies an acquire at a scope discards for a wave whose L1 is d and whose team has these cores (12 R237). -/
def State.acquireDom (s : State) (d : L1Dom) (pair : Option Nat) (scope : Sys2Proof.Scope) : State :=
  match scope with
  | .wv => s
  | .tm => match pair with
    | some c => if d.tag = 0 then (s.acquireIn { d with core := c } true).acquireIn { d with core := c + 1 } true else s.acquireIn d true
    | none => s
  | .cl | .dv => s.acquireIn d false
  | .cq | .sy => s.acquireIn d true

/-- The first core of a wave's team, when it stands on a pair. -/
def State.pairOf (s : State) (x : Wave) : Option Nat :=
  (Store.find? s.teams x.team).bind (fun t => if t.pair && !x.supervisor then some t.core else none)

/-- The copies an acquire of a resident wave discards. -/
def State.acquire (s : State) (core slot : Nat) (scope : Sys2Proof.Scope) : State :=
  s.acquireDom (s.l1Dom core slot) ((s.wave? core slot).bind s.pairOf) scope

/-- The wave that an access belongs to, resident or parked. -/
def State.ownerWave? (s : State) (a : Access) : Option Wave :=
  if s.gen a.core a.slot = a.gen then s.wave? a.core a.slot
  else (List.find? (fun (p : Nat × Parked) => p.2.slot = a.slot && p.2.gen = a.gen) (s.core a.core).parked).map (fun p => p.2.wave)

/-- An access acquires at its return: in the L1 its wave had when it issued, wherever the wave is now (10 R204). -/
def State.acquireFor (s : State) (a : Access) (scope : Sys2Proof.Scope) : State :=
  s.acquireDom a.dom ((s.ownerWave? a).bind s.pairOf) scope

/-! ### Values that return -/

/-- A returned value lands in a register that still awaits it. -/
def Slice.land (sl : Slice) (id : Nat) (loc : Loc) (x : W32) : Slice :=
  if sl.out.any (fun o => o.loc = loc ∧ o.id = id) then
    { { sl with out := sl.out.filter (fun o => !(o.loc = loc ∧ o.id = id))
                marks := sl.marks.filter (· ≠ loc), dead := sl.dead.filter (· ≠ loc) } with }.setRaw loc x
  else sl

/-- A returned value lands in a shared register. -/
def Core.setShareVal (k : Core) (slot n l : Nat) (x : W32) : Core :=
  match k.sharedAt slot n with
  | none => k
  | some (i, off) =>
    match k.shared[i]? with
    | none => k
    | some h => { k with shared := k.shared.set i { h with vals := Store.set h.vals 0 (64 * off + l) x } }

/-- The slice still awaits a value of an access in a register. -/
def State.awaitsLoc (s : State) (a : Access) (id : Nat) (loc : Loc) : Bool :=
  ((s.slice? a.core a.slot a.slice).map (fun sl => sl.out.any (fun o => o.loc = loc ∧ o.id = id))).getD false

/-- Land the writes of an access in its slice. -/
def State.landAll (s : State) (a : Access) (id : Nat) (ws : List (Loc × W32)) : State :=
  let here := s.gen a.core a.slot = a.gen
  let shared := if here then ws.filter (fun w => s.awaitsLoc a id w.1) else []
  let s := s.modOwner a.core a.slot a.gen a.slice (fun sl => ws.foldl (fun sl w => sl.land id w.1 w.2) sl)
  if shared.isEmpty || (s.core a.core).shared.isEmpty then s
  else s.setCore a.core (shared.foldl (fun (k : Core) w => match w.1 with
      | .v n l => k.setShareVal a.slot n (4 * a.slice + l) w.2
      | .s _ => k) (s.core a.core))

/-! ### Counters fall in issue order (02 R64) -/

/-- The accesses counted on a path of a wave, in issue order. -/
def State.counted (s : State) (core slot : Nat) (gen : BitVec 8) (path : Nat) : List (Nat × Access) :=
  s.inflight.filter (fun a => a.2.core = core && a.2.slot = slot && a.2.gen = gen && a.2.path = some path)

/-- Let the counter fall for every leading access that has returned. -/
def State.settlePath (s : State) (core slot : Nat) (gen : BitVec 8) (path : Nat) : State :=
  let done := (s.counted core slot gen path).takeWhile (fun a => a.2.returned)
  let s := { s with inflight := s.inflight.filter (fun a => !done.any (fun d => d.1 = a.1)) }
  if s.gen core slot = gen then s.modWave core slot (fun x => done.foldl (fun (x : Wave) _ => x.dropCounter path) x) else s

/-- The access has returned. -/
def State.finish (s : State) (id : Nat) (a : Access) : State :=
  match a.path with
  | none => { s with inflight := Store.erase s.inflight id }
  | some p => { s with inflight := Store.insert s.inflight id { a with returned := true } }.settlePath a.core a.slot a.gen p

/-- Put an access in flight under the next number, counting it, with the L1 its wave has and what its slice knows. -/
def State.launchAccess (s : State) (a : Access) : State :=
  let a := if a.slot < 64 then { a with dom := s.l1Dom a.core a.slot, after := s.knowsOf a.core a.slot a.slice } else a
  let s := { s with inflight := Store.insert s.inflight s.serial a, serial := s.serial + 1 }
  match a.path with
  | some p => s.modWave a.core a.slot (fun x => x.bumpCounter p)
  | none => s

/-- Slices of the gang, from this one on, that issue with a lane to act in. -/
def Ctx.issuers (x : Ctx) (g : Option Guard) : Nat := (x.gang.filter (fun k => x.k ≤ k && (x.wave.slice k).exec g ≠ 0)).length

/-- The counter of a path has no room for every slice of the gang that acts: the instruction waits at issue (02 R64). -/
def Ctx.counterFull (x : Ctx) (path : Nat) (g : Option Guard) : Bool := 255 < x.wave.counter path + max 1 (x.issuers g)

/-! ### Taking the moment -/

/-- A load that must read at the home (13 R259). -/
def State.isHomeRead (s : State) (a : Access) : Bool :=
  match a.kind with
  | .load _ _ _ _ (some scope) => 2 ≤ Scope.rank scope || (scope == .tm && ((s.ownerWave? a).bind s.pairOf).isSome)
  | .load _ _ _ _ none => a.parts.any (fun p => match p.place with | .scratch _ => true | _ => false)
  | _ => true

/-- A load of the slice from these bytes is still out. -/
def State.readOut (s : State) (core slot slice : Nat) (gen : BitVec 8) (p : Part) : Bool :=
  (s.pendingOf core slot slice gen).any (fun b => (match b.2.kind with | .load _ _ _ _ _ => true | _ => false) && overlap [p] b.2.parts)

/-- A copy engine owns the line of a part (10 R218, 12 R244). -/
def State.ownedLine (s : State) (p : Place) (a n : Nat) : Bool :=
  s.clusters.any (fun c => c.2.engines.any (fun e =>
    e.2.owned.any (fun l => l.1 == p && (l.2 = a / 128 || l.2 = (a + n - 1) / 128))))

/-- A plain load that is no home read: it may take a store's bytes from ahead of the home. -/
def State.readsAhead (s : State) (a : Access) : Bool :=
  (match a.kind with | .load _ _ _ _ _ => true | _ => false) && !s.isHomeRead a

/-- Nothing that part i of an access comes after is still out (13 R251, R255, R258, R259): earlier accesses of the slice to
its bytes, lower lanes, and writes it comes after.  A plain load may run ahead of stores, whose bytes it then takes.
(DEDUCED, log 44) -/
def State.mayGo (s : State) (id : Nat) (a : Access) (i : Nat) (p : Part) : Bool :=
  let ahead := s.readsAhead a
  let die := dieOf a.core
  let storeOnly := fun (j : Nat) => ((Store.find? s.inflight j).map (fun b => b.kind == .store)).getD true
  (a.parts.take i).all (fun q => q.got.isSome || !q.overlaps p)
    && (s.pendingOf a.core a.slot a.slice a.gen).all (fun b => id ≤ b.1 || !b.2.holds p || (ahead && b.2.kind == .store))
    && !(if ahead then s.behind die (a.after.reads.filter (fun j => !storeOnly j)) p
         else if a.kind.isWrite || a.kind.isRedm then s.behind die a.after.writes p
         else s.behind die a.after.reads p)
    && (ahead || a.kind.isWrite || a.kind.isRedm
      || s.replicaWrites.all (fun w => !(w.of a.core a.slot a.slice a.gen && w.die = die && w.overlaps p)))

/-- A part here may take its moment. -/
def State.partDue (s : State) (id : Nat) (a : Access) (i : Nat) (p : Part) : Bool :=
  p.got.isNone && !p.place.isPeer && !s.ownedLine p.place p.addr p.size && s.mayGo id a i p

/-- The stores a plain load of the slice runs ahead of: its own earlier ones and those it comes after, in order, and writes
not yet at its die's replica. -/
def State.aheadOf (s : State) (id : Nat) (a : Access) (p : Part) : List (Nat × Nat × List Byte) :=
  let mine := fun (j : Nat) (b : Access) => a.after.reads.contains j
    || (j < id && b.core = a.core && b.slot = a.slot && b.slice = a.slice && b.gen = a.gen)
  (s.replicaWrites.filter (fun w => w.die = dieOf a.core && w.overlaps p
      && (w.of a.core a.slot a.slice a.gen || a.after.reads.contains w.id))).map (fun w => (w.id, w.addr, w.bytes))
    ++ (s.inflight.filter (fun b => b.2.kind == .store && !b.2.returned && mine b.1 b.2)).flatMap (fun b =>
      (b.2.parts.filter (fun q => q.got.isNone && q.overlaps p)).map (fun q => (b.1, q.addr, q.data)))

/-- Bytes read, with those of stores laid over them. -/
def layOver (ws : List (Nat × Nat × List Byte)) (addr : Nat) (bs : List Byte) : List Byte :=
  bs.zipIdx.map (fun b =>
    let a := addr + b.2
    ws.foldl (fun acc w => if w.2.1 ≤ a && a < w.2.1 + w.2.2.length then w.2.2.getD (a - w.2.1) acc else acc) b.1)

/-- Change one part of an access in flight. -/
def State.modPart (s : State) (id i : Nat) (f : Part → Part) : State :=
  { s with inflight := Store.update s.inflight id (fun a => { a with parts := a.parts.modify i f }) }

/-- The slice of an access has read writes that are not home yet. -/
def State.sawWrites (s : State) (a : Access) (ids : List Nat) : State :=
  if ids.isEmpty then s
  else s.modOwner a.core a.slot a.gen a.slice (fun sl => { sl with knows := (sl.knows.join { seen := ids }).live s })

/-- The scope at which a load acquires. -/
def Flight.acquires : Flight → Option Sys2Proof.Scope
  | .load _ _ _ _ acq => acq
  | _ => none

/-- Stores on their way by other slices among these. -/
def State.others (s : State) (a : Access) (ids : List Nat) : List Nat :=
  ids.filter (fun i => ((Store.find? s.inflight i).map (fun b =>
    !(b.core = a.core && b.slot = a.slot && b.slice = a.slice && b.gen = a.gen))).getD false)

/-- The home refuses a part of a non-secure access to a region that has turned secure since it was checked (27 R444): it does
nothing there, and 0x23 reaches the slice as a deferred error at its next edge, once for the instruction.
(DESIGN CHOICE, log 83) -/
def State.deny (s : State) (a : Access) (p : Part) : State :=
  if s.worldOk a.secure p.place p.addr then s
  else
    let lanes := a.courseLanes.getD (waveLanes a.slice (lanesMask [p.lane]))
    s.modOwner a.core a.slot a.gen a.slice (fun sl =>
      if sl.deferred.any (fun e => e.code = 0x23 && e.pc = a.pc) then
        { sl with deferred := sl.deferred.map (fun e => if e.code = 0x23 && e.pc = a.pc then { e with lanes := e.lanes ||| lanes } else e) }
      else { sl with deferred := sl.deferred ++ [{ code := 0x23, pc := a.pc, lanes, addr := BitVec.ofNat 64 p.va, word := a.word }] })

/-- A load reads a part here: from its L1 copy or from home, or for host memory from the LLC, which one is free where each may
answer (12 R237, 13 R256, R258, R261). -/
def State.readPart (s : State) (id : Nat) (a : Access) (i : Nat) (p : Part) : List Byte × State :=
  let fresh := s.fresh + 8192 + 64 * i
  let die := dieOf a.core
  let s := s.meet a.core a.slot a.gen a.slice a.kind.acquires p.place p.addr p.size
  if !p.place.cached then (s.homeRead die p.place p.addr p.size fresh, s)
  else
    let home := s.isHomeRead a
    let laid := if home then [] else s.aheadOf id a p
    let s := (s.checkLine p.place p.addr).holdHostLine p.place p.addr
    let s := if a.noL1 then s.evictL1 a.dom p.place p.addr else s
    let copy := (if home || a.noL1 || Config.pick fresh % 2 = 1 then none else s.l1? a.dom p.place p.addr).filter
      (fun x => x.holds p.addr p.size)
    let llc := (if home || Config.pick fresh / 2 % 2 = 1 then none else
      match p.place with | .host => Store.find? s.hostLines (p.addr / 128) | _ => none).filter
      (fun (x : L1Line) => !(x.writers p.addr p.size).isEmpty)
    match copy, llc with
    | some x, _ => (layOver laid p.addr (x.read p.addr p.size), s.sawWrites a (s.others a (x.writers p.addr p.size)))
    | none, some x => (layOver laid p.addr (x.read p.addr p.size), (s.passL1 a.dom p.place p.addr p.size).sawWrites a
        (s.others a (x.writers p.addr p.size)))
    | none, none =>
      if !s.worldOk a.secure p.place p.addr then
        ((List.range p.size).map (fun i => BitVec.ofNat 8 (Config.pick (fresh + i))), s.deny a p)
      else
      let bs := s.homeRead die p.place p.addr p.size fresh
      let s := if home || a.noL1 || s.isPoisoned p.place p.addr || Config.pick fresh / 4 % 2 = 1 then s.passL1 a.dom p.place p.addr p.size
        else s.fillL1 a.dom p.place p.addr
      (layOver laid p.addr bs, s)

/-- Sign- or zero-extended bytes as a value of 32 or 64 bits. -/
def extendBytes (bs : List Byte) (signed : Bool) : W64 :=
  let n := ofLeBytes bs
  let w := 8 * bs.length
  if signed && w < 64 && 2 ^ (w - 1) ≤ n then BitVec.ofInt 64 ((n : Int) - 2 ^ w) else BitVec.ofNat 64 n

/-- The first peer error among the parts, lowest lane first. -/
def Access.peerError? (a : Access) : Option (Byte × Nat) :=
  a.parts.findSome? (fun p => match p.got with
    | some (.error c) => some (c, p.va)
    | _ => none)
def Access.failedLanes (a : Access) : Mask4 :=
  lanesMask ((a.parts.filter (fun p => match p.got with | some (.error _) => true | _ => false)).map (·.lane))

/-- The bytes a part has read: this package's own, or those of a peer's line, under what was laid over them when it was
asked. -/
def Part.bytes (p : Part) : List Byte :=
  match p.got with
  | some (.data bs) =>
    let bs := if bs.length = p.size then bs else (bs.drop (p.addr % 128)).take p.size
    bs.zipIdx.map (fun b => if p.cmp.getD b.2 0 = 1 then p.data.getD b.2 b.1 else b.1)
  | _ => List.replicate p.size 0

/-- A peer's answer comes to the L1 of its load: a whole line fills it when no copy stands there and nothing newer has been
met since; otherwise the copy's older bytes are passed (13 R257, R258). -/
def State.fillPeer (s : State) (a : Access) (p : Part) : State :=
  match p.place, p.got with
  | .peer _, some (.data bs) =>
    if bs.length = 128 && p.size ≠ 128 && !a.noL1 && !a.noFill && (s.l1? a.dom p.place p.addr).isNone then s.bringL1 a.dom p.place p.addr bs
    else if p.copy then s
    else (s.passL1 a.dom p.place p.addr p.size).noFillFrom a.dom (some (p.place, p.addr))
  | _, _ => s

/-- The number of the first row that a queue holds: the next to be popped, or the next to be stored. -/
def Queue.first (b : Queue) : Nat := if b.dir == .load then b.row else b.row - b.held.length

/-- An access gives the row of this number its values. -/
def Wave.fillRow (x : Wave) (q row id : Nat) (vals : List (Nat × W64)) : Wave :=
  { x with queues := Store.update x.queues q (fun b =>
      if row < b.first then b
      else { b with held := b.held.modify (row - b.first) (fun r =>
          { vals := vals.foldl (fun (l : List (Option W64)) v => l.set v.1 (some v.2)) r.vals, awaits := r.awaits.filter (· ≠ id) }) }) }

/-- Change the wave that an access of this generation belongs to. -/
def State.modOwnerWave (s : State) (core slot : Nat) (gen : BitVec 8) (f : Wave → Wave) : State :=
  if s.gen core slot = gen then s.modWave core slot f
  else
    let c := s.core core
    s.setCore core { c with parked := c.parked.map (fun p =>
      if p.2.slot = slot ∧ p.2.gen = gen then (p.1, { p.2 with wave := f p.2.wave }) else p) }

/-- The engine of queue q is an agent of its own beside the sixteen slices. -/
def queueAgent (q : Nat) : Nat := 16 + q

/-- A load engine's row has come; an element that cannot be reached is a free value (log 31). -/
def State.queueReturn (s : State) (id : Nat) (a : Access) (q : Nat) : State :=
  let vals := (a.parts.map (·.lane)).eraseDups.map (fun l =>
    let ps := a.parts.filter (fun p => p.lane = l)
    (l, if ps.any (fun p => match p.got with | some (.error _) => true | _ => false) then Config.freeWord (s.fresh + l)
        else (BitVec.ofNat 64 (ofLeBytes (ps.flatMap Part.bytes)) : W64)))
  let s := a.parts.foldl (fun (s : State) p => s.fillPeer a p) s
  (s.modOwnerWave a.core a.slot a.gen (fun x => x.fillRow q a.row id vals)).finish id a

/-- A load's data lands once every part has its bytes, or a peer's error traps at the load (20 R369): the shared registers it
writes are filled only then (09 R177). (DEDUCED, log 44) -/
def State.loadReturn (s : State) (id : Nat) (a : Access) (d : Reg) (wide signed : Bool) (acq : Option Sys2Proof.Scope) :
    State :=
  match a.peerError? with
  | some (code, va) =>
    ((s.modOwner a.core a.slot a.gen a.slice (fun sl =>
      { sl with out := sl.out.filter (fun o => o.id ≠ id), wait := none, pc := a.pc })).finish id a).takeTrap a.core a.slot a.slice
      { code, lanes := a.failedLanes, addr := BitVec.ofNat 64 va }
  | none =>
    let peer := a.parts.any (fun p => p.place.isPeer)
    let lanes := (a.parts.map (·.lane)).eraseDups
    let ws := lanes.flatMap (fun l =>
      destWrites d wide l (extendBytes ((a.parts.filter (fun p => p.lane = l)).flatMap Part.bytes) signed))
    let uses : List (Nat × Nat × ShareUse) := if peer then ws.filterMap (fun w => match w.1 with
        | .v n l => if s.awaitsLoc a id w.1 then some (n, 4 * a.slice + l, ShareUse.write w.2) else none
        | .s _ => none) else []
    match (s.core a.core).shareAll a.slot uses with
    | none => s
    | some k =>
      let s := if uses.isEmpty || k.shared.isEmpty then s else s.setCore a.core { s.core a.core with shared := k.shared }
      let s := a.parts.foldl (fun (s : State) p => s.fillPeer a p) s
      let s := s.landAll a id ws
      let s := match acq with
        | some scope => s.acquireFor a scope
        | none => s
      let s := if peer then s.modOwner a.core a.slot a.gen a.slice (fun sl =>
          if sl.wait = some (.peerLoad id) then { sl with wait := none } else sl)
        else s
      s.finish id a

/-- A part of a store takes its moment at its home here; a region that has turned secure takes nothing. -/
def State.storePart (s : State) (id : Nat) (a : Access) (p : Part) : State :=
  if !s.worldOk a.secure p.place p.addr then (s.deny a p).cleanL1 a.dom p.place p.addr p.size id
  else (((s.homeWrite p.place p.addr p.data p.rep id).untag p.place p.addr p.size id).holdHostLine p.place p.addr).cleanL1
    a.dom p.place p.addr p.size id

/-- A peer's errors become a deferred fabric store error of the slice (09 R186). -/
def State.deferErrors (s : State) (a : Access) : State :=
  match a.peerError? with
  | none => s
  | some (code, va) =>
    let e : Deferred := { code, pc := a.pc, lanes := a.courseLanes.getD (waveLanes a.slice a.failedLanes), addr := BitVec.ofNat 64 va
                          word := a.word }
    s.modOwner a.core a.slot a.gen a.slice (fun sl => { sl with deferred := sl.deferred ++ [e] })

/-- Every write of a store has taken its moment (STORE_PERFORMED): what its peers answered, and the end. (DEDUCED, log 44) -/
def State.storeReturn (s : State) (id : Nat) (a : Access) : State :=
  let s := a.parts.foldl (fun (s : State) p =>
    if p.place.isPeer then
      let s := (s.cleanL1 a.dom p.place p.addr p.size id).noFillFrom a.dom (some (p.place, p.addr))
      match p.got with
      | some (.error _) => s
      | _ => (s.contestL1 p.place p.addr p.size id).untag p.place p.addr p.size id
    else s) s
  (s.deferErrors a).finish id a

/-! ### Issuing plain loads and stores (02 R59 to R63) -/

/-- The form of a plain memory opcode. -/
structure MemForm where
  load : Bool
  space : Place
  bytes : Nat
  signed : Bool := false
deriving DecidableEq, Repr

/-- LD.P acts on none of the policy operand's fields (02 R62). -/
def MemForm.ordered (m : MemForm) : Bool := match m.space with | .params _ => false | _ => true

/-- The value of a location of the issuing slice before a load writes it. -/
def State.oldValue (s : State) (k : Nat) (l : Loc) : W32 :=
  match s.wave? s.now.core s.now.slot with
  | some x => (s.ctx x k).current (x.slice k) l
  | none => 0

/-- Parts of one lane's access, in any space. -/
def State.partsFor (s : State) (x : Wave) (core lane va n : Nat) (space : Place) (q : Asker) :
    Except Byte (List (Part × Option Xlat)) :=
  match space with
  | .scratch _ => s.scratchParts x.team (core / 32) lane va n
  | .params _ =>
    match (Store.find? s.teams x.team).bind (fun t => (Store.find? s.launches t.launch).map (fun l => (t.launch, l))) with
    | none => .error 0x20
    | some (i, l) =>
      if va + n ≤ l.params.length then
        .ok ((splitAccess va n).map (fun r => ({ lane, place := .params i, addr := r.1, size := r.2, va := r.1 }, none)))
      else .error 0x20
  | _ => s.globalParts q lane va n

/-- A lane's address: the base with the offset, modulo the space's width; in .P negative sums lie outside. -/
def laneAddr (space : Place) (base : W64) (off : BitVec 18) : Nat :=
  match space with
  | .scratch _ => ((base.setWidth 32 : BitVec 32) + off.signExtend 32).toNat
  | .params _ => let n : Int := (base.setWidth 32 : BitVec 32).toNat + off.toInt; if n < 0 then 2 ^ 40 else n.toNat
  | _ => (base + off.signExtend 64).toNat

/-- The parts of every lane, or the trap of the lowest faulting lane with the mask of all that fault (02 R60). -/
def laneParts (f : Nat → Except Byte (List (Part × Option Xlat))) (addr : Nat → Nat) (lanes : List Nat) :
    Except Trap (List (Part × Option Xlat)) :=
  let rs := lanes.map (fun l => (l, f l))
  let bad := rs.filter (fun r => match r.2 with | .error _ => true | .ok _ => false)
  match bad with
  | (l, .error c) :: _ => .error { code := c, lanes := lanesMask (bad.map (·.1)), addr := BitVec.ofNat 64 (addr l) }
  | _ => .ok (rs.flatMap (fun r => match r.2 with | .ok ps => ps | .error _ => []))

def MemOp.shape (o : Sys2Proof.MemOp) (m : MemForm) : Shape :=
  let wideBase := match m.space with | .scratch _ | .params _ => false | _ => true
  let base : OpSrc := { reg := o.base, wide := wideBase }
  let pol : OpSrc := { reg := .s o.policy }
  if m.load then { g := o.g, srcs := [base, pol], d := some (o.data, m.bytes = 8), look := o.look.toNat }
  else { g := o.g, srcs := [base, pol, { reg := o.data, wide := m.bytes = 8 }] }

/-- A load or store is slice-wise when its data register is an s register. -/
def onceFor (r : Reg) : Bool := match r with | .s _ => true | _ => false

/-- A part of an access that a peer holds has been asked for. -/
def State.asked (s : State) (id i : Nat) : Bool := s.sent.any (fun p => p.access = some id && p.part = i)

/-- The channel of an access's requests (20 R360): that of its wave's class, and channel 4 for the copy engines. -/
def State.channel (s : State) (a : Access) : Nat :=
  match a.kind with
  | .load _ _ _ _ _ => if ((s.wave? a.core a.slot).map (fun x => x.prio.toNat)).getD 1 = 0 then 0 else 1
  | _ => if 64 ≤ a.slot then 4 else if ((s.wave? a.core a.slot).map (fun x => x.prio.toNat)).getD 1 = 0 then 0 else 1

/-- Each peer part of an access that may go, as its request, or its answer when the egress denies it.  A load's request takes
with it the bytes of the stores it runs ahead of. -/
def State.sendParts (s : State) (id : Nat) (a : Access) (body : Nat → Part → Option PacketBody) (range : Part → Nat × Nat) :
    State :=
  let vc := s.channel a
  let load := match a.kind with | .load _ _ _ _ _ => true | _ => false
  a.parts.zipIdx.foldl (fun (s : State) p =>
    match p.1.place with
    | .peer dst =>
      if p.1.got.isSome || p.1.copy || s.asked id p.2 || (a.slot < 64 && !s.mayGo id a p.2 p.1) then s
      else if s.egressOk dst a.process (range p.1).1 (range p.1).2 (a.kind.isWrite || a.kind.isRedm) then
        match body p.2 p.1 with
        | some b =>
          let laid := if load && s.readsAhead a then s.aheadOf id a p.1 else []
          let s := if laid.isEmpty then s else s.modPart id p.2 (fun q => { q with
              data := layOver laid q.addr (List.replicate q.size 0)
              cmp := layOver (laid.map (fun w => (w.1, w.2.1, w.2.2.map (fun _ => (1 : Byte))))) q.addr (List.replicate q.size 0) })
          s.sendPacket dst vc (some id) p.2 b
        | none => s
      else s.modPart id p.2 (fun q => { q with got := some (.error 0x40) })
    | _ => s) s

/-- The request for a load's peer parts: the whole line, or for an acquire or class 3 its bytes. -/
def loadRange (a : Access) (p : Part) : Nat × Nat :=
  if a.kind.acquires.isSome || a.noL1 then (p.addr, p.size) else (p.addr / 128 * 128, 128)

/-- Send what a load or store may send to its peers; a part that an L1 copy was to answer is asked for when the copy has
gone. -/
def State.sendLoadStore (s : State) (id : Nat) (a : Access) : State :=
  match a.kind with
  | .load _ _ _ _ _ => s.sendParts id a (fun _ p => some (.read (loadRange a p).1 (loadRange a p).2)) (loadRange a)
  | .store => s.sendParts id a (fun _ p => some (.write p.addr p.data)) (fun p => (p.addr, p.size))
  | _ => s

/-- One part takes its moment, if it may: a load's reads, a store's is written; a store to host memory may first stand in the
LLC. -/
def State.takePart (s : State) (id i : Nat) (prompt : Bool) : State :=
  match Store.find? s.inflight id with
  | none => s
  | some a =>
    match a.parts[i]? with
    | none => s
    | some p =>
      if p.place.isPeer && p.copy && p.got.isNone && s.mayGo id a i p then
        match (s.l1? a.dom p.place p.addr).filter (fun x => x.holds p.addr p.size) with
        | some x =>
          ((s.meet a.core a.slot a.gen a.slice a.kind.acquires p.place p.addr p.size).modPart id i (fun q => { q with
            got := some (.data (layOver (s.aheadOf id a p) p.addr (x.read p.addr p.size))) })).sawWrites a (s.others a (x.writers p.addr p.size))
        | none => s.modPart id i (fun q => { q with copy := false })
      else if !s.partDue id a i p then s
      else match a.kind with
        | .load _ _ _ _ _ =>
          let (bs, s) := s.readPart id a i p
          s.modPart id i (fun q => { q with got := some (.data bs) })
        | .store =>
          if p.place == .host && !p.llc && !prompt && Config.pick (s.fresh + 8192 + 64 * i) % 2 = 0 then
            (s.enterLlc p.addr p.data id).modPart id i (fun q => { q with llc := true })
          else (s.storePart id a p).modPart id i (fun q => { q with got := some .done })
        | _ => s

/-- The parts of an access that a moment takes: all that may go, or some of them, the first among them (13 R248). -/
def State.chosenParts (s : State) (id : Nat) (a : Access) (all : Bool) : List Nat :=
  let due := (List.range a.parts.length).filter (fun i => match a.parts[i]? with
    | some p => s.partDue id a i p || (p.copy && p.got.isNone)
    | none => false)
  if all then List.range a.parts.length
  else due.filter (fun i => due.head? = some i || (Config.pick (s.fresh + 7936)).testBit i)

/-- Take moments of a load or store, and end it once every part has had its own. -/
def State.progress (s : State) (id : Nat) (all : Bool) : State :=
  match Store.find? s.inflight id with
  | none => s
  | some a =>
    if a.returned then s
    else
      let s := (s.chosenParts id a all).foldl (fun (s : State) i => s.takePart id i all) s
      match Store.find? s.inflight id with
      | none => s
      | some a =>
        let s := s.sendLoadStore id a
        match Store.find? s.inflight id with
        | none => s
        | some a =>
          if a.parts.all (fun p => p.got.isSome) then
            if a.cancelled then s.finish id a
            else match a.kind with
              | .load d wide _ signed acq => match d with
                | .q n => s.queueReturn id a n.toNat
                | d => s.loadReturn id a d wide signed acq
              | .store => s.storeReturn id a
              | _ => s
          else s

/-- Complete an access as far as it may go. -/
def State.completeLoadStore (s : State) (id : Nat) : State := s.progress id true

/-- What a load issues. -/
def issueLoad (m : MemForm) (o : Sys2Proof.MemOp) (pol : W32) (lanes : List Nat) (ps : List (Part × Option Xlat)) (k : Nat)
    (s : State) : State :=
  let c := s.now.core
  let w := s.now.slot
  match s.wave? c w, s.slice? c w k with
  | some x, some sl =>
    let s := ps.foldl (fun (s : State) p => match p.2 with | some t => s.fillCoreTlb c t | none => s) s
    let peer := ps.any (fun p => p.1.place.isPeer)
    let acq := if m.ordered && polOrder pol = 1 then some (scopeOf (polScope pol)) else none
    let noL1 := ps.any (fun p => lineClass pol p.1.va = 3)
    let dom := s.l1Dom c w
    let parts := ps.map (fun p => { p.1 with
      copy := acq.isNone && !noL1 && p.1.place.isPeer && Config.pick (s.fresh + 16384 + p.1.addr % 1024) % 2 = 0
        && ((s.l1? dom p.1.place p.1.addr).map (fun x => x.holds p.1.addr p.1.size)).getD false })
    let id := s.serial
    let a : Access :=
      { core := c, slot := w, slice := k, gen := s.gen c w, pc := sl.pc, word := s.now.word
        path := some (match m.space with | .scratch _ => 2 | _ => if peer then 4 else 0)
        kind := .load o.data (m.bytes = 8) m.bytes m.signed acq, parts, lanes := lanesMask lanes
        process := x.process, secure := s.secureWave x, noL1 }
    let locs := lanes.flatMap (regLocs o.data (m.bytes = 8))
    let s := s.launchAccess a
    let pc := sl.pc
    let s := s.advance (MemOp.shape o m) lanes k
    let s := s.modNow k (fun sl => { (if peer then sl else sl.openWindow o.look.toNat pc (locs.map (fun l => (l, s.oldValue k l)))) with
      out := sl.out ++ locs.map (fun l => { loc := l, by_ := .memory, pc, id })
      wait := if peer then some (.peerLoad id) else sl.wait })
    let s := s.sendLoadStore id ((Store.find? s.inflight id).getD a)
    if s.now.prompt || peer then s.progress id s.now.prompt else s
  | _, _ => s

/-- What a store issues: its bytes enter the L1 copy, unless an earlier load of the slice from them is still out (13 R251),
and the access goes to its home. -/
def issueStore (m : MemForm) (o : Sys2Proof.MemOp) (pol : W32) (lanes : List Nat) (vals : List (Nat × W64))
    (ps : List (Part × Option Xlat)) (k : Nat) (s : State) : State :=
  let c := s.now.core
  let w := s.now.slot
  match s.wave? c w, s.slice? c w k with
  | some x, some sl =>
    let s := ps.foldl (fun (s : State) p => match p.2 with | some t => s.fillCoreTlb c t | none => s) s
    let parts := lanes.flatMap (fun l =>
      let bs := leBytes m.bytes (((vals.find? (fun v => v.1 = l)).map (·.2.toNat)).getD 0)
      let mine := (ps.filter (fun p => p.1.lane = l)).map (·.1)
      mine.zipIdx.map (fun p => { p.1 with data := if p.2 = 0 then bs.take p.1.size else bs.drop (m.bytes - p.1.size) }))
    let peer := parts.any (fun p => p.place.isPeer)
    let id := s.serial
    let release := m.ordered && polOrder pol = 2
    let dom := s.l1Dom c w
    let noL1 := ps.any (fun p => lineClass pol p.1.va = 3)
    let inL1 := !noL1 && parts.all (fun p => p.place.cached && !s.readOut c w k (s.gen c w) p)
    let a : Access :=
      { core := c, slot := w, slice := k, gen := s.gen c w, pc := sl.pc, word := s.now.word
        path := some (match m.space with | .scratch _ => 2 | _ => if peer then 4 else 1)
        kind := .store, parts, lanes := lanesMask lanes, process := x.process, secure := s.secureWave x, noL1, inL1 }
    let s := s.tagWrite c w k (if release then some (scopeOf (polScope pol)) else none) parts id
    let s := s.launchAccess a
    let s := if inL1 then parts.foldl (fun (s : State) p => s.dirtyL1 dom p.place p.addr p.data id) s else s
    let s := s.advance (MemOp.shape o m) lanes k
    let s := if release then s.closeRegion c w k sl.lastLive sl.pc else s
    let s := s.sendLoadStore id ((Store.find? s.inflight id).getD a)
    if s.now.prompt then s.progress id true else s
  | _, _ => s

/-- The plan of a plain load or store in one slice: the checks in the order of 09 R178, then its issue.  A slice with homes
here and on a peer makes one access, counted once, on path 4. (DESIGN CHOICE, log 73) -/
def planMem (m : MemForm) (o : Sys2Proof.MemOp) (s : State) (x : Ctx) (sl0 : Slice) : Act :=
  let sh := MemOp.shape o m
  let lanes := workLanes sl0 o.g (onceFor o.data)
  let pol := (x.readRegAt sl0 1 (.s o.policy) false 0).setWidth 32
  let release := m.ordered && !m.load && polOrder pol = 2 && !sl0.blocked [.s o.policy.toNat] && !lanes.isEmpty
  let sl := sl0.atEdge release
  match operandCheck sh release x sl lanes with
  | some a => a
  | none =>
    if lanes.isEmpty then .go (fun s => s.advance sh lanes x.k)
    else
      let ws : List (Loc × W32) := if m.load then lanes.flatMap (fun l => (regLocs o.data (m.bytes = 8) l).map
          (fun loc => (loc, x.current sl loc))) else []
      let uses := x.shareUses sh lanes ws
      if (x.core.shareAll x.slot uses).isNone then .wait .fullEmpty
      else
      let addr := fun l => laneAddr m.space (x.readReg sl o.base (match m.space with | .scratch _ | .params _ => false | _ => true) l) o.off
      let odd := lanes.filter (fun l => addr l % m.bytes ≠ 0)
      let all := lanesMask (workLanes sl o.g false)
      let named := fun (ls : Mask4) => if onceFor o.data then all else ls
      if polBad pol m.load then .trap { code := 0x03, lanes := all }
      else if m.ordered && polOrder pol ≠ 0 && !odd.isEmpty then .trap { code := 0x03, lanes := named (lanesMask odd) }
      else
        let q := s.asker x.wave s.now.core (!m.load)
        match laneParts (fun l => s.partsFor x.wave s.now.core l (addr l) m.bytes m.space q) addr lanes with
        | .error t => .trap { t with lanes := named t.lanes }
        | .ok ps =>
          let peer := ps.any (fun p => p.1.place.isPeer)
          let path := match m.space with
            | .scratch _ => 2
            | _ => if peer then 4 else if m.load then 0 else 1
          let need : FenceNeed := { loads := true, stores := true, redm := false, scope := scopeOf (polScope pol) }
          match s.acquireAhead s.now.core s.now.slot x.k with
          | some id => .wait (.acquire id)
          | none =>
            if ps.any (fun p => p.2.isSome && s.walkerFull s.now.core x.wave.process p.1.va) then .wait .walker
            else if x.counterFull path o.g then .wait .counter
            else if release && !s.drained s.now.core s.now.slot x.k need then .wait (.fence need)
            else
              .go (fun s =>
                let s := s.shareNow (if m.load && peer then [] else uses)
                if m.load then issueLoad m o pol lanes ps x.k s
                else issueStore m o pol lanes (lanes.map (fun l => (l, x.readRegAt sl 2 o.data (m.bytes = 8) l))) ps x.k s)

/-- Slices that await a peer's load part from gang-mates that have none outstanding (06 R139, 20 R369). -/
def Wave.partPeers (x : Wave) (ks : List Nat) : Wave :=
  let waits := fun (k : Nat) => match (x.slice k).wait with | some (.peerLoad _) => true | _ => false
  { x with gangs := x.gangs.flatMap (fun g =>
      if g.slices.any ks.contains && g.slices.any waits && !g.slices.all waits then
        [{ g with slices := g.slices.filter (fun k => !waits k) }, { g with slices := g.slices.filter waits, boosted := false }]
      else [g]) }

def issueMem (m : MemForm) (o : Sys2Proof.MemOp) (s : State) : Host.Outcome State Fault Refusal :=
  .next ((issueActs (planMem m o) s).modWave s.now.core s.now.slot (·.partPeers s.now.slices))

def execLdGN8 (o : Sys2Proof.MemOp) (s : State) : Host.Outcome State Fault Refusal := issueMem { load := true, space := .hbm, bytes := 1 } o s
def execLdGS8 (o : Sys2Proof.MemOp) (s : State) : Host.Outcome State Fault Refusal := issueMem { load := true, space := .hbm, bytes := 1, signed := true } o s
def execLdGN16 (o : Sys2Proof.MemOp) (s : State) : Host.Outcome State Fault Refusal := issueMem { load := true, space := .hbm, bytes := 2 } o s
def execLdGS16 (o : Sys2Proof.MemOp) (s : State) : Host.Outcome State Fault Refusal := issueMem { load := true, space := .hbm, bytes := 2, signed := true } o s
def execLdGB32 (o : Sys2Proof.MemOp) (s : State) : Host.Outcome State Fault Refusal := issueMem { load := true, space := .hbm, bytes := 4 } o s
def execLdGB64 (o : Sys2Proof.MemOp) (s : State) : Host.Outcome State Fault Refusal := issueMem { load := true, space := .hbm, bytes := 8 } o s
def execLdSN8 (o : Sys2Proof.MemOp) (s : State) : Host.Outcome State Fault Refusal := issueMem { load := true, space := .scratch 0, bytes := 1 } o s
def execLdSS8 (o : Sys2Proof.MemOp) (s : State) : Host.Outcome State Fault Refusal := issueMem { load := true, space := .scratch 0, bytes := 1, signed := true } o s
def execLdSN16 (o : Sys2Proof.MemOp) (s : State) : Host.Outcome State Fault Refusal := issueMem { load := true, space := .scratch 0, bytes := 2 } o s
def execLdSS16 (o : Sys2Proof.MemOp) (s : State) : Host.Outcome State Fault Refusal := issueMem { load := true, space := .scratch 0, bytes := 2, signed := true } o s
def execLdSB32 (o : Sys2Proof.MemOp) (s : State) : Host.Outcome State Fault Refusal := issueMem { load := true, space := .scratch 0, bytes := 4 } o s
def execLdSB64 (o : Sys2Proof.MemOp) (s : State) : Host.Outcome State Fault Refusal := issueMem { load := true, space := .scratch 0, bytes := 8 } o s
def execLdPB32 (o : Sys2Proof.MemOp) (s : State) : Host.Outcome State Fault Refusal := issueMem { load := true, space := .params 0, bytes := 4 } o s
def execStGB8 (o : Sys2Proof.MemOp) (s : State) : Host.Outcome State Fault Refusal := issueMem { load := false, space := .hbm, bytes := 1 } o s
def execStGB16 (o : Sys2Proof.MemOp) (s : State) : Host.Outcome State Fault Refusal := issueMem { load := false, space := .hbm, bytes := 2 } o s
def execStGB32 (o : Sys2Proof.MemOp) (s : State) : Host.Outcome State Fault Refusal := issueMem { load := false, space := .hbm, bytes := 4 } o s
def execStGB64 (o : Sys2Proof.MemOp) (s : State) : Host.Outcome State Fault Refusal := issueMem { load := false, space := .hbm, bytes := 8 } o s
def execStSB8 (o : Sys2Proof.MemOp) (s : State) : Host.Outcome State Fault Refusal := issueMem { load := false, space := .scratch 0, bytes := 1 } o s
def execStSB16 (o : Sys2Proof.MemOp) (s : State) : Host.Outcome State Fault Refusal := issueMem { load := false, space := .scratch 0, bytes := 2 } o s
def execStSB32 (o : Sys2Proof.MemOp) (s : State) : Host.Outcome State Fault Refusal := issueMem { load := false, space := .scratch 0, bytes := 4 } o s
def execStSB64 (o : Sys2Proof.MemOp) (s : State) : Host.Outcome State Fault Refusal := issueMem { load := false, space := .scratch 0, bytes := 8 } o s

/-! ### Their events -/

/-- LOAD_RETURN (02 R64). -/
def execLoadReturn (id : Nat) (s : State) : Host.Outcome State Fault Refusal :=
  match Store.find? s.inflight id with
  | some { kind := .load _ _ _ _ _, .. } => .next (s.progress id false)
  | _ => .next s

/-- STORE_PERFORMED (02 R64). -/
def execStorePerformed (id : Nat) (s : State) : Host.Outcome State Fault Refusal :=
  match Store.find? s.inflight id with
  | some { kind := .store, slot, .. } => .next (if slot < 64 then s.progress id false else s)
  | _ => .next s

/-- REPLICA_UPDATE (12 R243). (DEDUCED, log 67) -/
def execReplicaUpdate (die : Nat) (s : State) : Host.Outcome State Fault Refusal := .next (s.replicaStep die)

/-- FENCE_DRAIN_COMPLETE (10 R208): what the fence or release awaited is done; it goes on. -/
def execFenceDrainComplete (w : SliceRef) (s : State) : Host.Outcome State Fault Refusal :=
  match s.slice? w.core w.slot w.slice with
  | some { wait := some (.fence n), .. } =>
    .next (if s.drained w.core w.slot w.slice n then s.modSlice w.core w.slot w.slice (fun sl => { sl with wait := none }) else s)
  | _ => .next s

end Sys2Proof.Machine
end

