-- ==== Sys2Proof/Machine/Alu.lean ====
section
/-!
DEFINITION. Integer, logical, shift, bit-field, compare, select, predicate and move instructions (02 R45 to R56): each
operation on one lane's values, then one meaning per instruction.
-/

namespace Sys2Proof

/-! ### Elements of a type (01 R20, R29) -/

/-- Width of one element. -/
def Ty.elemBits : Ty → Nat
  | .n32 | .s32 | .f32 | .b32 => 32
  | .n64 | .s64 | .f64 => 64
  | .f16x2 | .bf16x2 | .n16x2 | .s16x2 => 16
  | .n8x4 | .s8x4 | .e4m3x4 | .e5m2x4 => 8

/-- How many elements. -/
def Ty.elemCount : Ty → Nat
  | .f16x2 | .bf16x2 | .n16x2 | .s16x2 => 2
  | .n8x4 | .s8x4 | .e4m3x4 | .e5m2x4 => 4
  | _ => 1

def Ty.isSigned : Ty → Bool
  | .s32 | .s64 | .s16x2 | .s8x4 => true
  | _ => false

end Sys2Proof

namespace Sys2Proof.Machine

/-- What a lane-wise instruction answers. -/
abbrev Done := Host.Outcome State Fault Refusal

/-- A w-bit number read as signed or natural. -/
def readInt (signed : Bool) (w n : Nat) : Int := if signed && 2 ^ (w - 1) ≤ n then (n : Int) - 2 ^ w else n

/-- Element i of a value, as w bits. -/
def elemNat (w : Nat) (x : W64) (i : Nat) : Nat := x.toNat / 2 ^ (w * i) % 2 ^ w
/-- Element i of a value, as the type reads it. -/
def elemInt (t : Ty) (x : W64) (i : Nat) : Int := readInt t.isSigned t.elemBits (elemNat t.elemBits x i)

/-- A value from the elements' bits. -/
def packElems (w n : Nat) (f : Nat → Nat) : W64 :=
  BitVec.ofNat 64 ((List.range n).foldl (fun acc i => acc + f i % 2 ^ w * 2 ^ (w * i)) 0)

/-- The w bits of an integer: wrapped. -/
def wrapBits (w : Nat) (x : Int) : Nat := (x % 2 ^ w).toNat

/-- Least and greatest value of an integer type. -/
def intMin (signed : Bool) (w : Nat) : Int := if signed then -(2 ^ (w - 1)) else 0
def intMax (signed : Bool) (w : Nat) : Int := if signed then 2 ^ (w - 1) - 1 else 2 ^ w - 1

/-- Narrow an exact result: clamped under .SAT, else wrapped (02 R46). -/
def narrowInt (signed sat : Bool) (w : Nat) (x : Int) : Nat :=
  wrapBits w (if sat then max (intMin signed w) (min (intMax signed w) x) else x)

/-! ### Integer arithmetic (02 R45, R46) -/

/-- The exact integer operations: width, signedness and element values to the exact result. -/
abbrev IntFn := (w : Nat) → (signed : Bool) → (a b c : Int) → Int

def intAdd : IntFn := fun _ _ a b _ => a + b
def intSub : IntFn := fun _ _ a b _ => a - b
def intMul : IntFn := fun _ _ a b _ => a * b
def intMulHigh : IntFn := fun w _ a b _ => (a * b).fdiv (2 ^ w)
def intMad : IntFn := fun _ _ a b c => a * b + c
def intDiv : IntFn := fun w signed a b _ => if b = 0 then (if signed then -1 else 2 ^ w - 1) else a.tdiv b
def intRem : IntFn := fun _ _ a b _ => if b = 0 then a else a.tmod b
def intMinOf : IntFn := fun _ _ a b _ => min a b
def intMaxOf : IntFn := fun _ _ a b _ => max a b
def intAbs : IntFn := fun _ _ a _ _ => if a < 0 then -a else a

/-- An integer operation over every element of a value. -/
def intVal (f : IntFn) (t : Ty) (sat : Bool) (a b c : W64) : W64 :=
  packElems t.elemBits t.elemCount (fun i =>
    narrowInt t.isSigned sat t.elemBits (f t.elemBits t.isSigned (elemInt t a i) (elemInt t b i) (elemInt t c i)))

def intLane (f : IntFn) (t : Ty) (sat : Bool) (x : LaneIn) : LaneOut := { val := intVal f t sat x.a x.b x.c }

def issueInt2 (f : IntFn) (o : Alu2) (s : State) : Done := .next (issueLane (o.shape false false) (intLane f o.ty o.sat) s)
/-- Full B integer arithmetic: s32, the immediate in place of b. -/
def issueIntImm (f : IntFn) (o : AluI) (s : State) : Done :=
  .next (issueLane (o.shape false) (fun x => { val := intVal f .s32 false x.a o.signed 0 }) s)

def execIadd (o : Alu2) (s : State) : Done := issueInt2 intAdd o s
def execIaddImm (o : AluI) (s : State) : Done := issueIntImm intAdd o s
def execIsub (o : Alu2) (s : State) : Done := issueInt2 intSub o s
def execIsubImm (o : AluI) (s : State) : Done := issueIntImm intSub o s
def execImul (o : Alu2) (s : State) : Done := issueInt2 intMul o s
def execImulImm (o : AluI) (s : State) : Done := issueIntImm intMul o s
def execImulh (o : Alu2) (s : State) : Done := issueInt2 intMulHigh o s
def execImad (o : Alu3) (s : State) : Done := .next (issueLane (o.shape false) (intLane intMad o.ty o.sat) s)
def execIdiv (o : Alu2) (s : State) : Done := issueInt2 intDiv o s
def execIrem (o : Alu2) (s : State) : Done := issueInt2 intRem o s
def execImin (o : Alu2) (s : State) : Done := issueInt2 intMinOf o s
def execIminImm (o : AluI) (s : State) : Done := issueIntImm intMinOf o s
def execImax (o : Alu2) (s : State) : Done := issueInt2 intMaxOf o s
def execImaxImm (o : AluI) (s : State) : Done := issueIntImm intMaxOf o s
def execIabs (o : Alu1) (s : State) : Done := .next (issueLane (o.shape false false) (intLane intAbs o.ty o.sat) s)

/-! ### Logical and shift instructions (02 R47) -/

/-- Logical operations on 64-bit values; a 32-bit destination takes the low half. -/
def issueLogic (f : W64 → W64 → W64) (o : Alu2) (s : State) : Done :=
  .next (issueLane (o.shape false false) (fun x => { val := f x.a x.b }) s)
def issueLogicImm (f : W64 → W64 → W64) (o : AluI) (s : State) : Done :=
  .next (issueLane (o.shape false) (fun x => { val := f x.a o.natural }) s)

def andVal (a b : W64) : W64 := a &&& b
def orVal (a b : W64) : W64 := a ||| b
def xorVal (a b : W64) : W64 := a ^^^ b
def andnVal (a b : W64) : W64 := a &&& ~~~b

def execAnd (o : Alu2) (s : State) : Done := issueLogic andVal o s
def execAndImm (o : AluI) (s : State) : Done := issueLogicImm andVal o s
def execOr (o : Alu2) (s : State) : Done := issueLogic orVal o s
def execOrImm (o : AluI) (s : State) : Done := issueLogicImm orVal o s
def execXor (o : Alu2) (s : State) : Done := issueLogic xorVal o s
def execXorImm (o : AluI) (s : State) : Done := issueLogicImm xorVal o s
def execAndn (o : Alu2) (s : State) : Done := issueLogic andnVal o s
def execAndnImm (o : AluI) (s : State) : Done := issueLogicImm andnVal o s

/-- Shifts of a w-bit value by a count taken modulo the width. -/
def shlVal (w : Nat) (_ : Bool) (a : W64) (n : Nat) : W64 := BitVec.ofNat 64 (a.toNat * 2 ^ (n % w) % 2 ^ w)
def shrVal (w : Nat) (signed : Bool) (a : W64) (n : Nat) : W64 :=
  BitVec.ofNat 64 (wrapBits w ((readInt signed w (a.toNat % 2 ^ w)).fdiv (2 ^ (n % w))))
def rotVal (w : Nat) (_ : Bool) (a : W64) (n : Nat) : W64 :=
  let x := a.toNat % 2 ^ w
  BitVec.ofNat 64 (x * 2 ^ (n % w) % 2 ^ w + x / 2 ^ (w - n % w))

def issueShift (f : Nat → Bool → W64 → Nat → W64) (o : Alu2) (s : State) : Done :=
  .next (issueLane (o.shape false true)
    (fun x => { val := f o.ty.elemBits o.ty.isSigned x.a (x.b.toNat % 2 ^ 32) }) s)
def issueShiftImm (f : Nat → Bool → W64 → Nat → W64) (o : AluI) (s : State) : Done :=
  .next (issueLane (o.shape false) (fun x => { val := f 32 false x.a o.imm.toNat }) s)

def execShl (o : Alu2) (s : State) : Done := issueShift shlVal o s
def execShlImm (o : AluI) (s : State) : Done := issueShiftImm shlVal o s
def execShr (o : Alu2) (s : State) : Done := issueShift shrVal o s
def execShrImm (o : AluI) (s : State) : Done := issueShiftImm shrVal o s
def execRot (o : Alu2) (s : State) : Done := issueShift rotVal o s
def execRotImm (o : AluI) (s : State) : Done := issueShiftImm rotVal o s

/-! ### Bit counts, bit fields and byte selection (02 R47 to R49) -/

def popcVal (a : W32) : W32 := BitVec.ofNat 32 ((List.range 32).filter (fun i => a.getLsbD i)).length
def clzVal (a : W32) : W32 :=
  BitVec.ofNat 32 (((List.range 32).find? (fun i => a.getLsbD (31 - i))).getD 32)
def brevVal (a : W32) : W32 := BitVec.ofNat 32 ((List.range 32).foldl (fun n i => n * 2 + (a.getLsbD i).toNat) 0)

/-- A one-source instruction on 32-bit values. -/
def issueBits (f : W32 → W32) (o : Alu1) (s : State) : Done :=
  .next (issueLane (o.shape false false) (fun x => { val := (f (x.a.setWidth 32)).setWidth 64 }) s)

def execPopc (o : Alu1) (s : State) : Done := issueBits popcVal o s
def execClz (o : Alu1) (s : State) : Done := issueBits clzVal o s
def execBrev (o : Alu1) (s : State) : Done := issueBits brevVal o s

/-- Position and number of the field's bits that b names (02 R48). -/
def fieldPos (b : W32) : Nat := b.toNat % 32
def fieldLen (b : W32) : Nat := min (min (b.toNat / 256 % 64) 32) (32 - fieldPos b)

def bfeVal (signed : Bool) (a b : W32) : W32 :=
  let n := fieldLen b
  let x := a.toNat / 2 ^ fieldPos b % 2 ^ n
  BitVec.ofInt 32 (if n = 0 then 0 else readInt signed n x)
def bfiVal (a b c : W32) : W32 :=
  let m : W32 := BitVec.ofNat 32 ((2 ^ fieldLen b - 1) * 2 ^ fieldPos b)
  (c &&& ~~~m) ||| ((a <<< fieldPos b) &&& m)

def execBfe (o : BfeOp) (s : State) : Done :=
  .next (issueLane { g := o.g, srcs := [srcOf o.a false, srcOf o.b false], d := some (o.d, false) }
    (fun x => { val := (bfeVal o.signed (x.a.setWidth 32) (x.b.setWidth 32)).setWidth 64 }) s)

def bits3Shape (o : Bits3Op) : Shape :=
  { g := o.g, srcs := [srcOf o.a false, srcOf o.b false, srcOf o.c false], d := some (o.d, false) }

def execBfi (o : Bits3Op) (s : State) : Done :=
  .next (issueLane (bits3Shape o)
    (fun x => { val := (bfiVal (x.a.setWidth 32) (x.b.setWidth 32) (x.c.setWidth 32)).setWidth 64 }) s)

/-- BSEL (02 R49): bytes 0 to 3 are a's, 4 to 7 b's. -/
def bselVal (a b c : W32) : W32 :=
  let byte := fun (k : Nat) =>
    if c.getLsbD (12 + k) then 0 else elemNat 8 (b ++ a : BitVec 64) (c.toNat / 2 ^ (3 * k) % 8)
  (packElems 8 4 byte).setWidth 32

def execBsel (o : Bits3Op) (s : State) : Done :=
  .next (issueLane (bits3Shape o)
    (fun x => { val := (bselVal (x.a.setWidth 32) (x.b.setWidth 32) (x.c.setWidth 32)).setWidth 64 }) s)

/-- LEA (02 R50). -/
def leaVal (signed : Bool) (sh : Nat) (a : W64) (b : W32) : W64 :=
  a + ((if signed then b.signExtend 64 else b.setWidth 64) <<< sh)

def execLea (o : LeaOp) (s : State) : Done :=
  .next (issueLane { g := o.g, srcs := [srcOf o.a true, srcOf o.b false], d := some (o.d, true) }
    (fun x => { val := leaVal o.signed o.sh.toNat x.a (x.b.setWidth 32) }) s)

/-! ### Compare, select and predicates (02 R51 to R54) -/

def condHolds (c : Cond) (a b : Int) : Bool :=
  match c with
  | .eq => a = b | .ne => a ≠ b | .lt => a < b | .le => a ≤ b | .gt => a > b | .ge => a ≥ b

def execIcmp (o : IcmpOp) (s : State) : Done :=
  .next (issueLane (cmpShape o.g o.a o.b o.ty.wide o.ty.wide false o.d.toNat)
    (fun x => { preds := [(o.d.toNat, condHolds o.cond (elemInt o.ty x.a 0) (elemInt o.ty x.b 0))] }) s)

def execPick (o : PickOp) (s : State) : Done :=
  .next (issueLane { g := o.g, srcs := [srcOf o.a o.ty.wide, srcOf o.b o.ty.wide], d := some (o.d, o.ty.wide) }
    (fun x => { val := if x.pred o.c.toNat then x.a else x.b }) s)

def popVal (f : POp) (a b : Bool) : Bool :=
  match f with
  | .and => a && b | .or => a || b | .xor => a ^^ b

/-- PCOMB (02 R53): g(f(a′, b′), c′). -/
def pcombVal (o : PcombOp) (p : Nat → Bool) : Bool :=
  popVal o.h (popVal o.f (p o.a.toNat ^^ o.na) (p o.b.toNat ^^ o.nb)) (p o.c.toNat ^^ o.nc)

def execPcomb (o : PcombOp) (s : State) : Done :=
  .next (issueLane { g := o.g, srcs := [], dp := [o.d.toNat] } (fun x => { preds := [(o.d.toNat, pcombVal o x.pred)] }) s)

def execP2s (o : P2sOp) (s : State) : Done :=
  let k := if o.high then 32 else 0
  .next (issueLane { g := o.g, srcs := [], d := some (.v o.d, false) }
    (fun x => { val := packElems 1 32 (fun j => (x.pred (k + j)).toNat) }) s)

def execS2p (o : S2pOp) (s : State) : Done :=
  let k := if o.high then 32 else 0
  .next (issueLane { g := o.g, srcs := [{ reg := o.a }], dp := (List.range 32).map (k + ·) }
    (fun x => { preds := (List.range 32).map (fun j => (k + j, x.a.getLsbD j)) }) s)

/-! ### Moves (02 R55, R56) -/

def execMov (o : Alu1) (s : State) : Done := .next (issueLane (o.shape false false) (fun x => { val := x.a }) s)

def execMovImm (o : MovI) (s : State) : Done :=
  .next (issueLane { g := o.g, srcs := [], d := some (o.d, false) }
    (fun _ => { val := (o.imm.signExtend 32).setWidth 64 }) s)

/-- The register each lane's index names: a number that may lie outside the allocation. -/
def movxIndex (o : MovxOp) (x : Ctx) (sl : Slice) (lane : Nat) : Int :=
  ((x.readReg sl o.idx false lane).setWidth 32).toInt + o.off.toInt

/-- MOVX as one operation per lane, each on the register its index names. -/
def movxOp (o : MovxOp) (x : Ctx) (sl : Slice) (lane : Nat) : LaneOp :=
  let i : Reg := .v (BitVec.ofNat 7 (movxIndex o x sl lane).toNat)
  match o.dir with
  | .read d => { sh := { g := o.g, srcs := [{ reg := i }, { reg := o.idx }], d := some (.v d, false), only := some lane }
                 f := fun x => { val := x.a } }
  | .write a => { sh := { g := o.g, srcs := [{ reg := a }, { reg := o.idx }], d := some (i, false), only := some lane }
                  f := fun x => { val := x.a } }

/-- The fields MOVX names itself. -/
def movxFields (o : MovxOp) : Shape :=
  match o.dir with
  | .read d => { g := o.g, srcs := [{ reg := o.idx }], d := some (.v d, false) }
  | .write a => { g := o.g, srcs := [{ reg := o.idx }, { reg := a }] }

/-- MOVX (02 R56): the whole slice traps when any executing lane's index lies outside the allocation. -/
def planMovx (o : MovxOp) (x : Ctx) (sl : Slice) : Plan :=
  let own : LaneOp := { sh := movxFields o, f := fun _ => {} }
  match planChecks [own] x sl with
  | some t => .trap t
  | none =>
    let lanes := lanesOf (sl.exec o.g)
    if sl.blocked (own.sh.locs lanes) then .stall (sl.awaited (own.sh.locs lanes) false)
    else if (x.core.shareAll x.slot (own.uses x sl)).isNone then .wait .fullEmpty
    else
      let out := lanes.filter (fun l => movxIndex o x sl l < 0 || (x.wave.allot : Int) ≤ movxIndex o x sl l)
      if out.isEmpty then planSlice (lanes.map (movxOp o x sl)) x sl
      else .trap { code := 0x04, lanes := out.foldl (fun m l => m ||| laneBit l) 0 }

def execMovx (o : MovxOp) (s : State) : Done := .next (issuePlans (planMovx o) (fun _ s => s) s)

end Sys2Proof.Machine
end

