-- ==== Sys2Proof/Machine/FloatCore.lean ====
section
/-!
DEFINITION. Floating-point numbers (03): formats, exact values, rounding with its flags, sums of products, comparison,
classes, conversions, and the special functions on exact integers.  A number is a sign, a natural significand and a power
of two, so every operation is exact until its one rounding.
-/

namespace Sys2Proof.Machine

/-- A binary format (03 R89): exponent bits and fraction bits; E4M3 gives its top exponent ordinary meaning (R90). -/
structure FFmt where
  ebits : Nat
  mbits : Nat
  e4m3 : Bool := false
deriving DecidableEq, Repr

def fp64 : FFmt := { ebits := 11, mbits := 52 }
def fp32 : FFmt := { ebits := 8, mbits := 23 }
def fp16 : FFmt := { ebits := 5, mbits := 10 }
def bf16 : FFmt := { ebits := 8, mbits := 7 }
def e5m2 : FFmt := { ebits := 5, mbits := 2 }
def e4m3 : FFmt := { ebits := 4, mbits := 3, e4m3 := true }

def FFmt.width (f : FFmt) : Nat := 1 + f.ebits + f.mbits
def FFmt.bias (f : FFmt) : Nat := 2 ^ (f.ebits - 1) - 1
/-- The power of two of a subnormal's last place. -/
def FFmt.qmin (f : FFmt) : Int := 1 - (f.bias : Int) - f.mbits
/-- The largest exponent field of a finite number, its power of two in the last place, and its largest significand. -/
def FFmt.emax (f : FFmt) : Nat := if f.e4m3 then 2 ^ f.ebits - 1 else 2 ^ f.ebits - 2
def FFmt.qtop (f : FFmt) : Int := (f.emax : Int) - f.bias - f.mbits
def FFmt.sigtop (f : FFmt) : Nat := if f.e4m3 then 2 ^ (f.mbits + 1) - 2 else 2 ^ (f.mbits + 1) - 1

def FFmt.signBit (f : FFmt) (neg : Bool) : Nat := if neg then 2 ^ (f.width - 1) else 0
/-- Bit patterns of 03 R91. -/
def FFmt.maxBits (f : FFmt) : Nat := f.emax * 2 ^ f.mbits + (f.sigtop - 2 ^ f.mbits)
def FFmt.nanBits (f : FFmt) : Nat :=
  if f.e4m3 then 2 ^ (f.width - 1) - 1 else (2 ^ f.ebits - 1) * 2 ^ f.mbits + 2 ^ (f.mbits - 1)
/-- Infinity; in E4M3 the NaN of the sign (03 R95). -/
def FFmt.infBits (f : FFmt) (neg : Bool) : Nat :=
  f.signBit neg + (if f.e4m3 then 2 ^ (f.width - 1) - 1 else (2 ^ f.ebits - 1) * 2 ^ f.mbits)

/-- An exact floating-point value. -/
inductive FVal where
  | nan (signalling : Bool)
  | inf (neg : Bool)
  /-- (−1)^neg × m × 2^e -/
  | num (neg : Bool) (m : Nat) (e : Int)
deriving DecidableEq, Repr

/-- The value of a bit pattern (03 R89, R90, R92). -/
def FFmt.val (f : FFmt) (bits : Nat) : FVal :=
  let neg := bits / 2 ^ (f.width - 1) % 2 = 1
  let ex := bits / 2 ^ f.mbits % 2 ^ f.ebits
  let fr := bits % 2 ^ f.mbits
  if f.e4m3 && ex = 15 && fr = 7 then .nan false
  else if !f.e4m3 && ex = 2 ^ f.ebits - 1 then
    (if fr = 0 then .inf neg else .nan (fr < 2 ^ (f.mbits - 1)))
  else if ex = 0 then .num neg fr f.qmin
  else .num neg (2 ^ f.mbits + fr) (f.qmin + (ex - 1))

def FVal.isNan : FVal → Bool
  | .nan _ => true
  | _ => false
def FVal.isSignalling : FVal → Bool
  | .nan s => s
  | _ => false
def FVal.isZero : FVal → Bool
  | .num _ 0 _ => true
  | _ => false
def FVal.neg : FVal → FVal
  | .nan s => .nan s
  | .inf n => .inf (!n)
  | .num n m e => .num (!n) m e

/-! ### Rounding (03 R94 to R96) -/

/-- Does rounding go away from zero, for a remainder r below 2^d, d ≥ 1, with something more below when sticky. -/
def roundsUp (rm : Rnd) (neg sticky odd : Bool) (r d : Nat) : Bool :=
  match rm with
  | .rne => let half := 2 ^ (d - 1); half < r || (r = half && (sticky || odd))
  | .rz => false
  | .rup => !neg && (r ≠ 0 || sticky)
  | .rdn => neg && (r ≠ 0 || sticky)

/-- m × 2^e, with something more below when sticky, in units of 2^q: the rounded number, and whether it is inexact. -/
def roundTo (rm : Rnd) (neg sticky : Bool) (m : Nat) (e q : Int) : Nat × Bool :=
  if q ≤ e then
    let n := m * 2 ^ (e - q).toNat
    (if sticky && (match rm with | .rup => !neg | .rdn => neg | _ => false) then n + 1 else n, sticky)
  else
    let d := (q - e).toNat
    let n := m / 2 ^ d
    let r := m % 2 ^ d
    (if roundsUp rm neg sticky (n % 2 = 1) r d then n + 1 else n, r ≠ 0 || sticky)

/-- The delivered pattern of an overflow (03 R95). -/
def FFmt.overflowBits (f : FFmt) (rm : Rnd) (sat neg : Bool) : Nat :=
  let toMax := sat || (match rm with | .rne => false | .rz => true | .rup => neg | .rdn => !neg)
  if toMax then f.signBit neg + f.maxBits else f.infBits neg

/-- Round (−1)^neg × m × 2^e, with something more below when sticky, to a format: the pattern and its flags.  When sticky
the significand has at least three bits more than the format. (DEDUCED, log 50) -/
def FFmt.round (f : FFmt) (rm : Rnd) (sat neg : Bool) (m : Nat) (e : Int) (sticky : Bool := false) : Nat × FFlags :=
  if m = 0 && !sticky then (f.signBit neg, 0)
  else
    let top : Int := (Nat.log2 m : Int) + e
    let q1 := top - f.mbits
    let q := max q1 f.qmin
    let (n, inexact) := roundTo rm neg sticky m e q
    let beyond : Bool := if q ≤ f.qtop then f.sigtop * 2 ^ (f.qtop - q).toNat < n else f.sigtop < n * 2 ^ (q - f.qtop).toNat
    if beyond then (f.overflowBits rm sat neg, FFlags.overflow ||| FFlags.inexact)
    else
      let (n1, _) := roundTo rm neg sticky m e q1
      let tiny : Bool := top < -(f.bias : Int) || (top = -(f.bias : Int) && n1 < 2 ^ (f.mbits + 1))
      (f.signBit neg + (q - f.qmin).toNat * 2 ^ f.mbits + n,
       if inexact then (if tiny then FFlags.inexact ||| FFlags.underflow else FFlags.inexact) else 0)

/-- Round an exact signed dyadic x × 2^e. -/
def FFmt.roundInt (f : FFmt) (rm : Rnd) (sat : Bool) (x : Int) (e : Int) : Nat × FFlags :=
  f.round rm sat (x < 0) x.natAbs e

/-- The sign of a zero sum (03 R94). (DEDUCED, log 50) -/
def zeroSumNeg (rm : Rnd) (signs : List Bool) : Bool :=
  if signs.all id && !signs.isEmpty then true
  else if signs.all (!·) then false
  else match rm with
    | .rdn => true
    | _ => false

/-! ### Sums of products (04 R107, R115) -/

/-- The product of two values that are no NaN, none for 0 × ∞. -/
def FVal.mul : FVal → FVal → Option FVal
  | .nan s, _ => some (.nan s)
  | _, .nan s => some (.nan s)
  | .inf a, .inf b => some (.inf (a ^^ b))
  | .inf a, .num b m _ => if m = 0 then none else some (.inf (a ^^ b))
  | .num a m _, .inf b => if m = 0 then none else some (.inf (a ^^ b))
  | .num a m e, .num b n g => some (.num (a ^^ b) (m * n) (e + g))

/-- The exact sum of numbers, as an integer times the least power of two. -/
def minExp (ts : List (Bool × Nat × Int)) : Int := ts.foldl (fun m t => min m t.2.2) ((ts.head?.map (·.2.2)).getD 0)
def exactSum (ts : List (Bool × Nat × Int)) (q : Int) : Int :=
  ts.foldl (fun acc t => let x : Int := (t.2.1 * 2 ^ (t.2.2 - q).toNat : Nat); if t.1 then acc - x else acc + x) 0

def FVal.num? : FVal → Option (Bool × Nat × Int)
  | .num n m e => some (n, m, e)
  | _ => none
def FVal.inf? : FVal → Option Bool
  | .inf n => some n
  | _ => none

/-- The exact sum of products and addends, rounded once to a format, with the special cases in the order of 04 R115, which
for one product is that of R107. (DEDUCED, log 50) -/
def FFmt.sumProducts (f : FFmt) (rm : Rnd) (sat : Bool) (prods : List (FVal × FVal)) (adds : List FVal) : Nat × FFlags :=
  let all := prods.flatMap (fun p => [p.1, p.2]) ++ adds
  let ps := prods.map (fun p => p.1.mul p.2)
  let terms := ps.filterMap id ++ adds
  let infs := terms.filterMap FVal.inf?
  if all.any (·.isSignalling) then (f.nanBits, FFlags.invalid)
  else if ps.any (·.isNone) then (f.nanBits, FFlags.invalid)
  else if infs.any id && infs.any (!·) then (f.nanBits, FFlags.invalid)
  else if all.any (·.isNan) then (f.nanBits, 0)
  else match infs with
    | n :: _ => (f.infBits n, 0)
    | [] =>
      let ts := terms.filterMap FVal.num?
      let q := minExp ts
      let x := exactSum ts q
      if x = 0 then (f.signBit (zeroSumNeg rm (ts.map (·.1))), 0) else f.roundInt rm sat x q

/-! ### Comparison and minimum (04 R109, R111, R112) -/

/-- Order of two values that are no NaN; −0 and +0 are equal. -/
def FVal.cmp (a b : FVal) : Ordering :=
  match a, b with
  | .inf x, .inf y => if x = y then .eq else if x then .lt else .gt
  | .inf x, _ => if x then .lt else .gt
  | _, .inf y => if y then .gt else .lt
  | .num x m e, .num y n g =>
    let q := min e g
    compare (exactSum [(x, m, e)] q) (exactSum [(y, n, g)] q)
  | _, _ => .eq

/-- a is less than b, −0 below +0. -/
def FVal.below (a b : FVal) : Bool :=
  match a.cmp b with
  | .lt => true
  | .gt => false
  | .eq => match a, b with
    | .num x _ _, .num y _ _ => x && !y
    | _, _ => false

/-- FMIN and FMAX on bit patterns. -/
def FFmt.minMax (f : FFmt) (isMax : Bool) (a b : Nat) : Nat × FFlags :=
  let va := f.val a
  let vb := f.val b
  let flag : FFlags := if va.isSignalling || vb.isSignalling then FFlags.invalid else 0
  if va.isNan && vb.isNan then (f.nanBits, flag)
  else if va.isNan then (b, flag)
  else if vb.isNan then (a, flag)
  else if isMax then (if va.below vb then b else a, 0)
  else (if vb.below va then b else a, 0)

/-- FCMP: the predicate and the flags. -/
def fcmpVal (f : FFmt) (c : FCond) (a b : Nat) : Bool × FFlags :=
  let va := f.val a
  let vb := f.val b
  let anyNan := va.isNan || vb.isNan
  let anyS := va.isSignalling || vb.isSignalling
  let quiet : FFlags := if anyS then FFlags.invalid else 0
  let loud : FFlags := if anyNan then FFlags.invalid else 0
  let o := va.cmp vb
  match c with
  | .eq => (!anyNan && o == .eq, quiet)
  | .ne => (anyNan || o != .eq, quiet)
  | .lt => (!anyNan && o == .lt, loud)
  | .le => (!anyNan && o != .gt, loud)
  | .gt => (!anyNan && o == .gt, loud)
  | .ge => (!anyNan && o != .lt, loud)
  | .num => (!anyNan, quiet)
  | .nan => (anyNan, quiet)

/-- The class of 04 R112. -/
def FFmt.classOf (f : FFmt) (bits : Nat) : Nat :=
  match f.val bits with
  | .nan true => 8
  | .nan false => 9
  | .inf true => 0
  | .inf false => 7
  | .num n m _ =>
    if m = 0 then (if n then 3 else 4)
    else if m < 2 ^ f.mbits then (if n then 2 else 5)
    else (if n then 1 else 6)

/-! ### Integral rounding, scaling, exponents (04 R113, R114) -/

/-- Round a value to an integer under a mode: magnitude and whether it changed. -/
def integral (rm : Rnd) (neg : Bool) (m : Nat) (e : Int) : Nat × Bool := roundTo rm neg false m e 0

def FFmt.frnd (f : FFmt) (rm : Rnd) (exact : Bool) (a : Nat) : Nat × FFlags :=
  match f.val a with
  | .nan s => (f.nanBits, if s then FFlags.invalid else 0)
  | .inf _ => (a, 0)
  | .num n m e =>
    if 0 ≤ e || m = 0 then (a, 0)
    else
      let (x, changed) := integral rm n m e
      ((f.round .rne false n x 0).1, if changed && exact then FFlags.inexact else 0)

/-- FSCALE; a count beyond ±8192 acts as ±8192, where every result has overflowed or underflowed already. -/
def FFmt.fscale (f : FFmt) (rm : Rnd) (sat : Bool) (a : Nat) (b : Int) : Nat × FFlags :=
  match f.val a with
  | .nan s => (f.nanBits, if s then FFlags.invalid else 0)
  | .inf _ => (a, 0)
  | .num n m e => if m = 0 then (a, 0) else f.round rm sat n m (e + max (-8192) (min 8192 b))

def FFmt.fexp (f : FFmt) (a : Nat) : Int × FFlags :=
  match f.val a with
  | .nan _ => (2 ^ 31 - 1, FFlags.invalid)
  | .inf _ => (2 ^ 31 - 1, 0)
  | .num _ m e => if m = 0 then (-(2 ^ 31), FFlags.divZero) else ((Nat.log2 m : Int) + e, 0)

/-! ### Conversions (03 R97 to R100) -/

/-- Floating to floating. -/
def FFmt.convert (src dst : FFmt) (rm : Rnd) (sat : Bool) (a : Nat) : Nat × FFlags :=
  match src.val a with
  | .nan s => (dst.nanBits, if s then FFlags.invalid else 0)
  | .inf n =>
    if sat then (dst.signBit n + dst.maxBits, 0) else (dst.infBits n, if dst.e4m3 then FFlags.invalid else 0)
  | .num n m e => dst.round rm sat n m e

/-- Floating to integer: the low w bits of the result and the flags. -/
def FFmt.toInteger (src : FFmt) (signed : Bool) (w : Nat) (rm : Rnd) (sat : Bool) (a : Nat) : Nat × FFlags :=
  let least : Int := if signed then -(2 ^ (w - 1)) else 0
  let greatest : Int := if signed then 2 ^ (w - 1) - 1 else 2 ^ w - 1
  let clamp := fun (neg : Bool) => if sat then ((if neg then least else greatest) % 2 ^ w).toNat else 2 ^ (w - 1)
  match src.val a with
  | .nan _ => (if sat then 0 else 2 ^ (w - 1), FFlags.invalid)
  | .inf n => (clamp n, FFlags.invalid)
  | .num n m e =>
    let (x, changed) := integral rm n m e
    let v : Int := if n then -(x : Int) else x
    if least ≤ v ∧ v ≤ greatest then ((v % 2 ^ w).toNat, if changed then FFlags.inexact else 0)
    else (clamp n, FFlags.invalid)

/-- Integer to floating. -/
def FFmt.ofInteger (dst : FFmt) (rm : Rnd) (sat : Bool) (x : Int) : Nat × FFlags := dst.roundInt rm sat x 0

/-! ### Special functions (04 R118, R119) -/

/-- Working precision of the transcendental functions, in bits after the point: ample for one correct rounding of a
24-bit significand (log 30). -/
def fxBits : Nat := 640

/-- arctan(1/n) in fixed point, the alternating series, k terms from term i. -/
def atanInvSum (n2 : Nat) : Nat → Nat → Nat → Int
  | 0, _, _ => 0
  | k + 1, i, p => let t : Int := (p / (2 * i + 1) : Nat); (if i % 2 = 0 then t else -t) + atanInvSum n2 k (i + 1) (p / n2)
def atanInv (n : Nat) : Int := atanInvSum (n * n) 160 0 (2 ^ fxBits / n)
/-- π in fixed point, by Machin's formula. -/
def fxPi : Nat := (16 * atanInv 5 - 4 * atanInv 239).toNat

/-- artanh of y in fixed point: k terms of the series. -/
def atanhSum (y2 : Nat) : Nat → Nat → Nat → Nat
  | 0, _, _ => 0
  | k + 1, i, p => p / (2 * i + 1) + atanhSum y2 k (i + 1) (p * y2 / 2 ^ fxBits)
def fxAtanh (y : Nat) : Nat := atanhSum (y * y / 2 ^ fxBits) 220 0 y
/-- ln 2 in fixed point. -/
def fxLn2 : Nat := 2 * fxAtanh (2 ^ fxBits / 3)

/-- Sum of x^i / i! from a given term on, k terms, with the sign and step of the series. -/
def expSum (x : Nat) : Nat → Nat → Nat → Nat
  | 0, _, _ => 0
  | k + 1, i, p => p + expSum x k (i + 1) (p * x / 2 ^ fxBits / (i + 1))
def fxExp (x : Nat) : Nat := expSum x 160 0 (2 ^ fxBits)
/-- Alternating series with terms x^i / i! in steps of two: sine from i = 1, cosine from i = 0. -/
def trigSum (x2 : Nat) : Nat → Nat → Nat → Int
  | 0, _, _ => 0
  | k + 1, i, p => (p : Int) - trigSum x2 k (i + 2) (p * x2 / 2 ^ fxBits / ((i + 1) * (i + 2)))
def fxSin (x : Nat) : Nat := (trigSum (x * x / 2 ^ fxBits) 90 1 x).toNat
def fxCos (x : Nat) : Nat := (trigSum (x * x / 2 ^ fxBits) 90 0 (2 ^ fxBits)).toNat

/-- m × 2^e in fixed point, low bits dropped. -/
def toFx (m : Nat) (e : Int) : Nat :=
  if 0 ≤ e + fxBits then m * 2 ^ (e + fxBits).toNat else m / 2 ^ (-(e + fxBits)).toNat

/-- Round a positive irrational of which x is the fixed-point floor. -/
def FFmt.roundFx (f : FFmt) (rm : Rnd) (neg : Bool) (x : Nat) (e : Int := 0) : Nat × FFlags :=
  f.round rm false neg x (e - fxBits) true

/-- Round a value just below m × 2^e in magnitude. -/
def FFmt.roundBelow (f : FFmt) (rm : Rnd) (neg : Bool) (m : Nat) (e : Int) : Nat × FFlags :=
  f.round rm false neg (m * 2 ^ 64 - 1) (e - 64) true

/-- The special functions. -/
inductive SpecFn where
  | rcp | rsq | sqrt | ex2 | lg2 | sin | cos | tanh
deriving DecidableEq, Repr

/-- 1 / (m × 2^e), m ≠ 0: an integer quotient with its remainder in sticky. -/
def FFmt.rcpNum (f : FFmt) (rm : Rnd) (neg : Bool) (m : Nat) (e : Int) : Nat × FFlags :=
  let k := Nat.log2 m + f.mbits + 8
  f.round rm false neg (2 ^ k / m) (-(k : Int) - e) (2 ^ k % m ≠ 0)

/-- √(m × 2^e): the exponent made even, an integer root with its remainder in sticky. -/
def FFmt.sqrtNum (f : FFmt) (rm : Rnd) (m : Nat) (e : Int) : Nat × FFlags :=
  let k : Int := 2 * (f.mbits + 8 : Nat) + (e % 2)
  let x := m * 2 ^ k.toNat
  let r := Nat.sqrt x
  f.round rm false false r ((e - k) / 2) (r * r ≠ x)

/-- 1/√(m × 2^e). -/
def FFmt.rsqNum (f : FFmt) (rm : Rnd) (m : Nat) (e : Int) : Nat × FFlags :=
  let k : Int := 2 * (Nat.log2 m + f.mbits + 8 : Nat) - (e % 2)
  let x := 2 ^ k.toNat / m
  let r := Nat.sqrt x
  f.round rm false false r (-(e + k) / 2) (r * r * m ≠ 2 ^ k.toNat)

/-- 2^a for a = ±m × 2^e: integer arguments exact, the others irrational. -/
def FFmt.ex2Num (f : FFmt) (rm : Rnd) (neg : Bool) (m : Nat) (e : Int) : Nat × FFlags :=
  if m = 0 then f.round rm false false 1 0
  else if 12 < (Nat.log2 m : Int) + e then f.round rm false false 1 (if neg then -4096 else 4096)
  else
    let x : Int := if neg then -(toFx m e : Int) else toFx m e
    let i := x.fdiv (2 ^ fxBits)
    let fr := (x - i * 2 ^ fxBits).toNat
    if fr = 0 then f.round rm false false 1 i
    else f.roundFx rm false (fxExp (fr * fxLn2 / 2 ^ fxBits)) i

/-- log2 (m × 2^e), m ≠ 0: powers of two exact, the others irrational. -/
def FFmt.lg2Num (f : FFmt) (rm : Rnd) (m : Nat) (e : Int) : Nat × FFlags :=
  let l := Nat.log2 m
  let i := (l : Int) + e
  if m = 2 ^ l then f.roundInt rm false i 0
  else
    let y := (m - 2 ^ l) * 2 ^ fxBits / (m + 2 ^ l)
    let x : Int := i * 2 ^ fxBits + (2 * fxAtanh y * 2 ^ fxBits / fxLn2 : Nat)
    if x < 0 then f.roundFx rm true (-x - 1).toNat else f.roundFx rm false x.toNat

/-- sin and cos of m × 2^e: reduced modulo π/2. -/
def FFmt.sinNum (f : FFmt) (rm : Rnd) (neg : Bool) (m : Nat) (e : Int) : Nat × FFlags :=
  if (Nat.log2 m : Int) + e < -40 then f.roundBelow rm neg m e
  else
    let x := toFx m e
    let h := fxPi / 2
    let k := x / h
    let r := x % h
    f.roundFx rm (neg ^^ (2 ≤ k % 4 : Bool)) (if k % 2 = 0 then fxSin r else fxCos r)
def FFmt.cosNum (f : FFmt) (rm : Rnd) (m : Nat) (e : Int) : Nat × FFlags :=
  if (Nat.log2 m : Int) + e < -40 then f.roundBelow rm false 1 0
  else
    let x := toFx m e
    let h := fxPi / 2
    let k := x / h
    let r := x % h
    f.roundFx rm (k % 4 = 1 || k % 4 = 2) (if k % 2 = 0 then fxCos r else fxSin r)

/-- tanh of ±m × 2^e. -/
def FFmt.tanhNum (f : FFmt) (rm : Rnd) (neg : Bool) (m : Nat) (e : Int) : Nat × FFlags :=
  let top := (Nat.log2 m : Int) + e
  if top < -40 then f.roundBelow rm neg m e
  else if 5 < top then f.roundBelow rm neg 1 0
  else
    let t := 2 * toFx m e
    let k := t / fxLn2
    let x := fxExp (t % fxLn2) * 2 ^ k
    f.roundFx rm neg ((x - 2 ^ fxBits) * 2 ^ fxBits / (x + 2 ^ fxBits))

/-- A special function of a bit pattern: the cases of 04 R119, else the exact value rounded once. -/
def FFmt.special (f : FFmt) (fn : SpecFn) (rm : Rnd) (a : Nat) : Nat × FFlags :=
  let bad := (f.nanBits, FFlags.invalid)
  let one := f.bias * 2 ^ f.mbits
  match f.val a with
  | .nan s => (f.nanBits, if s then FFlags.invalid else 0)
  | .inf n =>
    match fn with
    | .rcp => (f.signBit n, 0)
    | .rsq => if n then bad else (0, 0)
    | .sqrt => if n then bad else (a, 0)
    | .ex2 => if n then (0, 0) else (a, 0)
    | .lg2 => if n then bad else (a, 0)
    | .sin | .cos => bad
    | .tanh => (f.signBit n + one, 0)
  | .num n m e =>
    if m = 0 then
      match fn with
      | .rcp | .rsq => (f.infBits n, FFlags.divZero)
      | .sqrt | .sin | .tanh => (a, 0)
      | .ex2 | .cos => (one, 0)
      | .lg2 => (f.infBits true, FFlags.divZero)
    else
      match fn with
      | .rcp => f.rcpNum rm n m e
      | .rsq => if n then bad else f.rsqNum rm m e
      | .sqrt => if n then bad else f.sqrtNum rm m e
      | .ex2 => f.ex2Num rm n m e
      | .lg2 => if n then bad else f.lg2Num rm m e
      | .sin => f.sinNum rm n m e
      | .cos => f.cosNum rm m e
      | .tanh => f.tanhNum rm n m e

end Sys2Proof.Machine
end

