-- ==== Sys2Proof/Machine/Float.lean ====
section
/-!
DEFINITION. Floating-point, conversion and special-function instructions (04 R106 to R119): each over the elements of one
lane's values, then one meaning per instruction.
-/

namespace Sys2Proof

/-- The floating-point format of a type's elements; the integer types have none and stand for FP32. -/
def Ty.fmt : Ty → Machine.FFmt
  | .f64 => Machine.fp64
  | .f16x2 => Machine.fp16
  | .bf16x2 => Machine.bf16
  | .e4m3x4 => Machine.e4m3
  | .e5m2x4 => Machine.e5m2
  | _ => Machine.fp32

end Sys2Proof

namespace Sys2Proof.Machine

/-! ### Element-wise operations -/

/-- Results of the elements packed, their flags combined (03 R87). -/
def packFlags (w n : Nat) (f : Nat → Nat × FFlags) : LaneOut :=
  { val := packElems w n (fun i => (f i).1)
    flags := (List.range n).foldl (fun e i => e ||| (f i).2) 0 }

/-- An operation on the patterns of one element of a, b and c. -/
abbrev FloatFn := FFmt → Nat → Nat → Nat → Nat × FFlags

def floatVal (f : FloatFn) (t : Ty) (a b c : W64) : LaneOut :=
  packFlags t.elemBits t.elemCount (fun i =>
    f t.fmt (elemNat t.elemBits a i) (elemNat t.elemBits b i) (elemNat t.elemBits c i))

def fAdd (rm : Rnd) (sat : Bool) : FloatFn := fun f a b _ => f.sumProducts rm sat [] [f.val a, f.val b]
def fSub (rm : Rnd) (sat : Bool) : FloatFn := fun f a b _ => f.sumProducts rm sat [] [f.val a, (f.val b).neg]
def fMul (rm : Rnd) (sat : Bool) : FloatFn := fun f a b _ => f.sumProducts rm sat [(f.val a, f.val b)] []
def fFma (rm : Rnd) (sat : Bool) : FloatFn := fun f a b c => f.sumProducts rm sat [(f.val a, f.val b)] [f.val c]
def fMin : FloatFn := fun f a b _ => f.minMax false a b
def fMax : FloatFn := fun f a b _ => f.minMax true a b
def fAbs : FloatFn := fun f a _ _ => (a % 2 ^ (f.width - 1), 0)
def fNeg : FloatFn := fun f a _ _ => ((a + 2 ^ (f.width - 1)) % 2 ^ f.width, 0)
def fCopySign : FloatFn := fun f a b _ => (a % 2 ^ (f.width - 1) + b / 2 ^ (f.width - 1) * 2 ^ (f.width - 1), 0)

def issueFloat2 (f : Rnd → Bool → FloatFn) (o : Alu2) (s : State) : Done :=
  .next (issueLane (o.shape true false) (fun x => floatVal (f o.rnd o.sat) o.ty x.a x.b 0) s)
/-- Full B: f32, RNE, no saturation, the immediate's pattern in place of b (04 R108). -/
def issueFloatImm (f : FloatFn) (o : AluI) (s : State) : Done :=
  .next (issueLane (o.shape true) (fun x => floatVal f .f32 x.a o.float 0) s)

def execFadd (o : Alu2) (s : State) : Done := issueFloat2 fAdd o s
def execFaddImm (o : AluI) (s : State) : Done := issueFloatImm (fAdd .rne false) o s
def execFsub (o : Alu2) (s : State) : Done := issueFloat2 fSub o s
def execFsubImm (o : AluI) (s : State) : Done := issueFloatImm (fSub .rne false) o s
def execFmul (o : Alu2) (s : State) : Done := issueFloat2 fMul o s
def execFmulImm (o : AluI) (s : State) : Done := issueFloatImm (fMul .rne false) o s
def execFfma (o : Alu3) (s : State) : Done :=
  .next (issueLane (o.shape true) (fun x => floatVal (fFma o.rnd o.sat) o.ty x.a x.b x.c) s)
def execFmin (o : Alu2) (s : State) : Done := issueFloat2 (fun _ _ => fMin) o s
def execFminImm (o : AluI) (s : State) : Done := issueFloatImm fMin o s
def execFmax (o : Alu2) (s : State) : Done := issueFloat2 (fun _ _ => fMax) o s
def execFmaxImm (o : AluI) (s : State) : Done := issueFloatImm fMax o s
def execFcpys (o : Alu2) (s : State) : Done := issueFloat2 (fun _ _ => fCopySign) o s

def issueFloat1 (f : FloatFn) (o : Alu1) (s : State) (raises : FFlags := 31) : Done :=
  .next (issueLane (o.shape true false raises) (fun x => floatVal f o.ty x.a 0 0) s)

def execFabs (o : Alu1) (s : State) : Done := issueFloat1 fAbs o s
def execFneg (o : Alu1) (s : State) : Done := issueFloat1 fNeg o s

/-! ### Compare and classify (04 R111, R112) -/

def execFcmp (o : FcmpOp) (s : State) : Done :=
  .next (issueLane (cmpShape o.g o.a o.b o.ty.wide o.ty.wide true o.d.toNat) (fun x =>
    let r := fcmpVal o.ty.fmt o.cond (elemNat o.ty.elemBits x.a 0) (elemNat o.ty.elemBits x.b 0)
    { preds := [(o.d.toNat, r.1)], flags := r.2 }) s)

def execFclass (o : FclassOp) (s : State) : Done :=
  .next (issueLane (cmpShape o.g o.a o.b o.ty.wide false true o.d.toNat) (fun x =>
    { preds := [(o.d.toNat, x.b.getLsbD (o.ty.fmt.classOf (elemNat o.ty.elemBits x.a 0)))] }) s)

/-! ### Dot products (04 R115) -/

/-- c plus the exact products of the elements, rounded to f32. -/
def dotVal (t : Ty) (rm : Rnd) (sat : Bool) (a b c : W64) : LaneOut :=
  let v := fun (x : W64) (i : Nat) => t.fmt.val (elemNat t.elemBits x i)
  let r := fp32.sumProducts rm sat ((List.range t.elemCount).map (fun i => (v a i, v b i)))
    [fp32.val (c.toNat % 2 ^ 32)]
  { val := BitVec.ofNat 64 r.1, flags := r.2 }

def issueDot (o : Alu3) (s : State) : Done :=
  .next (issueLane (o.shape true) (fun x => dotVal o.ty o.rnd o.sat x.a x.b x.c) s)

def execFdot2 (o : Alu3) (s : State) : Done := issueDot o s
def execFdot4 (o : Alu3) (s : State) : Done := issueDot o s

/-! ### Integral rounding, scaling, exponents (04 R113, R114) -/

def execFrnd (o : FrndOp) (s : State) : Done :=
  .next (issueLane { g := o.g, srcs := [srcOf o.a o.ty.wide], d := some (o.d, o.ty.wide), fp := true }
    (fun x => floatVal (fun f a _ _ => f.frnd o.rnd o.exact a) o.ty x.a 0 0) s)

def execFscale (o : Alu2) (s : State) : Done :=
  .next (issueLane (o.shape true true) (fun x =>
    let n := (x.b.setWidth 32).toInt
    floatVal (fun f a _ _ => f.fscale o.rnd o.sat a n) o.ty x.a 0 0) s)

def execFexp (o : Alu1) (s : State) : Done :=
  .next (issueLane (o.shape true true) (fun x =>
    let r := o.ty.fmt.fexp (elemNat o.ty.elemBits x.a 0)
    { val := (BitVec.ofInt 32 r.1).setWidth 64, flags := r.2 }) s)

/-! ### Conversions (04 R116, R117) -/

/-- One element's source or target in a conversion. -/
inductive NumKind where
  | int (signed : Bool) (w : Nat)
  | float (f : FFmt)
deriving DecidableEq, Repr

def NumKind.width : NumKind → Nat
  | .int _ w => w
  | .float f => f.width

/-- Convert one element by the rule for its pair of kinds. -/
def convertElem (src dst : NumKind) (rm : Rnd) (sat : Bool) (a : Nat) : Nat × FFlags :=
  match src, dst with
  | .float f, .float g => f.convert g rm sat a
  | .float f, .int signed w => f.toInteger signed w rm sat a
  | .int signed w, .float g => g.ofInteger rm sat (readInt signed w a)
  | .int signed w, .int signed' w' => (narrowInt signed' sat w' (readInt signed w a), 0)

/-- What a conversion code does: the kinds, and where each element of the result comes from: source 0 or 1 and element. -/
structure CvtSpec where
  src : NumKind
  dst : NumKind
  elems : List (Nat × Nat)
  /-- place of the first element in the result; other elements are kept from c -/
  at_ : Nat := 0
  merge : Bool := false

def s32k : NumKind := .int true 32
def n32k : NumKind := .int false 32
def s64k : NumKind := .int true 64
def n64k : NumKind := .int false 64
def intKind (i : Nat) : NumKind := match i with | 0 => s32k | 1 => n32k | 2 => s64k | _ => n64k

/-- The table of 04 R116. -/
def cvtSpec (code : Nat) : CvtSpec :=
  let one := [(0, 0)]
  if code < 0x04 then { src := intKind code, dst := .float fp32, elems := one }
  else if code < 0x08 then { src := intKind (code - 0x04), dst := .float fp64, elems := one }
  else if code < 0x0C then { src := .float fp32, dst := intKind (code - 0x08), elems := one }
  else if code < 0x10 then { src := .float fp64, dst := intKind (code - 0x0C), elems := one }
  else if code = 0x10 then { src := .float fp32, dst := .float fp64, elems := one }
  else if code = 0x11 then { src := .float fp64, dst := .float fp32, elems := one }
  else if code = 0x12 then { src := s64k, dst := s32k, elems := one }
  else if code = 0x13 then { src := n64k, dst := n32k, elems := one }
  else if code = 0x14 then { src := s32k, dst := s64k, elems := one }
  else if code = 0x15 then { src := n32k, dst := n64k, elems := one }
  else if code = 0x16 then { src := s32k, dst := n32k, elems := one }
  else if code = 0x17 then { src := n32k, dst := s32k, elems := one }
  else if code = 0x18 then { src := .float fp32, dst := .float fp16, elems := [(0, 0), (1, 0)] }
  else if code = 0x19 then { src := .float fp32, dst := .float bf16, elems := [(0, 0), (1, 0)] }
  else if code = 0x1A then { src := .float fp32, dst := .float e4m3, elems := [(0, 0), (1, 0)], merge := true }
  else if code = 0x1B then { src := .float fp32, dst := .float e4m3, elems := [(0, 0), (1, 0)], at_ := 2, merge := true }
  else if code = 0x1C then { src := .float fp32, dst := .float e5m2, elems := [(0, 0), (1, 0)], merge := true }
  else if code = 0x1D then { src := .float fp32, dst := .float e5m2, elems := [(0, 0), (1, 0)], at_ := 2, merge := true }
  else if code = 0x1E then { src := .float bf16, dst := .float fp16, elems := [(0, 0), (0, 1)] }
  else if code = 0x1F then { src := .float fp16, dst := .float bf16, elems := [(0, 0), (0, 1)] }
  else if code < 0x22 then { src := .float fp16, dst := .float fp32, elems := [(0, code - 0x20)] }
  else if code < 0x24 then { src := .float bf16, dst := .float fp32, elems := [(0, code - 0x22)] }
  else if code < 0x28 then { src := .float e4m3, dst := .float fp32, elems := [(0, code - 0x24)] }
  else if code < 0x2C then { src := .float e5m2, dst := .float fp32, elems := [(0, code - 0x28)] }
  else if code = 0x2C then { src := s32k, dst := .int true 16, elems := [(0, 0), (1, 0)] }
  else if code = 0x2D then { src := n32k, dst := .int false 16, elems := [(0, 0), (1, 0)] }
  else if code = 0x2E then { src := .int true 16, dst := .int true 8, elems := [(0, 0), (0, 1), (1, 0), (1, 1)] }
  else if code = 0x2F then { src := .int false 16, dst := .int false 8, elems := [(0, 0), (0, 1), (1, 0), (1, 1)] }
  else if code < 0x32 then { src := .int true 16, dst := s32k, elems := [(0, code - 0x30)] }
  else if code < 0x34 then { src := .int false 16, dst := n32k, elems := [(0, code - 0x32)] }
  else if code < 0x38 then { src := .int true 8, dst := s32k, elems := [(0, code - 0x34)] }
  else { src := .int false 8, dst := n32k, elems := [(0, code - 0x38)] }

/-- The converted value, with c's kept elements where the code merges. -/
def cvtVal (code : Nat) (rm : Rnd) (sat : Bool) (a b c : W64) : LaneOut :=
  let k := cvtSpec code
  let w := k.dst.width
  let conv := fun (i : Nat) =>
    let e := k.elems.getD i (0, 0)
    convertElem k.src k.dst rm sat (elemNat k.src.width (if e.1 = 0 then a else b) e.2)
  let n := k.elems.length
  let r := packFlags w n conv
  if k.merge then
    { r with val := packElems w 4 (fun j => if k.at_ ≤ j ∧ j < k.at_ + n then (conv (j - k.at_)).1 else elemNat w c j) }
  else r

/-- Sources the code reads, with the one last-read bit for all of them. -/
def cvtShape (o : CvtOp) : Shape :=
  let k := cvtSpec o.code.toNat
  { g := o.g
    srcs := { reg := o.a, wide := k.src.width = 64, last := o.last }
      :: (o.b.toList ++ o.c.toList).map (fun r => { reg := r, last := o.last })
    d := some (o.d, k.dst.width = 64), fp := true }

def execCvt (o : CvtOp) (s : State) : Done :=
  .next (issueLane (cvtShape o) (fun x => cvtVal o.code.toNat o.rnd o.sat x.a x.b x.c) s)

/-! ### Special functions (04 R118) -/

/-- The exceptions a function can raise (04 R118): its lookahead closes only for one of them (07 R167). -/
def SpecFn.raises : SpecFn → FFlags
  | .rcp => 31
  | .rsq | .lg2 => .invalid ||| .divZero ||| .inexact
  | .ex2 => .invalid ||| .overflow ||| .underflow ||| .inexact
  | .sin | .tanh => .invalid ||| .underflow ||| .inexact
  | .sqrt | .cos => .invalid ||| .inexact

def issueSpecial (fn : SpecFn) (o : Alu1) (s : State) : Done :=
  issueFloat1 (fun f a _ _ => f.special fn o.rnd a) o s (SpecFn.raises fn)

def execRcp (o : Alu1) (s : State) : Done := issueSpecial .rcp o s
def execRsq (o : Alu1) (s : State) : Done := issueSpecial .rsq o s
def execSqrt (o : Alu1) (s : State) : Done := issueSpecial .sqrt o s
def execEx2 (o : Alu1) (s : State) : Done := issueSpecial .ex2 o s
def execLg2 (o : Alu1) (s : State) : Done := issueSpecial .lg2 o s
def execSin (o : Alu1) (s : State) : Done := issueSpecial .sin o s
def execCos (o : Alu1) (s : State) : Done := issueSpecial .cos o s
def execTanh (o : Alu1) (s : State) : Done := issueSpecial .tanh o s

end Sys2Proof.Machine
end

