-- ==== Sys2Proof/Machine/CrossLane.lean ====
section
/-!
DEFINITION. Cross-lane instructions (04 R123 to R128): the segment meeting, reading other lanes, votes, and the fixed trees
of REDL and SCANL.
-/

namespace Sys2Proof.Machine

/-! ### Segments and the meeting (04 R123) -/

/-- Slices of the wave in the segment of slice k, for segments of w lanes: the slice itself for 4 lanes or fewer. -/
def segSlices (width w k : Nat) : List Nat :=
  let n := max 1 (min w width / 4)
  (List.range n).map (fun i => k / n * n + i)

/-- Slices the meeting of slice k waits for: those of its segment that have not ended. -/
def Wave.meets (x : Wave) (w k : Nat) : List Nat :=
  (segSlices x.width w k).filter (fun j => (Store.find? x.slices j).any (fun sl => !sl.ended))

/-- The slice of a wave lane, as a context. -/
def Ctx.at_ (x : Ctx) (k : Nat) : Ctx := { x with k }

/-- A register of any lane of the wave, as it stands. -/
def Ctx.laneVal (x : Ctx) (n : Nat) (wide : Bool) (lane : Nat) : W64 :=
  (x.at_ (lane / 4)).readReg (x.wave.slice (lane / 4)) (.v (BitVec.ofNat 7 n)) wide (lane % 4)

/-- The lanes of the wave with exec(L), among the first width. -/
def Ctx.execLane (x : Ctx) (g : Option Guard) (lane : Nat) : Bool :=
  ((x.wave.slice (lane / 4)).exec g).getLsbD (lane % 4)
def Ctx.predLane (x : Ctx) (p lane : Nat) : Bool := ((x.wave.slice (lane / 4)).pred p).getLsbD (lane % 4)

/-- The lanes with exec(L) in the segment of the slice. -/
def Ctx.segMask (x : Ctx) (w : Nat) (g : Option Guard) : Mask64 :=
  (segSlices x.wave.width w x.k).foldl (fun m k => m ||| waveLanes k ((x.wave.slice k).exec g)) 0

/-- All four lanes of the source register, so that a lane without exec(L) is read once its value has landed. -/
def Shape.allLocs (sh : Shape) : List Loc :=
  (List.range 4).flatMap (fun l => sh.srcs.flatMap (fun o => regLocs o.reg o.wide l))

/-- A cross-lane instruction on segments of w lanes: the slice waits unless every slice of its segment issues with it; a
lane's result may read every lane of the wave as it stood, and a trap of a segment's tree names every lane with exec(L) there
(04 R128). -/
def planCross (w : Nat) (sh : Shape) (f : Ctx → LaneIn → LaneOut) (x : Ctx) (sl : Slice) : Plan :=
  let op : LaneOp := { sh, f := f x }
  match planChecks [op] x sl with
  | some t => .trap t
  | none =>
    if sl.blocked sh.allLocs then .stall (sl.awaited sh.allLocs false)
    else if (x.wave.meets w x.k).all (fun j => x.gang.contains j) then
      match planSlice [op] x sl with
      | .run s fl sh' p qs => .run { s with marks := s.marks ++ ((sh.markLocs (lanesOf (sl.exec sh.g))).filter
          (fun l => !s.marks.contains l && !x.isShared l && ((op.writes (op.results x sl)).all (fun w => w.1 ≠ l)))) } fl sh' p qs
      | .trap t => .trap (if isFpCode t.code then { t with others := x.segMask w sh.g } else t)
      | p => p
    else .wait (.meeting (min w x.wave.width / 4))

def issueCross (w : Nat) (sh : Shape) (f : Ctx → LaneIn → LaneOut) (s : State) : Done :=
  .next (issuePlans (planCross w sh f) (fun _ s => s) s)

/-! ### Shuffles (04 R124) -/

/-- Which lane of the segment a lane takes, from its place j, the operand k and the segment width w. -/
abbrev ShuffleFn := (w j k : Nat) → Nat

def shflSource : ShuffleFn := fun w _ k => k % w
def shflxSource : ShuffleFn := fun w j k => j ^^^ (k % w)
def shflupSource : ShuffleFn := fun _ j k => if j < k then j else j - k
def shfldnSource : ShuffleFn := fun w j k => if w ≤ j + k then j else j + k

def issueShuffle (src : ShuffleFn) (o : ShflOp) (s : State) : Done :=
  let seg := 4 * 2 ^ o.seg.toNat
  issueCross seg
    { g := o.g, srcs := [{ reg := .v o.a, wide := o.ty.wide, last := o.aLast }, srcOf o.b false]
      d := some (.v o.d, o.ty.wide), look := o.look.toNat }
    (fun x i =>
      let w := min seg x.wave.width
      let lane := 4 * x.k + i.lane
      let base := lane / w * w
      { val := x.laneVal o.a.toNat o.ty.wide (base + src w (lane - base) (i.b.toNat % 64)) }) s

def execShfl (o : ShflOp) (s : State) : Done := issueShuffle shflSource o s
def execShflx (o : ShflOp) (s : State) : Done := issueShuffle shflxSource o s
def execShflup (o : ShflOp) (s : State) : Done := issueShuffle shflupSource o s
def execShfldn (o : ShflOp) (s : State) : Done := issueShuffle shfldnSource o s

/-! ### VOTE, BALLOT and RDLANE (04 R125, R126) -/

def Ctx.lanes (x : Ctx) (g : Option Guard) : List Nat := (List.range x.wave.width).filter (x.execLane g)

def voteVal (m : VoteMode) (ps : List Bool) : Bool :=
  match m with
  | .all => ps.all id
  | .any => ps.any id
  | .uni => ps.all id || ps.all (!·)

def execVote (o : VoteOp) (s : State) : Done :=
  issueCross 64 { g := o.g, srcs := [] }
    (fun x _ => { preds := [(o.d.toNat, voteVal o.mode ((x.lanes o.g).map (x.predLane o.a.toNat)))] }) s

/-- The s pair of a field. -/
def pairReg (p : SPair) : Reg := .s (BitVec.ofNat 6 (2 * p.toNat))

def execBallot (o : BallotOp) (s : State) : Done :=
  issueCross 64 { g := o.g, srcs := [], d := some (pairReg o.d, true) }
    (fun x _ => { val := (x.lanes o.g).foldl (fun m l => if x.predLane o.a.toNat l then m ||| (1#64 <<< l) else m) 0 }) s

def execRdlane (o : RdlaneOp) (s : State) : Done :=
  issueCross 64
    { g := o.g
      srcs := { reg := .v o.a, wide := o.ty.wide, last := o.aLast } :: o.b.toList.map (fun b => { reg := .s b.1, last := b.2 })
      d := some (.s o.d, o.ty.wide) }
    (fun x i =>
      let lane := match o.b with
        | some _ => i.b.toNat % x.wave.width
        | none => (x.lanes o.g).headD 0
      { val := x.laneVal o.a.toNat o.ty.wide lane }) s

/-! ### REDL and SCANL (04 R127, R128) -/

/-- The combining operations. -/
inductive TreeOp where
  | add | min | max | and | or | xor
deriving DecidableEq, Repr

def redlOp : Nat → TreeOp
  | 0 => .add | 1 => .min | 2 => .max | 3 => .and | 4 => .or | _ => .xor
def scanlOp (n : Nat) : TreeOp := match n % 4 with
  | 0 => .add | 1 => .min | 2 => .max | _ => .or

def Ty.isFloat : Sys2Proof.Ty → Bool
  | .f32 | .f64 | .f16x2 | .bf16x2 => true
  | _ => false

/-- The operation's identity on one value of the type. -/
def treeIdentity (op : TreeOp) (t : Sys2Proof.Ty) : W64 :=
  let w := t.elemBits
  packElems w t.elemCount (fun _ =>
    match op with
    | .add => if Ty.isFloat t then t.fmt.signBit true else 0
    | .min => if Ty.isFloat t then t.fmt.infBits false else wrapBits w (intMax t.isSigned w)
    | .max => if Ty.isFloat t then t.fmt.infBits true else wrapBits w (intMin t.isSigned w)
    | .and => 2 ^ w - 1
    | .or | .xor => 0)

/-- One node. -/
def treeNode (op : TreeOp) (t : Sys2Proof.Ty) (a b : W64) : LaneOut :=
  match op with
  | .add => if Ty.isFloat t then floatVal (fAdd .rne false) t a b 0 else { val := intVal intAdd t false a b 0 }
  | .min => if Ty.isFloat t then floatVal fMin t a b 0 else { val := intVal intMinOf t false a b 0 }
  | .max => if Ty.isFloat t then floatVal fMax t a b 0 else { val := intVal intMaxOf t false a b 0 }
  | .and => { val := a &&& b }
  | .or => { val := a ||| b }
  | .xor => { val := a ^^^ b }

/-- Values and flags of one level of the tree. -/
def treeLevel (op : TreeOp) (t : Sys2Proof.Ty) : List W64 → List W64 × FFlags
  | a :: b :: rest =>
    let r := treeNode op t a b
    let (xs, fl) := treeLevel op t rest
    (r.val :: xs, r.flags ||| fl)
  | xs => (xs, 0)

/-- The tree over a list of 2^n values. -/
def treeFold (op : TreeOp) (t : Sys2Proof.Ty) : Nat → List W64 → LaneOut
  | 0, xs => { val := xs.headD 0 }
  | n + 1, xs =>
    let (ys, fl) := treeLevel op t xs
    let r := treeFold op t n ys
    { r with flags := r.flags ||| fl }

/-- The tree over a segment of w lanes from base: positions taken hold their lane's value, the others the identity. -/
def Ctx.tree (x : Ctx) (op : TreeOp) (t : Sys2Proof.Ty) (a w base : Nat) (taken : Nat → Bool) : LaneOut :=
  treeFold op t (Nat.log2 w)
    ((List.range w).map (fun p => if taken p then x.laneVal a t.wide (base + p) else treeIdentity op t))

/-- Segment width of REDL and SCANL. -/
def treeSegment (seg : BitVec 2) (width : Nat) : Nat :=
  match seg.toNat with
  | 0 => width
  | 1 => min 16 width
  | 2 => min 8 width
  | _ => 4

def redlShape (o : LaneRedOp) : Shape :=
  { g := o.g, srcs := [{ reg := .v o.a, wide := o.ty.wide, last := o.last }], d := some (.v o.d, o.ty.wide)
    look := o.look.toNat, fp := Ty.isFloat o.ty }

def execRedl (o : LaneRedOp) (s : State) : Done :=
  issueCross (treeSegment o.seg 64)
    { redlShape o with raises := if redlOp o.op.toNat = .add then .invalid ||| .overflow ||| .inexact else .invalid }
    (fun x i =>
      let w := treeSegment o.seg x.wave.width
      let base := (4 * x.k + i.lane) / w * w
      x.tree (redlOp o.op.toNat) o.ty o.a.toNat w base (fun p => x.execLane o.g (base + p))) s

/-- SCANL: the flags are those of every executing lane's tree in the segment. -/
def execScanl (o : LaneRedOp) (s : State) : Done :=
  issueCross (treeSegment o.seg 64)
    { redlShape o with raises := if scanlOp o.op.toNat = .add then .invalid ||| .overflow ||| .inexact else .invalid }
    (fun x i =>
      let w := treeSegment o.seg x.wave.width
      let base := (4 * x.k + i.lane) / w * w
      let tree := fun (j : Nat) => x.tree (scanlOp o.op.toNat) o.ty o.a.toNat w base
        (fun p => x.execLane o.g (base + p) && (p < j || (p = j && o.op.toNat < 4)))
      { val := (tree (4 * x.k + i.lane - base)).val
        flags := if Ty.isFloat o.ty then
            ((List.range w).filter (fun j => x.execLane o.g (base + j))).foldl (fun e j => e ||| (tree j).flags) 0
          else 0 }) s

/-- SEGMENT_MEETING_RELEASE (04 R123): once every slice of the segment that has not ended waits at one PC, they form one
gang and go on. -/
def execSegmentMeetingRelease (w : SliceRef) (s : State) : Done :=
  match s.wave? w.core w.slot with
  | none => .next s
  | some x =>
    match (x.slice w.slice).wait with
    | some (.meeting n) =>
      let ks := x.meets (4 * n) w.slice
      if ks.all (fun k => (x.slice k).wait = some (.meeting n) && (x.slice k).pc = (x.slice w.slice).pc) then
        let x := ks.foldl (fun (x : Wave) k => x.setSlice k { x.slice k with wait := none }) x
        .next (s.setWave w.core w.slot (x.formGang ks (((x.gangOf? w.slice).map (·.age)).getD 0)))
      else .next s
    | _ => .next s

end Sys2Proof.Machine
end

