-- ==== Sys2Proof/Machine/Atomic.lean ====
section
/-!
DEFINITION. Atomics, memory-side reductions, fences, monitors, counter waits, prefetches and barrier objects (10 R200 to
R213, 02 R65), and the events that complete them.
-/

namespace Sys2Proof

/-- The register type an atomic type reads as (10 R200). -/
def AtomTy.ty : AtomTy → Ty
  | .n32 => .n32 | .s32 => .s32 | .n64 => .n64 | .s64 => .s64
  | .f32 => .f32 | .f16x2 => .f16x2 | .bf16x2 => .bf16x2 | .b32 => .b32
def AtomTy.bytes (t : AtomTy) : Nat := if t.ty.wide then 8 else 4

/-- The combining operation of an atomic; none for XCHG and CAS. -/
def AtomKind.tree : AtomKind → Option Machine.TreeOp
  | .add => some .add | .min => some .min | .max => some .max
  | .and => some .and | .or => some .or | .xor => some .xor
  | .xchg | .cas => none

def RedKind.tree : RedKind → Machine.TreeOp
  | .add => .add | .min => .min | .max => .max

end Sys2Proof

namespace Sys2Proof.Machine

/-! ### Going on after a wait -/

/-- The instruction a slice waits at is done: it stands at the next one. -/
def State.resume (s : State) (core slot k : Nat) : State :=
  s.modSlice core slot k (fun sl => { sl.tickWindows with pc := sl.pc.next, wait := none })

/-- The slices of the gang of a slice. -/
def State.mates (s : State) (w : SliceRef) : List Nat :=
  match (s.wave? w.core w.slot).bind (fun x => x.gangOf? w.slice) with
  | some g => sortNat g.slices
  | none => [w.slice]

/-- Mark the last-read sources of an instruction that has begun to wait, those that are not shared. -/
def State.markNow (s : State) (sh : Shape) (lanes : List Nat) (k : Nat) : State :=
  let shared := fun (l : Loc) => match l with
    | .v n _ => ((s.core s.now.core).sharedAt s.now.slot n).isSome
    | .s _ => false
  s.modNow k (fun sl => { sl with marks := sl.marks ++ (sh.markLocs lanes).filter (fun l => !sl.marks.contains l && !shared l) })

/-! ### Values at the home (10 R202, R203, R206) -/

/-- The value an atomic writes. -/
def atomNew (kind : AtomKind) (ty : AtomTy) (old b c : W64) : W64 :=
  match kind.tree with
  | some op => (treeNode op ty.ty old b).val
  | none => if kind = .xchg then b else if old = c then b else old

def bytesVal (bs : List Byte) : W64 := BitVec.ofNat 64 (ofLeBytes bs)

/-- Read a byte range at its primary home, write what f makes of it, and answer the old value; a region that has turned
secure gives a free value and takes nothing. -/
def State.homeRmw (s : State) (secure : Bool) (p : Part) (id fresh : Nat) (f : W64 → W64) : W64 × State :=
  if s.worldOk secure p.place p.addr then
    let s := (s.checkLine p.place p.addr).holdHostLine p.place p.addr
    let old := bytesVal (s.homeRead (primaryDie p.addr) p.place p.addr p.size fresh)
    (old, s.homeWrite p.place p.addr (leBytes p.size (f old).toNat) p.rep id)
  else (BitVec.ofNat 64 (Config.pick fresh), s)

/-- The die whose LLC slices or base dies serve a location counts an operation there (28 R471). -/
def State.countHome (s : State) (p : Place) (a k : Nat) : State := match p with
  | .hbm | .tier2 => s.bumpDie (Config.lineDie (a / 128) % 2) k 1
  | _ => s

/-- Atomics of one location, lane by lane, consecutively. -/
def State.atomParts (s : State) (a : Access) (id : Nat) (kind : AtomKind) (ty : AtomTy) :
    List Part → List (Nat × W64) × State
  | [] => ([], s)
  | p :: ps =>
    let (old, s) := (s.deny a p).homeRmw a.secure p id (s.fresh + 8192 + 32 * p.lane)
      (fun old => atomNew kind ty old (bytesVal p.data) (bytesVal p.cmp))
    let s := s.passL1 a.dom p.place p.addr p.size
    let (rest, s) := State.atomParts (s.countHome p.place p.addr 9) a id kind ty ps
    ((p.lane, old) :: rest, s)

/-- The lanes of the access that name the location of a part. (DEDUCED, log 45) -/
def Access.group (a : Access) (p : Part) : List Part := a.parts.filter (fun q => q.place == p.place && q.addr = p.addr)

/-- The four tree positions of a location's lanes (10 R203): operands of the lanes taken, the identity elsewhere. (DEDUCED, log 45) -/
def treePositions (op : TreeOp) (ty : AtomTy) (g : List Part) (taken : Nat → Bool) : List W64 :=
  (List.range 4).map (fun l => match g.find? (fun q => q.lane = l && taken l) with
    | some q => bytesVal q.data
    | none => treeIdentity op ty.ty)

/-- The value a lane fetches from what a peer answered. -/
def peerFetched (kind : AtomKind) (ty : AtomTy) (a : Access) (p : Part) (bs : List Byte) : W64 :=
  let g := a.group p
  match kind.tree with
  | some op =>
    let old := bytesVal (bs.take p.size)
    if g.length ≤ 1 then old
    else (treeNode op ty.ty old (treeFold op ty.ty 2 (treePositions op ty g (fun l => l < p.lane))).val).val
  | none => bytesVal ((bs.drop (p.size * (g.filter (fun q => q.lane < p.lane)).length)).take p.size)

/-- The request a location's lanes send to a peer: its first lane carries it. -/
def peerAtom (kind : AtomKind) (ty : AtomTy) (a : Access) (i : Nat) (p : Part) : Option PacketBody :=
  let g := a.group p
  if a.parts.findIdx? (fun q => q.place == p.place && q.addr = p.addr) ≠ some i then none
  else if g.length ≤ 1 then some (.atomic p.addr kind ty (bytesVal p.data) (bytesVal p.cmp))
  else match kind.tree with
    | some op => some (.atomic p.addr kind ty (treeFold op ty.ty 2 (treePositions op ty g (fun _ => true))).val 0)
    | none => some (.atomicLanes p.addr kind ty (g.map (fun q => (bytesVal q.data, bytesVal q.cmp))))

/-! ### Results of an access in a queue (02 R43): one row for the instruction, which its accesses fill as they return -/

def Wave.queueRow (x : Wave) (q : Nat) : Nat := ((Store.find? x.queues q).map (·.row)).getD 0

/-- The row an instruction pushes, once for the issue of a gang whose wave stood as x0; these accesses are to fill it. -/
def Wave.openRow (x x0 : Wave) (q : Nat) (ids : List Nat) : Wave :=
  if x.queueRow q = x0.queueRow q then x.pushRow q [] ids
  else
    { x with queues := Store.update x.queues q (fun b =>
        match b.held.getLast? with
        | none => b
        | some r => { b with held := b.held.dropLast ++ [{ r with awaits := r.awaits ++ ids }] }) }

/-- Pop the queues among the sources, once for the issue of a gang whose wave stood as x0. -/
def Wave.popOnce (x x0 : Wave) (sh : Shape) : Wave :=
  sh.pops.eraseDups.foldl (fun (x : Wave) q => if x.queueRow q = x0.queueRow q then x.pop q else x) x

/-- The number under which a wave's shared registers stand: its slot, or past the slots its entry of the park store. -/
def State.shareSlot (s : State) (a : Access) : Nat :=
  if s.gen a.core a.slot = a.gen then a.slot
  else ((List.find? (fun (p : Nat × Parked) => p.2.slot = a.slot && p.2.gen = a.gen) (s.core a.core).parked).map (fun p => 64 + p.1)).getD a.slot

/-- A value that an edge's access brings to a shared register fills it: its edge is complete (07 R161). -/
def Core.fillShare (k : Core) (slot n l : Nat) (x : W32) : Core :=
  match k.sharedAt slot n with
  | none => k
  | some (i, off) =>
    match k.shared[i]? with
    | none => k
    | some h => { k with shared := k.shared.set i { h with
        vals := Store.set h.vals 0 (64 * off + l) x
        st := if Store.find? h.st (64 * off + l) = some (.filled slot) then Store.insert h.st (64 * off + l) .full else h.st } }

/-- The registers an access of the slice still awaits, resident or parked. -/
def State.awaitedBy (s : State) (a : Access) (id : Nat) : List Loc :=
  match (s.ownerWave? a).bind (fun x => Store.find? x.slices a.slice) with
  | some sl => (sl.out.filter (fun o => o.id = id)).map (·.loc)
  | none => []

/-- Deliver fetched values to the lanes of an access. -/
def State.deliverLanes (s : State) (id : Nat) (a : Access) (d : Reg) (wide : Bool) (vals : List (Nat × W64)) : State :=
  match d with
  | .q n => s.modOwnerWave a.core a.slot a.gen (fun x =>
      x.fillRow n.toNat a.row id (vals.map (fun v => (4 * a.slice + v.1, v.2))))
  | _ =>
    let ws := vals.flatMap (fun v => destWrites d wide v.1 v.2)
    let due := s.awaitedBy a id
    let slot := s.shareSlot a
    let s := s.landAll a id ws
    let core := s.core a.core
    if core.shared.isEmpty then s
    else s.setCore a.core ((ws.filter (fun w => due.contains w.1)).foldl (fun (k : Core) w => match w.1 with
      | .v m l => k.fillShare slot m (4 * a.slice + l) w.2
      | .s _ => k) core)

/-- Writes that will not come are forgotten. -/
def State.forget (s : State) (id : Nat) (a : Access) : State :=
  let s := s.modOwner a.core a.slot a.gen a.slice (fun sl => { sl with out := sl.out.filter (fun o => o.id ≠ id) })
  match a.kind with
  | .atom (some (.q n)) _ _ _ => s.modOwnerWave a.core a.slot a.gen (fun x => x.fillRow n.toNat a.row id [])
  | _ => s

/-- ATOM at its home, or with its peers' answers: the old values return (10 R202 to R205). (DEDUCED, log 45) -/
def State.atomPerform (s : State) (id : Nat) (a : Access) (d : Option Reg) (kind : AtomKind) (ty : AtomTy)
    (scope : Sys2Proof.Scope) : State :=
  let s := a.parts.foldl (fun (s : State) p => s.meet a.core a.slot a.gen a.slice (some scope) p.place p.addr p.size) s
  let peers := a.parts.filterMap (fun p => match p.got with
    | some (.data bs) => some (p, peerFetched kind ty a p bs)
    | _ => none)
  let (vals, s) := s.atomParts a id kind ty (a.parts.filter (fun p => !p.place.isPeer))
  let s := peers.foldl (fun (s : State) p =>
    ((s.passL1 a.dom p.1.place p.1.addr p.1.size).contestL1 p.1.place p.1.addr p.1.size id).noFillFrom a.dom (some (p.1.place, p.1.addr))) s
  let vals := vals ++ peers.map (fun p => (p.1.lane, p.2))
  let s := match d with
    | some d => s.deliverLanes id a d ty.ty.wide vals
    | none => s
  let s := (s.forget id a).deferErrors a
  (s.acquireFor a scope).finish id a

/-- RED.M is applied in the base die, lane by lane (10 R206). -/
def State.redmPerform (s : State) (id : Nat) (a : Access) (kind : RedKind) (ty : Ty) : State :=
  let s := (a.parts.filter (fun p => !p.place.isPeer)).foldl (fun (s : State) p =>
    let (_, s) := (s.deny a p).homeRmw a.secure p id (s.fresh + 8192 + 32 * p.lane)
      (fun old => (treeNode kind.tree ty old (bytesVal p.data)).val)
    (s.countHome p.place p.addr 10).passL1 a.dom p.place p.addr p.size) s
  (s.deferErrors a).finish id a

/-- An earlier reduction of the slice on this package has not been applied. -/
def State.redmAhead (s : State) (id : Nat) (a : Access) : Bool :=
  (s.pendingOf a.core a.slot a.slice a.gen).any (fun b => b.1 < id && b.2.kind.isRedm && b.2.parts.any (fun p => !p.place.isPeer))

/-- An access of the slice issued before this one, or a write that happens before it, has not come to the point of a scope. -/
def State.releaseAhead (s : State) (id : Nat) (a : Access) (scope : Sys2Proof.Scope) : Bool :=
  let short := fun (b : Access) => match s.ownerWave? a with
    | some x => !s.pushed x a.dom scope b
    | none => true
  let oneCore := ((s.ownerWave? a).map s.oneCoreTeam).getD true
  (s.pendingOf a.core a.slot a.slice a.gen).any (fun b => b.1 < id && (b.2.kind.isRead || (b.2.kind.isWrite && short b.2)))
    || a.after.past.any (fun i => ((Store.find? s.inflight i).map (fun b => !b.returned && short b)).getD false)
    || s.replicaWrites.any (fun w => replicaNeeded scope oneCore false (dieOf a.core) w
      && ((w.of a.core a.slot a.slice a.gen && !w.redm && w.id < id) || a.after.past.contains w.id))

/-- Every part has its answer, or may take its moment now. -/
def State.due (s : State) (id : Nat) (a : Access) : Bool :=
  !a.returned && a.parts.zipIdx.all (fun p =>
    if p.1.place.isPeer then p.1.got.isSome
    else p.1.got.isSome || s.partDue id { a with parts := a.parts.map (fun q => { q with got := some .done }) } p.2 p.1)

/-- Complete an atomic or a reduction that is due.  A drain's maximum has no destination: it takes its place behind the
drain's writes, and goes to a peer only then (14 R285). -/
def State.completeAtom (s : State) (id : Nat) : State :=
  match Store.find? s.inflight id with
  | none => s
  | some a =>
    let held := match a.kind with
      | .atom none _ _ scope => s.releaseAhead id a scope
      | _ => false
    if held || a.returned then s
    else
    let s := match a.kind with
      | .atom _ kind ty _ => s.sendParts id a (peerAtom kind ty a) (fun p => (p.addr, p.size))
      | .redm kind ty => s.sendParts id a (fun _ p => some (.reduce p.addr kind ty ((bytesVal p.data).setWidth 32))) (fun p => (p.addr, p.size))
      | _ => s
    match Store.find? s.inflight id with
    | none => s
    | some a =>
    if s.due id a then
      match a.kind with
      | .atom d kind ty scope => s.atomPerform id a d kind ty scope
      | .redm kind ty =>
        if s.redmAhead id a && a.parts.any (fun p => !p.place.isPeer) then s else s.redmPerform id a kind ty
      | _ => s
    else s

/-! ### Operands and parts -/

/-- A base register is a pair in global space. -/
def baseSrc (r : Reg) (space : Space) : OpSrc := { reg := r, wide := space == .global }

/-- The address of a lane: the base itself. -/
def baseAddr (x : Ctx) (sl : Slice) (r : Reg) (space : Space) (lane : Nat) : Nat := (x.readReg sl r (space == .global) lane).toNat

/-- The parts of n-byte accesses in some lanes, or the trap of the first failing check (10 R205). -/
def State.atomLanes (s : State) (x : Ctx) (lanes : List Nat) (addr : Nat → Nat) (n : Nat) (space : Space) (q : Asker) :
    Except Trap (List (Part × Option Xlat)) :=
  let odd := lanes.filter (fun l => addr l % n ≠ 0)
  if !odd.isEmpty then .error { code := 0x03, lanes := lanesMask odd }
  else laneParts (fun l => s.partsFor x.wave s.now.core l (addr l) n (if space == .scratch then .scratch 0 else .hbm) q) addr lanes

/-- The queues an instruction pops have a row, and those it pushes have room. -/
def queuesReady (x : Ctx) (sh : Shape) : Bool := sh.pops.all x.wave.popReady && sh.push?.all x.wave.pushReady

/-- The registers a destination will write. -/
def destLocs (d : Reg) (wide : Bool) (lanes : List Nat) : List Loc := (lanes.flatMap (regLocs d wide)).eraseDups

/-- Shared-register uses of an instruction whose destination values come later. -/
def laterUses (x : Ctx) (sl : Slice) (sh : Shape) (lanes : List Nat) : List (Nat × Nat × ShareUse) :=
  x.shareUses sh lanes (match sh.d with
    | some (d, w) => (destLocs d w lanes).map (fun loc => (loc, x.current sl loc))
    | none => [])

/-! ### ATOM and RED.M -/

/-- Send one access for each location on this package, and one for all the lanes whose homes are peers (02 R64). -/
def sendAtoms (sh : Shape) (kind : Flight) (d : Option (Reg × Bool)) (scope : Option Sys2Proof.Scope) (parts : List Part)
    (live : BitVec 256 → BitVec 256) (x0 : Wave) (k : Nat) (lanes : List Nat) (s : State) : State :=
  match s.wave? s.now.core s.now.slot, s.slice? s.now.core s.now.slot k with
  | some x, some sl =>
    let peers := parts.filter (fun (p : Part) => p.place.isPeer)
    let here := parts.filter (fun p => !p.place.isPeer)
    let groups := ((here.map (fun p => (p.place, p.addr))).eraseDups).map (fun key =>
      here.filter (fun p => p.place == key.1 && p.addr = key.2))
    let all := groups ++ (if peers.isEmpty then [] else [peers])
    let first := s.serial
    let pc := sl.pc
    let mk := fun (ps : List Part) => ({ core := s.now.core, slot := s.now.slot, slice := k, gen := s.gen s.now.core s.now.slot
                                         pc, word := s.now.word, path := if ps.any (·.place.isPeer) then some 4 else none
                                         kind, parts := ps, lanes := lanesMask (ps.map (fun (p : Part) => p.lane)), process := x.process
                                         secure := s.secureWave x } : Access)
    let s := s.modNowWave (fun x => x.popOnce x0 sh)
    let queue := match d with | some (.q n, _) => some n.toNat | _ => none
    let row := (queue.map x0.queueRow).getD 0
    let s := match queue with
      | some q => s.modNowWave (fun x => x.openRow x0 q ((List.range all.length).map (first + ·)))
      | none => s
    let s := all.foldl (fun (s : State) (ps : List Part) =>
      let id := s.serial
      let s := (s.tagWrite s.now.core s.now.slot k scope ps id).launchAccess { mk ps with row }
      let s := match d with
        | some (r, wide) => s.modNow k (fun sl => { sl with
            out := sl.out ++ (destLocs r wide ((ps.map (fun (p : Part) => p.lane)).eraseDups)).map (fun (loc : Loc) => ({ loc, by_ := .memory, pc, id } : Outstanding)) })
        | none => s
      s) s
    let s := s.advance sh lanes k
    let s := s.closeRegion s.now.core s.now.slot k (live sl.lastLive) pc
    (List.range all.length).foldl (fun (s : State) i =>
      if s.now.prompt || (all.getD i []).any (·.place.isPeer) then s.completeAtom (first + i) else s) s
  | _, _ => s

/-- What ATOM and RED.M have in common once their operands are checked (10 R204, R205). -/
def planAtomic (sh : Shape) (base : Reg) (space : Space) (n : Nat) (redm : Bool) (need : Option FenceNeed) (counted : Bool)
    (go : List Part → State → State) (data : Nat → List Byte × List Byte) (s : State) (x : Ctx) (sl0 : Slice) : Act :=
  let lanes := workLanes sl0 sh.g (sh.uniform)
  let sl := sl0.atEdge !lanes.isEmpty
  match operandCheck sh (!lanes.isEmpty) x sl lanes with
  | some a => a
  | none =>
    if lanes.isEmpty then .go (fun s => s.advance sh lanes x.k)
    else
      let uses := laterUses x sl sh lanes
      if !queuesReady x sh then .wait .queue
      else if (x.core.shareAll x.slot uses).isNone then .wait .fullEmpty
      else
      let addr := baseAddr x sl base space
      let q := { s.asker x.wave s.now.core true with redm }
      match s.atomLanes x lanes addr n space q with
      | .error t => .trap (if sh.uniform then { t with lanes := lanesMask (workLanes sl sh.g false) } else t)
      | .ok ps =>
        let parts := ps.map (fun (p : Part × Option Xlat) => { p.1 with data := (data p.1.lane).1, cmp := (data p.1.lane).2 })
        match s.acquireAhead s.now.core s.now.slot x.k with
          | some id => .wait (.acquire id)
          | none =>
            if ps.any (fun p => p.2.isSome && s.walkerFull s.now.core x.wave.process p.1.va) then .wait .walker
            else if counted && parts.any (·.place.isPeer) && x.counterFull 4 sh.g then .wait .counter
            else match need.filter (fun n => !s.drained s.now.core s.now.slot x.k n) with
              | some n => .wait (.fence n)
              | none => .go (fun s =>
                  go parts ((ps.foldl (fun (s : State) p => match p.2 with
                    | some t => s.fillCoreTlb s.now.core t
                    | none => s) s).shareNow uses))

def AtomOp.shape (o : Sys2Proof.AtomOp) : Shape :=
  { g := o.g, srcs := baseSrc o.a o.space :: ({ reg := o.b, wide := o.ty.ty.wide } : OpSrc)
      :: o.c.toList.map (fun r => { reg := r, wide := o.ty.ty.wide })
    d := some (o.d, o.ty.ty.wide) }

def planAtom (o : Sys2Proof.AtomOp) (s : State) (x : Ctx) (sl : Slice) : Act :=
  let sh := AtomOp.shape o
  let lanes := workLanes sl o.g sh.uniform
  let wide := o.ty.ty.wide
  let sle := sl.atEdge !lanes.isEmpty
  let data := fun (l : Nat) => (leBytes o.ty.bytes (x.readRegAt sle 1 o.b wide l).toNat,
    match o.c with
    | some c => leBytes o.ty.bytes (x.readRegAt sle 2 c wide l).toNat
    | none => [])
  planAtomic sh o.a o.space o.ty.bytes false
    (if o.scope = .wv then none else some { loads := true, stores := true, redm := false, scope := o.scope }) true
    (fun parts => sendAtoms sh (.atom (some o.d) o.kind o.ty o.scope) (some (o.d, wide)) (some o.scope) parts (· ||| liveOf (regLocs o.d wide 0)) x.wave x.k lanes) data s x sl

def execAtom (o : Sys2Proof.AtomOp) (s : State) : Done := .next (issueActs (planAtom o) s)

def RedMOp.shape (o : Sys2Proof.RedMOp) : Shape := { g := o.g, srcs := [baseSrc o.a .global, srcOf o.b false] }

def planRedM (o : Sys2Proof.RedMOp) (s : State) (x : Ctx) (sl : Slice) : Act :=
  let sh := RedMOp.shape o
  let lanes := workLanes sl o.g false
  planAtomic sh o.a .global 4 true none true
    (fun parts => sendAtoms sh (.redm o.kind o.ty) none none parts id x.wave x.k lanes)
    (fun l => (leBytes 4 (x.readRegAt (sl.atEdge !lanes.isEmpty) 1 o.b.reg false l).toNat, [])) s x sl

def execRedM (o : Sys2Proof.RedMOp) (s : State) : Done := .next (issueActs (planRedM o) s)

/-- ATOM_HOME_PERFORM (10 R202). -/
def execAtomHomePerform (id : Nat) (s : State) : Done :=
  match Store.find? s.inflight id with
  | some { kind := .atom _ _ _ _, .. } => .next (s.completeAtom id)
  | _ => .next s

/-- REDM_APPLY (10 R206). -/
def execRedmApply (id : Nat) (s : State) : Done :=
  match Store.find? s.inflight id with
  | some { kind := .redm _ _, .. } => .next (s.completeAtom id)
  | _ => .next s

/-! ### FENCE, FENCE.M and WAITC (10 R207, R208, 02 R65) -/

/-- An instruction that waits for the slice's accesses, then acquires what its reads have met and makes its later writes
releases (13 R253). -/
def planFence (g : Option Guard) (need : FenceNeed) (acq : Bool) (s : State) (x : Ctx) (sl : Slice) : Act :=
  let sh : Shape := { g, srcs := [] }
  if (workLanes sl g true).isEmpty then .go (fun s => s.advance sh [] x.k)
  else if s.drained s.now.core s.now.slot x.k need then
    .go (fun s =>
      let s := if acq then (s.acquireMet s.now.core s.now.slot x.k need.scope).acquire s.now.core s.now.slot need.scope else s
      let s := if need.stores then s.releaseMet s.now.core s.now.slot x.k need.scope else s
      s.advance sh [] x.k)
  else .wait (.fence need)

def execFence (o : Sys2Proof.FenceOp) (s : State) : Done :=
  .next (issueActs (planFence o.g { loads := true, stores := o.kind ≠ .acq, redm := false, scope := o.scope } (o.kind ≠ .rel)) s)

def execFenceM (o : Sys2Proof.FenceMOp) (s : State) : Done :=
  .next (issueActs (planFence o.g { loads := true, stores := true, redm := true, scope := o.scope } true) s)

def WaitcOp.shape (o : Sys2Proof.WaitcOp) : Shape := { g := o.g, srcs := [{ reg := .s o.a, last := o.last }] }

def planWaitc (o : Sys2Proof.WaitcOp) (_ : State) (x : Ctx) (sl : Slice) : Act :=
  let sh := WaitcOp.shape o
  let lanes := workLanes sl o.g true
  match operandCheck sh false x sl lanes with
  | some a => a
  | none =>
    if lanes.isEmpty then .go (fun s => s.advance sh lanes x.k)
    else
      let threshold := (x.readLoc sl (.s o.a.toNat)).toNat
      if x.wave.counter o.path.toNat ≤ threshold then .go (fun s => s.advance sh lanes x.k)
      else .go (fun s => (s.markNow sh lanes x.k).modNow x.k (fun sl => { sl with wait := some (.waitc o.path.toNat threshold) }))

def execWaitc (o : Sys2Proof.WaitcOp) (s : State) : Done := .next (issueActs (planWaitc o) s)

/-- WAITC_RELEASE (02 R65): the gang's slices whose counter has fallen go on. -/
def execWaitcRelease (w : SliceRef) (s : State) : Done :=
  .next ((s.mates w).foldl (fun (s : State) k =>
    match s.wave? w.core w.slot with
    | none => s
    | some x => match (x.slice k).wait with
      | some (.waitc path n) => if x.counter path ≤ n then s.resume w.core w.slot k else s
      | _ => s) s)

/-! ### WAITCMP (10 R209) -/

def MonTy.bytes (t : Sys2Proof.MonTy) : Nat := if t.wide then 8 else 4
def MonTy.signed : Sys2Proof.MonTy → Bool
  | .s32 | .s64 => true
  | _ => false

/-- The condition of a monitor. -/
def monHolds (c : MonCond) (signed : Bool) (bytes : Nat) (x b : W64) : Bool :=
  let i := readInt signed (8 * bytes) x.toNat
  let j := readInt signed (8 * bytes) b.toNat
  match c with
  | .eq => i = j | .ne => i ≠ j | .lt => i < j | .le => i ≤ j | .gt => i > j | .ge => i ≥ j
  | .any => (x &&& b) ≠ 0

/-- One read of a monitored word: at its home here, or asked of a peer. -/
inductive MonRead where
  | value (x : W64) | later | fault (t : Trap)

/-- The access that carries a slice's monitor reads to peers. -/
def State.monitorAccess (s : State) (w : SliceRef) : Option (Nat × Access) :=
  List.find? (fun (a : Nat × Access) => a.2.core = w.core && a.2.slot = w.slot && a.2.slice = w.slice
    && a.2.gen = s.gen w.core w.slot && a.2.kind == .counted && a.2.path = none) s.inflight

/-- Where a monitored word is. -/
def State.monitorPart (s : State) (x : Wave) (core : Nat) (m : Monitor) (lane : Nat) (va : W64) : Except Trap Part :=
  match laneParts (fun l => s.partsFor x core l va.toNat (MonTy.bytes m.ty)
      (if m.space == .scratch then .scratch 0 else .hbm) (s.asker x core false)) (fun _ => va.toNat) [lane] with
  | .error t => .error t
  | .ok ps => .ok ((ps.map (·.1)).headD { lane, place := .hbm, addr := 0, size := 0 })

/-- A write to these bytes that a home read of the slice may not run ahead of is on its way: its own, or one it comes after;
or an engine owns the line (12 R244, 13 R258, R259). -/
def State.ownWriteAhead (s : State) (w : SliceRef) (p : Part) : Bool :=
  let gen := s.gen w.core w.slot
  (s.pendingOf w.core w.slot w.slice gen).any (fun b => (b.2.kind.isWrite || b.2.kind.isRedm) && b.2.holds p)
    || s.replicaWrites.any (fun r => r.of w.core w.slot w.slice gen && r.die = dieOf w.core && r.overlaps p)
    || s.behind (dieOf w.core) (s.knowsOf w.core w.slot w.slice).reads p || s.ownedLine p.place p.addr p.size

/-- An update of these bytes at their home by an instruction of the slice waits for its earlier accesses to them, and for
writes it comes after (13 R251, R255). -/
def State.ownAccessAhead (s : State) (w : SliceRef) (p : Part) : Bool :=
  (s.pendingOf w.core w.slot w.slice (s.gen w.core w.slot)).any (fun b => b.2.holds p)
    || s.behind (dieOf w.core) (s.knowsOf w.core w.slot w.slice).writes p

/-- Read the words of lanes not yet satisfied; a peer's word is asked for, and read once it has come. -/
def State.readMonitor (s : State) (w : SliceRef) (x : Wave) (m : Monitor) : Except Trap (Monitor × State) :=
  let open_ := m.lanes.filter (fun l => !((Store.find? m.got l.1).map (·.1)).getD false)
  let polled := s.monitorAccess w
  let answers := match polled with
    | some (_, a) => a.parts
    | none => []
  let r := open_.foldl (fun (r : Except Trap (Monitor × List Part × State)) (l : Nat × W64 × W64) =>
    match r with
    | .error t => .error t
    | .ok (m, asks, s) =>
      match s.monitorPart x w.core m l.1 l.2.1 with
      | .error t => .error t
      | .ok p =>
        let take := fun (v : W64) => { m with got := Store.insert m.got l.1 (monHolds m.cond (MonTy.signed m.ty) (MonTy.bytes m.ty) v l.2.2, v) }
        if p.place.isPeer then
          match (answers.find? (fun q => q.lane = l.1)).bind (·.got) with
          | some (.data bs) => .ok (take (bytesVal (bs.take p.size)), asks,
              ((s.passL1 (s.l1Dom w.core w.slot) p.place p.addr p.size).noFillFrom (s.l1Dom w.core w.slot) (some (p.place, p.addr))).meet
                w.core w.slot (s.gen w.core w.slot) w.slice (some m.scope) p.place p.addr p.size)
          | some (.error c) => .error { code := c, lanes := laneBit l.1, addr := l.2.1 }
          | _ => .ok (m, asks ++ [p], s)
        else if s.ownWriteAhead w p then .ok (m, asks, s)
        else
          let s := (s.checkLine p.place p.addr).holdHostLine p.place p.addr
          let bs := s.homeRead (dieOf w.core) p.place p.addr p.size (s.fresh + 8192 + 32 * l.1)
          .ok (take (bytesVal bs), asks, (s.passL1 (s.l1Dom w.core w.slot) p.place p.addr p.size).meet w.core w.slot
            (s.gen w.core w.slot) w.slice (some m.scope) p.place p.addr p.size)) (.ok (m, [], s))
  match r with
  | .error t => .error t
  | .ok (m, asks, s) =>
    let ready := answers.all (fun p => p.got.isSome)
    if ready then
      let s := match polled with
        | some (id, _) => { s with inflight := Store.erase s.inflight id }
        | none => s
      if asks.isEmpty then .ok (m, s)
      else
        let a : Access := { core := w.core, slot := w.slot, slice := w.slice, gen := s.gen w.core w.slot, pc := (x.slice w.slice).pc
                            word := s.now.word, path := none, kind := .counted, parts := asks, lanes := 0, process := x.process
                            secure := s.secureWave x }
        let id := s.serial
        .ok (m, (s.launchAccess a).sendParts id a (fun _ p => some (.read p.addr p.size)) (fun p => (p.addr, p.size)))
    else .ok (m, s)

/-- The access that a monitor's results land as. -/
def State.monitorLanding (s : State) (w : SliceRef) : Access :=
  { core := w.core, slot := w.slot, slice := w.slice, gen := s.gen w.core w.slot, pc := {}, word := 0, path := none
    kind := .counted, parts := [], lanes := 0, process := 0, secure := false }

/-- A monitor of one slice ends: its shared registers, an acquire at its scope, and each lane's value. -/
def State.endMonitor (s : State) (w : SliceRef) (m : Monitor) : State :=
  let s := s.acquire w.core w.slot m.scope
  let s := match s.monitorAccess w with
    | some (id, _) => { s with inflight := Store.erase s.inflight id }
    | none => s
  let s := match (s.core w.core).shareAll w.slot m.uses with
    | some k => if m.uses.isEmpty then s else s.setCore w.core k
    | none => s
  let vals : List (Nat × W64) := m.got.map (fun g => (g.1, g.2.2))
  let s := match m.d with
    | .q _ => s
    | _ => s.landAll (s.monitorLanding w) noAccess (vals.flatMap (fun (v : Nat × W64) => destWrites m.d (MonTy.bytes m.ty = 8) v.1 v.2))
  let pc := ((s.slice? w.core w.slot w.slice).map (fun (sl : Slice) => sl.pc)).getD {}
  let s := (s.modSlice w.core w.slot w.slice (fun sl => { sl with out := sl.out.filter (fun o => o.id ≠ noAccess) })).resume
    w.core w.slot w.slice
  if m.edge then
    s.closeRegion w.core w.slot w.slice
      ((((s.slice? w.core w.slot w.slice).map (·.lastLive)).getD 0) ||| liveOf (regLocs m.d (MonTy.bytes m.ty = 8) 0)) pc
  else s

/-- The monitor a slice runs. -/
def Wave.monitorOf (x : Wave) (k : Nat) : Option Monitor :=
  match (x.slice k).wait with
  | some (.monitor m) => some m
  | _ => none

/-- Every lane has what ends the monitor: a satisfying value, or any once the timeout has passed; and the shared registers it
names are ready. -/
def State.monitorDone (s : State) (w : SliceRef) (m : Monitor) (timedOut : Bool) : Bool :=
  m.lanes.all (fun l => match Store.find? m.got l.1 with
    | some g => g.1 || timedOut
    | none => false) && ((s.core w.core).shareAll w.slot m.uses).isSome

/-- The slices whose monitors end together: an instruction that pops or pushes ends in all of its slices at once, since it
takes one row (02 R43). (DESIGN CHOICE, log 76) -/
def Wave.monitorGroup (x : Wave) (k : Nat) (m : Monitor) : List (Nat × Monitor) :=
  if m.edge then (x.slices.filterMap (fun p => (x.monitorOf p.1).map (fun n => (p.1, n)))).filter (fun p => p.2.edge && p.2.group = m.group)
  else [(k, m)]

/-- Monitors that end together: one row popped of each queue and one pushed, then each slice goes on. -/
def State.endMonitors (s : State) (w : SliceRef) (ms : List (Nat × Monitor)) : State :=
  let s := s.modWave w.core w.slot (fun x =>
    let x := ((ms.flatMap (fun m => m.2.pops)).eraseDups).foldl (fun (x : Wave) q => x.pop q) x
    match (ms.filterMap (fun m => match m.2.d with | .q n => some n.toNat | _ => none)).head? with
    | some q => x.push q (ms.flatMap (fun m => m.2.got.map (fun g => (4 * m.1 + g.1, g.2.2))))
    | none => x)
  ms.foldl (fun (s : State) m => s.endMonitor { w with slice := m.1 } m.2) s

/-- A monitor reads once; it ends when every lane is satisfied, or, with the timeout passed, when every lane has a value. -/
def State.pollMonitor (s : State) (w : SliceRef) (timedOut : Bool) : State :=
  match s.wave? w.core w.slot with
  | none => s
  | some x =>
    match x.monitorOf w.slice with
    | some m =>
      match s.readMonitor w x m with
      | .error t => (s.modSlice w.core w.slot w.slice (fun sl => { sl with out := sl.out.filter (fun o => o.id ≠ noAccess) })).takeTrap
          w.core w.slot w.slice t
      | .ok (m, s) =>
        let m := { m with late := m.late || timedOut }
        let s := s.modSlice w.core w.slot w.slice (fun sl => { sl with wait := some (.monitor m) })
        match s.wave? w.core w.slot with
        | none => s
        | some x =>
          let ms := x.monitorGroup w.slice m
          if ms.all (fun n => s.monitorDone { w with slice := n.1 } n.2 n.2.late) then s.endMonitors w ms else s
    | none => s

def WaitcmpOp.shape (o : Sys2Proof.WaitcmpOp) : Shape :=
  { g := o.g, srcs := [baseSrc o.a o.space, { reg := o.b, wide := MonTy.bytes o.ty = 8 }, { reg := .s o.c }]
    d := some (o.d, MonTy.bytes o.ty = 8) }

/-- WAITCMP: its monitor is armed; the queues it pops or pushes and its shared registers take effect when it ends, so that a
trap of a later read leaves them as they were (09 R176). -/
def planWaitcmp (o : Sys2Proof.WaitcmpOp) (s : State) (x : Ctx) (sl0 : Slice) : Act :=
  let sh := WaitcmpOp.shape o
  let lanes := workLanes sl0 o.g sh.uniform
  let edge := isQueueEdge [{ sh, f := fun _ => {} }] sl0
  let sl := sl0.atEdge edge
  let n := MonTy.bytes o.ty
  match operandCheck sh edge x sl lanes with
  | some a => a
  | none =>
    if lanes.isEmpty then .go (fun s => s.advance sh lanes x.k)
    else
      let uses := laterUses x sl sh lanes
      if !queuesReady x sh then .wait .queue
      else if (x.core.shareAll x.slot uses).isNone then .wait .fullEmpty
      else
      let addr := baseAddr x sl o.a o.space
      match s.atomLanes x lanes addr n o.space (s.asker x.wave s.now.core false) with
      | .error t => .trap (if sh.uniform then { t with lanes := lanesMask (workLanes sl o.g false) } else t)
      | .ok ps =>
        match s.acquireAhead s.now.core s.now.slot x.k with
          | some id => .wait (.acquire id)
          | none =>
            if ps.any (fun p => p.2.isSome && s.walkerFull s.now.core x.wave.process p.1.va) then .wait .walker
            else .go (fun s =>
              let w : SliceRef := { core := s.now.core, slot := s.now.slot, slice := x.k }
              let m : Monitor :=
                { d := o.d, space := o.space, cond := o.cond, ty := o.ty, scope := o.scope
                  lanes := lanes.map (fun l => (l, BitVec.ofNat 64 (addr l), x.readRegAt sl 1 o.b (n = 8) l))
                  start := s.cltime (s.now.core / 32), timeout := x.readLocAt sl 2 (.s o.c.toNat), edge
                  pops := sh.pops.eraseDups, uses, group := s.fresh }
              let s := s.modNow x.k (fun sl => { sl with
                wait := some (.monitor m)
                out := sl.out ++ (destLocs o.d (n = 8) lanes).map (fun loc => { loc, by_ := .memory, pc := sl.pc, id := noAccess }) })
              if s.now.prompt && !edge then s.pollMonitor w false else s)

/-- The monitors that a gang has just armed and that end together read for the first time. -/
def State.firstPoll (s : State) : State :=
  if s.now.prompt then s.now.slices.foldl (fun (s : State) k =>
    match (s.wave? s.now.core s.now.slot).bind (fun x => x.monitorOf k) with
    | some m => if m.edge then s.pollMonitor { core := s.now.core, slot := s.now.slot, slice := k } false else s
    | none => s) s
  else s

def execWaitcmp (o : Sys2Proof.WaitcmpOp) (s : State) : Done := .next (issueActs (planWaitcmp o) s).firstPoll

/-- WAITCMP_MONITOR_READ (10 R209). -/
def execWaitcmpMonitorRead (w : SliceRef) (s : State) : Done :=
  .next ((s.mates w).foldl (fun (s : State) k => s.pollMonitor { w with slice := k } false) s)

/-- WAITCMP_TIMEOUT (10 R209): due once cltime has advanced by the timeout. -/
def execWaitcmpTimeout (w : SliceRef) (s : State) : Done :=
  .next ((s.mates w).foldl (fun (s : State) k =>
    match s.slice? w.core w.slot k with
    | some { wait := some (.monitor m), .. } =>
      if m.timeout ≠ 0 && m.start + m.timeout.toNat ≤ s.cltime (w.core / 32) then s.pollMonitor { w with slice := k } true else s
    | _ => s) s)

/-! ### PREF (10 R210) -/

/-- A page walk a prefetch asked for ends: the translation is kept and the line comes to the LLC and, but for class 3, to
L1; a fault ends it silently (12 R234, R235). -/
def State.finishWalk (s : State) (cluster : Nat) (k : Walk) : State :=
  match s.resolve { process := k.process, user := k.user, secure := ((s.process? k.process).map (·.secure)).getD false
                    cluster, core := some k.core, fresh := s.fresh + 4096 } k.va.toNat with
  | .error _ => s
  | .ok (p, a, _, x) =>
    let s := match x with
      | some x => s.fillCoreTlb k.core x
      | none => s
    let s := s.holdHostLine p a
    if !k.fillL1 || s.isPoisoned p a || s.ownedLine p a 1 then s
    else match p with
      | .peer _ =>
        let id := s.serial
        let acc : Access := { core := k.core, slot := 64, slice := 0, gen := 0, pc := {}, word := 0, path := none
                              kind := .load (.v 0) false 4 false none, parts := [{ lane := 0, place := p, addr := a / 4 * 4, size := 4 }]
                              lanes := 0, process := k.process, secure := false, dom := k.dom }
        (s.launchAccess acc).sendLoadStore id acc
      | _ => s.fillL1 k.dom p a

def PrefOp.shape (o : Sys2Proof.PrefOp) : Shape := { g := o.g, srcs := [{ reg := o.base, wide := true }, { reg := .s o.policy }] }

def planPref (o : Sys2Proof.PrefOp) (s : State) (x : Ctx) (sl : Slice) : Act :=
  let sh := PrefOp.shape o
  let lanes := workLanes sl o.g false
  match operandCheck sh false x sl lanes with
  | some a => a
  | none =>
    if lanes.isEmpty then .go (fun s => s.advance sh lanes x.k)
    else
      let pol := x.readLocAt sl 1 (.s o.policy.toNat)
      let uses := x.shareUses sh lanes []
      let va := fun (l : Nat) => laneAddr .hbm (x.readReg sl o.base true l) o.off
      if (x.core.shareAll x.slot uses).isNone then .wait .fullEmpty
      else if polBad pol true || polOrder pol ≠ 0 then .trap { code := 0x03, lanes := lanesMask lanes }
      else if lanes.any (fun l => canonical (va l) && s.walkerFull s.now.core x.wave.process (va l)) then .wait .walker
      else
        .go (fun s =>
          let s := s.shareNow uses
          let walks := lanes.map (fun l =>
            ({ process := x.wave.process, user := (s.asker x.wave s.now.core false).user, core := s.now.core
               va := BitVec.ofNat 64 (va l), fillL1 := lineClass pol (va l) ≠ 3, dom := s.l1Dom s.now.core s.now.slot } : Walk))
          let cl := s.now.core / 32
          let s := if s.now.prompt then walks.foldl (fun (s : State) k => s.finishWalk cl k) s
            else s.setCluster cl { s.cluster cl with walks := (s.cluster cl).walks ++ walks }
          s.advance sh lanes x.k)

def execPref (o : Sys2Proof.PrefOp) (s : State) : Done := .next (issueActs (planPref o) s)

/-- PAGE_WALK_COMPLETE (12 R234, R235): one walk, and with it every miss to the same page. -/
def execPageWalkComplete (cluster : Nat) (s : State) : Done :=
  match (s.cluster cluster).walks with
  | [] => .next s
  | k :: rest =>
    let same := fun (j : Walk) => halfOf j.process j.va.toNat = halfOf k.process k.va.toNat && j.va.toNat / 4096 = k.va.toNat / 4096
    .next ((k :: rest.filter same).foldl (fun (s : State) j => s.finishWalk cluster j)
      (s.setCluster cluster { s.cluster cluster with walks := rest.filter (fun j => !same j) }))

/-! ### Shootdowns (12 R236) -/

/-- SHOOTDOWN_RECEIPT: matching translations are dropped, and accesses made under them are noted. -/
def execShootdownReceipt (cluster id : Nat) (s : State) : Done :=
  let k := s.cluster cluster
  match k.shootdowns.find? (fun d => d.id = id && !d.received) with
  | none => .next s
  | some d =>
    let lo := d.start.toNat / 4096 * 4096
    let hi := lo + d.pages * 4096
    let hit := fun (x : Xlat) => x.process = halfOf d.process lo && x.page < hi && lo < x.page + x.size
    let awaits := (s.inflight.filter (fun (a : Nat × Access) => !a.2.returned && !a.2.cancelled && a.2.core / 32 = cluster
        && a.2.parts.any (fun p => halfOf a.2.process p.va = halfOf d.process lo && p.va < hi && lo < p.va + p.size))).map (·.1)
    let s := { s with cores := s.cores.map (fun (c : Nat × Core) =>
      if c.1 / 32 = cluster then (c.1, { c.2 with tlb := c.2.tlb.filter (fun x => !hit x) }) else c) }
    .next (s.setCluster cluster { k with
      tlb := k.tlb.filter (fun x => !hit x)
      shootdowns := k.shootdowns.map (fun (e : Shootdown) => if e.id = id then { e with received := true, awaits } else e) })

/-- SHOOTDOWN_ACK: none of those accesses is still out, nor a write of theirs on its way to a replica (13 R266, R269). -/
def execShootdownAck (cluster id : Nat) (s : State) : Done :=
  let k := s.cluster cluster
  match k.shootdowns.find? (fun d => d.id = id && d.received) with
  | none => .next s
  | some d =>
    if d.awaits.all (fun i => ((Store.find? s.inflight i).map (fun a => a.returned || a.cancelled)).getD true
        && s.replicaWrites.all (fun w => w.id ≠ i)) then
      .next (s.setCluster cluster { k with shootdowns := k.shootdowns.filter (fun e => e.id ≠ id) })
    else .next s

/-! ### Barrier objects (10 R211 to R213) -/

/-- The fields of a barrier object. -/
structure Barrier where
  count : Int
  init : Nat
  fault : Bool
  fcode : Nat
  phase : Nat
deriving DecidableEq, Repr

def Barrier.ofBytes (bs : List Byte) : Barrier :=
  let w := fun i => ofLeBytes ((bs.drop (4 * i)).take 4)
  { count := readInt true 32 (w 0), init := w 1, fault := (w 2).testBit 31, fcode := w 2 / 2 ^ 16 % 256, phase := w 2 % 2 ^ 16 }

/-- The word at offset 8. -/
def Barrier.word (b : Barrier) : Nat := (if b.fault then 2 ^ 31 else 0) + b.fcode * 2 ^ 16 + b.phase

/-- The decrement (10 R213): the phase before, and the object after. -/
def Barrier.decrement (b : Barrier) (k : Nat) : Barrier :=
  if k = 0 then b
  else
    let c := b.count - k
    if 0 < c then { b with count := c }
    else if b.init = 0 || 2 ^ 31 ≤ b.init then { b with count := 0, phase := (b.phase + 1) % 65536 }
    else
      let n := (-c).toNat / b.init + 1
      { b with count := c + n * b.init, phase := (b.phase + n) % 65536 }

def State.readBarrier (s : State) (core a : Nat) : Barrier := Barrier.ofBytes (s.peekN 0 (.scratch core) a 16)
/-- Counts, phase and fault go back; the reserved bits stay. -/
def State.writeBarrier (s : State) (core a : Nat) (b : Barrier) : State :=
  let old := ofLeBytes (s.peekN 0 (.scratch core) (a + 8) 4)
  (s.pokeN (.scratch core) a (leBytes 4 (wrapBits 32 b.count))).pokeN (.scratch core) (a + 8)
    (leBytes 4 (b.word + old / 2 ^ 24 % 128 * 2 ^ 24))

/-- Where a barrier object is: the trap, or the core and byte.  In a pair team it may stand in either half, and is held where
its bytes are. (DESIGN CHOICE, log 77) -/
def State.barrierAt (s : State) (x : Wave) (core : Nat) (all : Mask4) (a : W32) : Except Trap (Nat × Nat) :=
  if a.toNat % 16 ≠ 0 then .error { code := 0x03, lanes := all }
  else match s.scratch x.team (core / 32) a.toNat 16 with
    | .ok (.scratch c, o) => .ok (c, o)
    | _ => .error { code := 0x08, lanes := all, addr := a.setWidth 64 }

/-- A slice-wise barrier instruction: its checks, the accesses it releases, then its effect. -/
def planBarrier (sh : Shape) (addr : SReg) (bad : W32 → Bool) (operand : SReg) (edge : Bool) (need : Option FenceNeed)
    (go : Nat → Nat → State → State) (s : State) (x : Ctx) (sl0 : Slice) : Act :=
  let lanes := workLanes sl0 sh.g true
  let sl := sl0.atEdge (edge && !lanes.isEmpty)
  match operandCheck sh (edge && !lanes.isEmpty) x sl lanes with
  | some a => a
  | none =>
    if lanes.isEmpty then .go (fun s => s.advance sh lanes x.k)
    else
      let all := lanesMask (workLanes sl sh.g false)
      if bad (x.readLocAt sl 1 (.s operand.toNat)) then .trap { code := 0x03, lanes := all }
      else match s.barrierAt x.wave s.now.core all (x.readLoc sl (.s addr.toNat)) with
        | .error t => .trap t
        | .ok (c, o) =>
          match s.acquireAhead s.now.core s.now.slot x.k with
          | some id => .wait (.acquire id)
          | none => match need.filter (fun n => !s.drained s.now.core s.now.slot x.k n) with
            | some n => .wait (.fence n)
            | none => match need.filter (fun _ => s.ownAccessAhead { core := s.now.core, slot := s.now.slot, slice := x.k }
                  { lane := 0, place := .scratch c, addr := o, size := 16 }) with
              | some n => .wait (.fence n)
              | none => .go (go c o)

/-- An update of a barrier object is a release of its slice (13 R252). -/
def State.releaseAt (s : State) (k : Nat) (scope : Sys2Proof.Scope) (c a : Nat) : State :=
  s.tagWrite s.now.core s.now.slot k (some scope) [{ lane := 0, place := .scratch c, addr := a, size := 16 }] noAccess

def BinitOp.shape (o : Sys2Proof.BinitOp) : Shape :=
  { g := o.g, srcs := [{ reg := .s o.a, last := o.aLast }, { reg := .s o.b, last := o.bLast }] }

def planBinit (o : Sys2Proof.BinitOp) (s : State) (x : Ctx) (sl : Slice) : Act :=
  let sh := BinitOp.shape o
  let lanes := workLanes sl o.g true
  let b := x.readLocAt (sl.atEdge true) 1 (.s o.b.toNat)
  planBarrier sh o.a (fun b => b.toNat = 0 || 2 ^ 31 ≤ b.toNat) o.b true
    (some { loads := true, stores := true, redm := false, scope := .tm })
    (fun c a s =>
      let s := (s.untag (.scratch c) a 16 noAccess).releaseAt x.k .tm c a
      let s := s.pokeN (.scratch c) a (leBytes 4 b.toNat ++ leBytes 4 b.toNat ++ List.replicate 8 0)
      (s.advance sh lanes x.k).closeRegion s.now.core s.now.slot x.k sl.lastLive sl.pc) s x sl

def execBinit (o : Sys2Proof.BinitOp) (s : State) : Done := .next (issueActs (planBinit o) s)

def BarOp.shape (o : Sys2Proof.BarOp) : Shape :=
  { g := o.g, srcs := [{ reg := .s o.a }, { reg := .s o.b }], d := some (.s o.d, false) }

/-- Write an s register of the issuing slice. -/
def State.putS (s : State) (k : Nat) (r : SReg) (x : W32) : State := s.modNow k (fun sl => sl.write (writeFresh s.fresh k) (.s r.toNat) x)

def planBarv (o : Sys2Proof.BarOp) (s : State) (x : Ctx) (sl : Slice) : Act :=
  let sh := BarOp.shape o
  let lanes := workLanes sl o.g true
  let k := (x.readLocAt (sl.atEdge true) 1 (.s o.b.toNat)).toNat
  planBarrier sh o.a (fun b => 2 ^ 31 ≤ b.toNat) o.b true
    (some { loads := true, stores := true, redm := false, scope := o.scope })
    (fun c a s =>
      let b := s.readBarrier c a
      let s := s.releaseAt x.k o.scope c a
      let s := (s.writeBarrier c a (b.decrement k)).putS x.k o.d (BitVec.ofNat 32 b.phase)
      (s.advance sh lanes x.k).closeRegion s.now.core s.now.slot x.k (sl.lastLive ||| liveOf [.s o.d.toNat]) sl.pc) s x sl

def execBarv (o : Sys2Proof.BarOp) (s : State) : Done := .next (issueActs (planBarv o) s)

/-- A BWAIT whose object has changed phase or faulted ends: an acquire, and the word at offset 8 (10 R213). -/
def State.pollBarrier (s : State) (w : SliceRef) : State :=
  match s.wave? w.core w.slot with
  | none => s
  | some x => match (x.slice w.slice).wait with
    | some (.bwait addr phase d scope) =>
      match s.scratch x.team (w.core / 32) addr.toNat 16 with
      | .ok (.scratch c, a) =>
        let b := s.readBarrier c a
        if (b.phase ≠ phase.toNat || b.fault) && !s.ownWriteAhead w { lane := 0, place := .scratch c, addr := a, size := 16 } then
          (((s.meet w.core w.slot (s.gen w.core w.slot) w.slice (some scope) (.scratch c) a 16).acquire w.core w.slot scope).modSlice
              w.core w.slot w.slice (fun sl => sl.write (writeFresh s.fresh w.slice) (.s d.toNat) (BitVec.ofNat 32 (ofLeBytes (s.peekN 0 (.scratch c) (a + 8) 4))))).resume w.core w.slot w.slice
        else s
      | _ => s
    | _ => s

def planBwait (o : Sys2Proof.BarOp) (s : State) (x : Ctx) (sl : Slice) : Act :=
  let phase := x.readLocAt sl 1 (.s o.b.toNat)
  planBarrier (BarOp.shape o) o.a (fun _ => false) o.b false none
    (fun _ _ s =>
      let addr := x.readLoc sl (.s o.a.toNat)
      let s := s.modNow x.k (fun sl => { sl with wait := some (.bwait (addr.setWidth 64) (phase.setWidth 16) o.d o.scope) })
      s.pollBarrier { core := s.now.core, slot := s.now.slot, slice := x.k }) s x sl

def execBwait (o : Sys2Proof.BarOp) (s : State) : Done := .next (issueActs (planBwait o) s)

/-- BWAIT_RELEASE (10 R213). -/
def execBwaitRelease (w : SliceRef) (s : State) : Done :=
  .next ((s.mates w).foldl (fun (s : State) k => s.pollBarrier { w with slice := k }) s)

/-! ### Host lines held under CXL.cache (12 R237) -/

/-- CXL_CACHE_SNOOP: the device gives the line up, once the stores that stand only in it have gone to the host; the next access
fetches it again. -/
def State.snoopLine (s : State) (line : Nat) : State :=
  let ids := match Store.find? s.hostLines line with
    | some x => ((x.dirty.map (fun (y : Nat × Nat) => y.2)).eraseDups : List Nat)
    | none => []
  let s := ids.foldl (fun (s : State) id => match Store.find? s.inflight id with
    | none => s
    | some a => (List.range a.parts.length).foldl (fun (s : State) i => match (a.parts[i]? : Option Part) with
      | some p => if p.llc && p.got.isNone && p.addr / 128 = line then
          (s.storePart id a p).modPart id i (fun q => { q with got := some .done }) else s
      | none => s) s) s
  { s with hostLines := Store.erase s.hostLines line }

def execCxlCacheSnoop (line : Nat) (s : State) : Done := .next (s.snoopLine line)

end Sys2Proof.Machine
end

