-- ==== Sys2Proof/Machine/Control.lean ====
section
/-!
DEFINITION. Branches, calls, gangs, segments, regions and system instructions (02 R66 to R83).
-/

namespace Sys2Proof.Machine

/-- A control instruction waits for the loads of open windows and closes them (01 R32). -/
def Slice.windowPending (sl : Slice) : Bool := sl.out.any (fun o => (sl.oldIn o.loc).isSome)

/-- The plan of a control or system instruction: its waits and checks, then its effect on the lanes with exec(L). -/
def planControl (sh : Shape) (edge : Bool) (go : Ctx → Slice → List Nat → Act) (_ : State) (x : Ctx) (sl : Slice) : Act :=
  let lanes := workLanes sl sh.g false
  if sl.windowPending then .stall (sl.out.find? (fun o => (sl.oldIn o.loc).isSome))
  else match operandCheck sh (edge && !lanes.isEmpty) x { sl with windows := [] } lanes with
    | some a => a
    | none => go x { sl with windows := [] } lanes

/-- The issuing slice becomes this one. -/
def Act.become (k : Nat) (f : Slice → Slice) : Act :=
  .go (fun s => s.modNow k (fun sl => f { sl with windows := [], wait := none }))

/-! ### Branches (02 R67, R70 to R72) -/

/-- The branch of R67: taken lanes, target, join, and where the lanes that fall through resume. -/
def Slice.branch (sl : Slice) (tk : Mask4) (target : Pc) (join : Option Pc) (ppc : Pc) : Slice :=
  let fl := sl.mask &&& ~~~tk
  if tk = 0 then { sl with pc := sl.pc.next }
  else if fl = 0 then { sl with pc := target }
  else
    { sl with
      stack := { jpc := join, keep := sl.mask, ppc, pmask := fl, outer := sl.join } :: sl.stack
      mask := tk, join, pc := target }

/-- A place in the current segment. -/
def Pc.at_ (p : Pc) (idx : BitVec 9) : Pc := { p with idx }

def BraOp.shape (o : Sys2Proof.BraOp) : Shape := { g := o.g, srcs := [] }

def execBra (o : Sys2Proof.BraOp) (s : State) : Done :=
  .next (issueActs (planControl (BraOp.shape o) false (fun x sl lanes =>
    Act.become x.k (fun st => st.branch (lanesMask lanes) (sl.pc.at_ o.target)
      (if o.valid then some (sl.pc.at_ o.join) else none) sl.pc.next))) s)

/-- The lanes naming the lowest target go; the others execute the BRX again (02 R71). -/
def brxBranch (st : Slice) (vals : List (Nat × W32)) : Slice :=
  match vals with
  | [] => { st with pc := st.pc.next }
  | (_, first) :: _ =>
    let target := fun (v : W32) => v.toNat % 512
    let low := vals.foldl (fun m v => min m (target v.2)) 512
    let tk := vals.filter (fun v => target v.2 = low)
    let join := if first.getLsbD 18 then some (st.pc.at_ (BitVec.ofNat 9 (first.toNat / 512))) else none
    st.branch (lanesMask (tk.map (·.1))) (st.pc.at_ (BitVec.ofNat 9 low)) join
      (if tk.length = vals.length then st.pc.next else st.pc)

def BrxOp.shape (o : Sys2Proof.BrxOp) : Shape := { g := o.g, srcs := [srcOf o.a false] }

def execBrx (o : Sys2Proof.BrxOp) (s : State) : Done :=
  .next (issueActs (fun s x sl => planControl (BrxOp.shape o) false (fun x sl lanes =>
    let uses := x.shareUses (BrxOp.shape o) lanes []
    match x.core.shareAll x.slot uses with
    | none => .wait .fullEmpty
    | some _ =>
      let vals := lanes.map (fun l => (l, (x.readReg sl o.a.reg false l).setWidth 32))
      .go (fun s => ((s.shareNow uses).markNow (BrxOp.shape o) lanes x.k).modNow x.k (fun st =>
        brxBranch { st with windows := [], wait := none } vals))) s x sl) s)

def CallOp.shape (o : Sys2Proof.CallOp) : Shape := { g := o.g, srcs := [], d := some (.s o.d, false) }

def execCall (o : Sys2Proof.CallOp) (s : State) : Done :=
  .next (issueActs (planControl (CallOp.shape o) false (fun x sl lanes =>
    Act.become x.k (fun st =>
      (if lanes.isEmpty then st else st.write x.fresh (.s o.d.toNat) (sl.pc.next.idx.setWidth 32)).branch (lanesMask lanes)
        (sl.pc.at_ o.target) (some sl.pc.next) sl.pc.next))) s)

def S1Op.shape (o : Sys2Proof.S1Op) : Shape := { g := o.g, srcs := [{ reg := .s o.a, last := o.last }] }

def execRet (o : Sys2Proof.S1Op) (s : State) : Done :=
  .next (issueActs (planControl (S1Op.shape o) false (fun x sl lanes =>
    let link := (x.readLoc sl (.s o.a.toNat)).setWidth 9
    .go (fun s => (s.markNow (S1Op.shape o) lanes x.k).modNow x.k (fun st =>
      ({ st with windows := [], wait := none } : Slice).branch (lanesMask lanes) (sl.pc.at_ link) none sl.pc.next)))) s)

/-! ### REGANG and YIELD (02 R73, R77) -/

/-- A slice waits at a REGANG of this PC. -/
def Slice.atRegang (sl : Slice) (pc : Pc) : Option (BitVec 16) :=
  match sl.wait with
  | some (.regang m) => if sl.pc = pc then some m else none
  | _ => none

/-- The slices that a REGANG at this PC releases now: those whose every named slice waits there or has exited. -/
def Wave.regangReady (x : Wave) (pc : Pc) : List Nat :=
  x.slices.keys.filter (fun k =>
    match (x.slice k).atRegang pc with
    | none => false
    | some m => (List.range 16).all (fun j => !m.getLsbD j || (x.slice j).ended || ((x.slice j).atRegang pc).isSome))

/-- Release them as one gang. -/
def State.releaseRegang (s : State) (w : SliceRef) : State :=
  match s.wave? w.core w.slot with
  | none => s
  | some x =>
    let pc := (x.slice w.slice).pc
    let ks := x.regangReady pc
    if ks.contains w.slice then
      let age := ((x.gangOf? w.slice).map (·.age)).getD 0
      let x := ks.foldl (fun (x : Wave) k => x.setSlice k { x.slice k with wait := none, pc := pc.next }) x
      s.setWave w.core w.slot (x.formGang ks age)
    else s

/-- With every slice of the issuing gang arrived, those that nothing holds go on together. -/
def State.regangNow (s : State) : State :=
  if s.now.prompt then s.now.slices.foldl (fun (s : State) k =>
    s.releaseRegang { core := s.now.core, slot := s.now.slot, slice := k }) s
  else s

def execRegang (o : Sys2Proof.RegangOp) (s : State) : Done :=
  .next (issueActs (planControl { g := o.g, srcs := [] } false (fun x _ lanes =>
    if lanes.isEmpty then Act.become x.k (fun sl => { sl with pc := sl.pc.next })
    else
      let named := (o.slices ||| (1#16 <<< x.k)) &&& BitVec.ofNat 16 (2 ^ (x.wave.width / 4) - 1)
      .go (fun s => s.modNow x.k (fun sl => { sl with windows := [], wait := some (.regang named) })))) s).regangNow

/-- REGANG_RELEASE (02 R73). -/
def execRegangRelease (w : SliceRef) (s : State) : Done := .next (s.releaseRegang w)

def execYield (o : Option Guard) (s : State) : Done :=
  .next (issueActs (planControl { g := o, srcs := [] } false (fun x _ lanes =>
    .go (fun s =>
      let s := s.modNow x.k (fun sl => { sl with windows := [], wait := none, pc := sl.pc.next })
      if lanes.isEmpty then s
      else s.modNowWave (fun w => { w with gangs := w.gangs.map (fun (g : Gang) =>
        if g.slices.contains x.k then { g with age := s.serial } else g) })))) s)

def execNop (o : Option Guard) (s : State) : Done :=
  .next (issueActs (planControl { g := o, srcs := [] } false (fun x _ _ =>
    Act.become x.k (fun sl => { sl with pc := sl.pc.next }))) s)

/-! ### Segments (02 R74, R75) -/

/-- The slice enters a segment: its store slot is the latest entered (12 R245). -/
def State.enterSegment (s : State) (c : Nat) (i : Image) (seg : BitVec 12) : State :=
  let k := s.core c
  s.setCore c { k with istore := k.istore.map (fun e => if e.image = i ∧ e.seg = seg then { e with entered := s.serial } else e) }

def execJmpf (o : Sys2Proof.JmpfOp) (s : State) : Done :=
  .next (issueActs (planControl { g := none, srcs := [] } true (fun x sl lanes =>
    if x.core.hasSegment x.wave.image o.seg then
      .go (fun s =>
        let s := s.modNow x.k (fun sl => { sl with windows := [], wait := none, pc := { seg := o.seg, idx := o.idx } })
        (s.enterSegment s.now.core x.wave.image o.seg).closeRegion s.now.core s.now.slot x.k sl.lastLive sl.pc)
    else .trap { code := 0x05, lanes := lanesMask lanes })) s)

def execCfetch (o : Sys2Proof.CfetchOp) (s : State) : Done :=
  .next (issueActs (planControl { g := o.g, srcs := [] } false (fun x _ lanes =>
    .go (fun s =>
      let s := s.modNow x.k (fun sl => { sl with windows := [], wait := none, pc := sl.pc.next })
      if lanes.isEmpty || x.wave.lastSeg < o.seg.toNat then s else s.startFetch s.now.core x.wave o.seg))) s)

/-! ### EXIT (02 R76) -/

def execExit (o : Option Guard) (s : State) : Done :=
  .next (issueActs (planControl { g := o, srcs := [] } false (fun x sl lanes =>
    let last := (sl.done ||| lanesMask lanes) = 15#4
    if last && x.core.uncommitted x.slot x.k then .wait .commit
    else if last && !sl.deferred.isEmpty then .deferred
    else
      .go (fun s =>
        let s := s.modNow x.k (fun sl =>
          let done := sl.done ||| lanesMask lanes
          ({ sl with windows := [], wait := none, done, mask := sl.mask &&& ~~~done, pc := sl.pc.next } : Slice).settle)
        if ((s.slice? s.now.core s.now.slot x.k).map (·.ended)).getD false then s.modNowWave (fun w => w.dropFromGang x.k)
        else s))) s)

/-! ### Regions (02 R78, R80, R82) -/

/-- The live-in set at an index of the procedure's table: 32 bytes for each entry, the v registers first, then the s
registers; an entry beyond the table, or one that cannot be read, is the empty set. -/
def State.liveIn (s : State) (x : Wave) (core i : Nat) : BitVec 256 :=
  if x.lastLive < i then 0
  else match s.readVirtual (s.asker x core false) (x.liveTab.toNat + 32 * i) 32 with
    | .ok bs => BitVec.ofNat 256 (ofLeBytes bs)
    | .error _ => 0

def execFret (i : BitVec 12) (s : State) : Done :=
  .next (issueActs (planControl { g := none, srcs := [] } true (fun x sl _ =>
    .go (fun s =>
      let live := s.liveIn x.wave s.now.core i.toNat
      let s := s.modNow x.k (fun sl => { sl with windows := [], wait := none, pc := sl.pc.next, lastLive := live })
      s.closeRegion s.now.core s.now.slot x.k live sl.pc))) s)

def execEnter (o : Sys2Proof.Imm16Op) (s : State) : Done :=
  .next (issueActs (planControl { g := o.g, srcs := [] } false (fun x _ lanes =>
    Act.become x.k (fun sl => { sl with pc := sl.pc.next
                                        regions := if lanes.isEmpty then sl.regions else (o.imm :: sl.regions).take 8 }))) s)

def execLeave (o : Option Guard) (s : State) : Done :=
  .next (issueActs (planControl { g := o, srcs := [] } false (fun x _ lanes =>
    Act.become x.k (fun sl => { sl with pc := sl.pc.next
                                        regions := if lanes.isEmpty then sl.regions else sl.regions.drop 1 }))) s)

def execTret (s : State) : Done :=
  .next (issueActs (fun s x sl =>
    if sl.handler.isNone then .trap { code := 0x21, lanes := sl.active }
    else planControl { g := none, srcs := [] } true (fun x sl lanes =>
      if x.core.hasSegment x.wave.image sl.tpc.seg then
        .go (fun s =>
          let s := s.modNow x.k (fun sl => { sl with windows := [], wait := none })
          s.trapReturn s.now.core s.now.slot x.k)
      else if x.wave.lastSeg < sl.tpc.seg.toNat then .trap { code := 0x05, lanes := lanesMask lanes }
      else .go (fun s => (s.setWait x.k (.segment sl.tpc.seg)).startFetch s.now.core x.wave sl.tpc.seg)) s x sl) s)

/-! ### SVC and BRK (02 R81, R83) -/

/-- The eight registers an SVC names. -/
def svcRegs (a : BitVec 3) : List Nat := (List.range 8).map (fun i => 8 * a.toNat + i)

def SvcOp.shape (o : Sys2Proof.SvcOp) : Shape := { g := o.g, srcs := (svcRegs o.a).map (fun n => { reg := .s (BitVec.ofNat 6 n) }) }

def execSvc (o : Sys2Proof.SvcOp) (s : State) : Done :=
  .next (issueActs (planControl (SvcOp.shape o) true (fun x sl lanes =>
    if lanes.isEmpty then Act.become x.k (fun sl => { sl with pc := sl.pc.next })
    else
      let v := (svcRegs o.a).map (fun n => x.readLoc sl (.s n))
      .go (fun s => s.mailSlice s.now.core s.now.slot x.k
        { kind := 2, cls := x.wave.prio.toNat, slice := x.k, wave := waveId s.now.core s.now.slot, pc := sl.pc, service := o.num
          word := s.now.word, lanes := waveLanes x.k (lanesMask lanes), addr := v.getD 1 0 ++ v.getD 0 0
          proc := v.getD 2 0, aux := v.getD 3 0, args := v.drop 4
          gen := Store.get (s.core s.now.core).gens 0 s.now.slot }
        (fun sl => { sl with windows := [] }) (.reply (8 * o.a.toNat))))) s)

/-- BRK: its code and PC stand until the slice's next edge; of two before one edge the later one does. (DESIGN CHOICE, log 72) -/
def execBrk (o : Sys2Proof.Imm16Op) (s : State) : Done :=
  .next (issueActs (planControl { g := o.g, srcs := [] } false (fun x sl lanes =>
    Act.become x.k (fun st => { st with pc := st.pc.next
                                        brk := if lanes.isEmpty then st.brk else some (o.imm, sl.pc) }))) s)

end Sys2Proof.Machine
end

