-- ==== Sys2Proof/Machine/Binding.lean ====
section
/-!
DEFINITION. Shared register ranges and queue bindings (02 R57, R58, 07 R160 to R164), with the engines of the queues.
-/

namespace Sys2Proof.Machine

/-! ### SHMAP (02 R57, 07 R160, R161) -/

/-- The slot of the wave of a team with this team index, on this core. -/
def Core.teamWave (k : Core) (team index : Nat) : Option Nat :=
  (List.find? (fun (w : Nat × Wave) => w.2.team = team && w.2.index = index && !w.2.supervisor) k.waves).map (·.1)

/-- The partner index names a wave of the team that this core may hold (02 R57). -/
def State.partnerOk (s : State) (x : Wave) (partner : Nat) : Bool :=
  match Store.find? s.teams x.team with
  | none => false
  | some t => !x.supervisor && partner < t.members && partner ≠ x.index && (!t.pair || partner % 2 = x.index % 2)

/-- The number that holds a wave of the team in shared ranges: its slot, or 64 and its entry of the park store. -/
def Core.teamHolder (k : Core) (team index : Nat) : Option Nat :=
  match k.teamWave team index with
  | some w => some w
  | none => (List.find? (fun (p : Nat × Parked) => p.2.wave.team = team && p.2.wave.index = index && !p.2.wave.supervisor)
      k.parked).map (fun p => 64 + p.1)

/-- Register n of a wave in a wave lane, as its slices hold it. -/
def Wave.vreg (x : Wave) (fresh n lane : Nat) : W32 :=
  (x.slice (lane / 4)).read (readFresh fresh (lane / 4) 0) (.v n (lane % 4))
/-- Write it: it is live, and marks of it are void. -/
def Wave.setVreg (x : Wave) (n lane : Nat) (v : W32) : Wave :=
  match Store.find? x.slices (lane / 4) with
  | none => x
  | some sl =>
    let loc : Loc := .v n (lane % 4)
    x.setSlice (lane / 4) { sl.setRaw loc v with marks := sl.marks.filter (· ≠ loc), dead := sl.dead.filter (· ≠ loc) }

/-- Offsets and lanes of a range. -/
def rangeCells (count width : Nat) : List (Nat × Nat) := (List.range count).flatMap (fun i => (List.range width).map (fun l => (i, l)))

/-- The mapping of two matching requests takes effect: the lower-indexed wave's values, every register full. -/
def State.mapShared (s : State) (c slotA slotB firstA firstB count : Nat) : State :=
  match s.wave? c slotA with
  | none => s
  | some a =>
    let vals := (rangeCells count a.width).foldl (fun (m : Store W32) (r : Nat × Nat) =>
      Store.set m 0 (64 * r.1 + r.2) (a.vreg s.fresh (firstA + r.1) r.2)) []
    s.setCore c { s.core c with shared := (s.core c).shared ++
      [{ slotA, regA := firstA, slotB, regB := firstB, count, vals, st := [] }] }

/-- Change the wave that a slot of a shared range names: a resident one, or, from 64 on, a parked one. -/
def State.modHolder (s : State) (c slot : Nat) (f : Wave → Wave) : State :=
  if slot < 64 then s.modWave c slot f
  else s.setCore c { s.core c with parked := Store.update (s.core c).parked (slot - 64) (fun p => { p with wave := f p.wave }) }

/-- A mapping ends: each wave gets its own registers back, with the shared values. -/
def State.unmapShared (s : State) (c : Nat) (h : Shared) : State :=
  let back := fun (x : Wave) (first : Nat) => (rangeCells h.count x.width).foldl (fun (x : Wave) (r : Nat × Nat) =>
    x.setVreg (first + r.1) r.2 (Store.get h.vals 0 (64 * r.1 + r.2))) x
  let s := s.setCore c { s.core c with shared := (s.core c).shared.erase h }
  (s.modHolder c h.slotA (fun x => back x h.regA)).modHolder c h.slotB (fun x => back x h.regB)

/-- Slices of a wave that wait at a SHMAP for this range go on. -/
def State.releaseShmap (s : State) (c slot : Nat) (first partner count : Nat) : State :=
  match s.wave? c slot with
  | none => s
  | some x => x.slices.keys.foldl (fun (s : State) k =>
      if (x.slice k).wait = some (.shmap first partner count) then s.resume c slot k else s) s

/-- Pair the requests of a wave that its partners have matched. -/
def State.pairShares (s : State) (c slot : Nat) : State :=
  match s.wave? c slot with
  | none => s
  | some x => x.shares.foldl (fun (s : State) r =>
    match (s.core c).teamWave x.team r.partner with
    | none => s
    | some other =>
      match (s.wave? c other).bind (fun y => y.shares.find? (fun q => q.partner = x.index && q.count = r.count)) with
      | none => s
      | some q =>
        let s := if x.index < r.partner then s.mapShared c slot other r.first q.first r.count
          else s.mapShared c other slot q.first r.first r.count
        let s := s.modWave c slot (fun w => { w with shares := w.shares.filter (· ≠ r) })
        let s := s.modWave c other (fun w => { w with shares := w.shares.filter (· ≠ q) })
        (s.releaseShmap c slot r.first r.partner r.count).releaseShmap c other q.first q.partner q.count) s

/-- The mapping a SHMAP of this wave names. -/
def Core.mapping? (k : Core) (slot first : Nat) (other : Option Nat) : Option Shared :=
  k.shared.find? (fun h => (h.slotA = slot && h.regA = first && some h.slotB = other)
    || (h.slotB = slot && h.regB = first && some h.slotA = other))

/-- Every register of the range is empty or full. -/
def Shared.settled (h : Shared) : Bool := h.st.all (fun x => x.2 == .empty || x.2 == .full)

def ShmapOp.shape (o : Sys2Proof.ShmapOp) : Shape := { g := o.g, srcs := [{ reg := .s o.a }] }

def planShmap (o : Sys2Proof.ShmapOp) (s : State) (x : Ctx) (sl : Slice) : Act :=
  let sh := ShmapOp.shape o
  let lanes := workLanes sl o.g false
  let first := o.d.toNat
  let count := o.count.toNat
  let all := lanesMask lanes
  if x.wave.allot < first + max count 1 then .trap { code := 0x04, lanes := sl.active }
  else match operandCheck sh false x sl lanes with
    | some a => a
    | none =>
      if lanes.isEmpty then .go (fun s => s.advance sh lanes x.k)
      else
        let partner := (x.readLoc sl (.s o.a.toNat)).toNat
        if !s.partnerOk x.wave partner then .trap { code := 0x04, lanes := all }
        else
          let h := x.core.mapping? x.slot first (x.core.teamHolder x.wave.team partner)
          if count = 0 then
            match h with
            | none => .go (fun s => s.advance sh lanes x.k)
            | some h => if h.settled then .go (fun s => (s.unmapShared s.now.core h).advance sh lanes x.k) else .wait .fullEmpty
          else if h.any (fun h => h.count = count) then .go (fun s => s.advance sh lanes x.k)
          else if sl.out.any (fun o => match o.loc with | .v n _ => first ≤ n && n < first + count | .s _ => false) then .stall (sl.awaited [] true)
          else
            .go (fun s =>
              let r : ShareReq := { first, partner, count }
              if ((s.core s.now.core).mapping? x.slot first (x.core.teamHolder x.wave.team partner)).any (fun h => h.count = count) then s.advance sh lanes x.k
              else
              let s := s.modNowWave (fun w => if w.shares.contains r then w else { w with shares := w.shares ++ [r] })
              let s := s.modNow x.k (fun sl => { sl with wait := some (.shmap first partner count) })
              if s.now.prompt then s.pairShares s.now.core s.now.slot else s)

def execShmap (o : Sys2Proof.ShmapOp) (s : State) : Done := .next (issueActs (planShmap o) s)

/-- SHMAP_PAIRING (02 R57). -/
def execShmapPairing (w : SliceRef) (s : State) : Done := .next (s.pairShares w.core w.slot)

/-- FULL_EMPTY_PROCEED (07 R160): the waiting access tries again. -/
def execFullEmptyProceed (w : SliceRef) (s : State) : Done :=
  .next (s.modSlice w.core w.slot w.slice (fun sl => if sl.wait = some .fullEmpty then { sl with wait := none } else sl))

/-! ### QCFG (02 R58, 07 R162) -/

/-- The registers of an aligned group of four, as sources. -/
def quadSrcs (q : SQuad) (last : Bool) : List OpSrc :=
  (List.range 4).map (fun i => { reg := .s (BitVec.ofNat 6 (4 * q.toNat + i)), last })
/-- Their values. -/
def Ctx.quad (x : Ctx) (sl : Slice) (q : SQuad) : List W32 := (List.range 4).map (fun i => x.readLoc sl (.s (4 * q.toNat + i)))

def QcfgOp.shape (o : Sys2Proof.QcfgOp) : Shape := { g := o.g, srcs := quadSrcs o.quad false }

/-- The store engine of a queue has a row on its way. -/
def State.queueStoring (s : State) (core slot : Nat) (gen : BitVec 8) (q : Nat) : Bool :=
  (s.pendingOf core slot (queueAgent q) gen).any (fun a => a.2.kind == .store)

/-- Every pushed row of the queue has been performed. -/
def Wave.queueDrained (x : Wave) (q : Nat) : Bool :=
  match Store.find? x.queues q with
  | some b => b.dir != .store || b.held.isEmpty
  | none => true

/-- The load engine's rows on their way to a queue come to nothing: it is bound anew. -/
def State.cancelQueue (s : State) (core slot q : Nat) : State :=
  { s with inflight := s.inflight.map (fun a =>
      if a.2.core = core && a.2.slot = slot && a.2.slice = queueAgent q && a.2.gen = s.gen core slot && a.2.kind.isRead
      then (a.1, { a.2 with cancelled := true }) else a) }

def planQcfg (o : Sys2Proof.QcfgOp) (s : State) (x : Ctx) (sl : Slice) : Act :=
  let sh := QcfgOp.shape o
  let lanes := workLanes sl o.g false
  match operandCheck sh false x sl lanes with
  | some a => a
  | none =>
    if lanes.isEmpty then .go (fun s => s.advance sh lanes x.k)
    else if !x.wave.queueDrained o.q.toNat || s.queueStoring s.now.core x.slot (s.gen s.now.core x.slot) o.q.toNat then .wait .queue
    else
      let v := x.quad sl o.quad
      let b : Option Queue := match o.dir with
        | .unbind => none
        | d => some { dir := d, space := o.space, wide := o.wide, base := v.getD 1 0 ++ v.getD 0 0, rows := v.getD 2 0, stride := v.getD 3 0 }
      .go (fun s => ((s.cancelQueue s.now.core s.now.slot o.q.toNat).modNowWave (fun w => { w with queues := Store.put w.queues o.q.toNat b })).advance sh lanes x.k)

def execQcfg (o : Sys2Proof.QcfgOp) (s : State) : Done := .next (issueActs (planQcfg o) s)

/-! ### The engines of the queues (07 R162, R163) -/

/-- The address of lane L's element in row k, modulo the space's width. -/
def Queue.address (b : Queue) (k lane : Nat) : Nat :=
  let n : Int := b.base.toNat + k * b.stride.toInt + lane * (if b.wide then 8 else 4)
  (n % (if b.space == .scratch then 2 ^ 32 else 2 ^ 64)).toNat

/-- The parts of lane L's element in a row, none when it cannot be reached. -/
def queueParts (s : State) (x : Wave) (core : Nat) (b : Queue) (row lane : Nat) (write : Bool) : List Part :=
  match s.partsFor x core lane (b.address row lane) (if b.wide then 8 else 4)
      (if b.space == .scratch then .scratch 0 else .hbm) (s.asker x core write) with
  | .ok ps => ps.map (·.1)
  | .error _ => []

/-- The access an engine makes for a row: a plain access that counts on no path. -/
def queueAccess (s : State) (x : Wave) (core slot q : Nat) (kind : Flight) (parts : List Part) (row : Nat) : Access :=
  { core, slot, slice := queueAgent q, gen := s.gen core slot, pc := {}, word := 0, path := none, kind, parts, lanes := 0
    process := x.process, secure := s.secureWave x, row }

/-- The wave's own writes on their way: its engine's loads come after them, and take the bytes of its stores. -/
def State.waveWrites (s : State) (core slot : Nat) : Known :=
  { past := (s.inflight.filter (fun a => a.2.core = core && a.2.slot = slot && a.2.gen = s.gen core slot && !a.2.returned
      && a.2.kind.isWrite)).map (·.1) }

/-- Put an engine's access in flight and let it go as far as it may. -/
def State.launchRow (s : State) (a : Access) : State :=
  let id := s.serial
  let after := s.waveWrites a.core a.slot
  let s := s.launchAccess a
  let s := if a.kind.isRead then { s with inflight := Store.update s.inflight id (fun b => { b with after }) } else s
  let s := s.sendLoadStore id ((Store.find? s.inflight id).getD a)
  s.progress id true

/-- QUEUE_LOAD_ROW_FETCH: one row ahead of the pops, by plain loads at .WV.  The spec names no fault of the engine: an element
that cannot be reached is a free value (log 31). -/
def execQueueLoadRowFetch (core slot q : Nat) (s : State) : Done :=
  match s.wave? core slot with
  | none => .next s
  | some x =>
    match Store.find? x.queues q with
    | none => .next s
    | some b =>
      if b.dir == .load && b.held.length < queueDepth && b.next < b.rows.toNat then
        let ps := (List.range x.width).map (fun l => queueParts s x core b b.next l false)
        let vals := ps.zipIdx.map (fun p => if p.1.isEmpty then some (Config.freeWord (s.fresh + p.2)) else none)
        let parts := ps.flatten
        let row : Row := { vals, awaits := if parts.isEmpty then [] else [s.serial] }
        let s := s.modWave core slot (fun x => { x with
          queues := Store.insert x.queues q { b with held := b.held ++ [row], next := b.next + 1 } })
        .next (if parts.isEmpty then s
          else s.launchRow (queueAccess s x core slot q (.load (.q (BitVec.ofNat 3 q)) b.wide (if b.wide then 8 else 4) false none) parts b.next))
      else .next s

/-- QUEUE_STORE_ROW_PERFORM: the oldest pushed row goes out by plain stores, once it has its values and the row before it has
been performed; an element that cannot be reached is not stored (log 31). -/
def execQueueStoreRowPerform (core slot q : Nat) (s : State) : Done :=
  match s.wave? core slot with
  | none => .next s
  | some x =>
    match Store.find? x.queues q with
    | none => .next s
    | some b =>
      match b.dir, b.held with
      | .store, row :: rest =>
        if !row.awaits.isEmpty || s.queueStoring core slot (s.gen core slot) q then .next s
        else
          let parts := row.vals.zipIdx.flatMap (fun v => match v.1 with
            | some val => ((queueParts s x core b b.next v.2 true).foldl (fun (r : List Part × List Byte) p =>
                (r.1 ++ [{ p with data := r.2.take p.size }], r.2.drop p.size)) ([], leBytes (if b.wide then 8 else 4) val.toNat)).1
            | none => [])
          let s := s.modWave core slot (fun x => { x with queues := Store.insert x.queues q { b with held := rest, next := b.next + 1 } })
          .next (if parts.isEmpty then s else s.launchRow (queueAccess s x core slot q .store parts b.next))
      | _, _ => .next s

end Sys2Proof.Machine
end

