-- ==== Sys2Proof/Machine/Keccak.lean ====
section
/-!
DEFINITION. SHAKE256 as FIPS 202 defines it (27 R445, R455, R457 name it; log 24): measurements and key hashes.
-/

namespace Sys2Proof.Machine

/-- A step of the linear-feedback register that yields the bits of the round constants. -/
def keccakShift (r : Nat) : Nat := if r < 128 then 2 * r else (2 * r - 256) ^^^ 0x71

/-- The constants of n rounds from a register on: bit 2^j - 1 of each is the register's lowest bit after j steps. -/
def keccakConstants : Nat → Nat → List (BitVec 64)
  | 0, _ => []
  | n + 1, r =>
    let (rc, r) := [0, 1, 3, 7, 15, 31, 63].foldl (fun (z : BitVec 64 × Nat) k =>
      (z.1 ||| BitVec.ofNat 64 (z.2 % 2) <<< k, keccakShift z.2)) (0, r)
    rc :: keccakConstants n r

/-- Theta: each lane, at x + 5 y, takes the parities of the columns beside it. -/
def keccakTheta (a : List (BitVec 64)) : List (BitVec 64) :=
  let parity := fun (x : Nat) => (List.range 5).foldl (fun acc y => acc ^^^ a.getD (x % 5 + 5 * y) 0) 0
  a.mapIdx (fun i v => v ^^^ parity (i + 4) ^^^ (parity (i + 1)).rotateLeft 1)

/-- Where pi puts the lane that stands at p. -/
def keccakMove (p : Nat) : Nat := p / 5 + 5 * ((2 * (p % 5) + 3 * (p / 5)) % 5)

/-- Rho and pi: along the one cycle that pi makes of the lanes but lane 0, the t-th rotated by its triangular number. -/
def keccakRhoPi (a : List (BitVec 64)) : List (BitVec 64) :=
  ((List.range 24).foldl (fun (z : List (BitVec 64) × Nat) t =>
    let q := keccakMove z.2
    (z.1.set q ((a.getD z.2 0).rotateLeft ((t + 1) * (t + 2) / 2 % 64)), q)) (a, 1)).1

/-- Chi: row by row. -/
def keccakChi (a : List (BitVec 64)) : List (BitVec 64) :=
  a.mapIdx (fun i v =>
    let beside := fun (k : Nat) => a.getD (i / 5 * 5 + (i + k) % 5) 0
    v ^^^ (~~~beside 1 &&& beside 2))

/-- One round. -/
def keccakRound (a : List (BitVec 64)) (rc : BitVec 64) : List (BitVec 64) :=
  (keccakChi (keccakRhoPi (keccakTheta a))).modify 0 (· ^^^ rc)

def keccakF (a : List (BitVec 64)) : List (BitVec 64) := (keccakConstants 24 1).foldl keccakRound a

/-- Rate of SHAKE256 in bytes. -/
def shakeRate : Nat := 136

/-- The message padded to whole blocks. -/
def shakePad (m : List (BitVec 8)) : List (BitVec 8) :=
  let n := shakeRate - m.length % shakeRate
  if n = 1 then m ++ [0x9F#8] else m ++ [0x1F#8] ++ List.replicate (n - 2) 0 ++ [0x80#8]

def lane64 (b : List (BitVec 8)) : BitVec 64 := b.foldr (fun x acc => (acc <<< 8) ||| x.setWidth 64) 0
def laneBytes (x : BitVec 64) : List (BitVec 8) := (List.range 8).map (fun i => x.extractLsb' (8 * i) 8)

/-- Absorb n blocks. -/
def shakeAbsorb : Nat → List (BitVec 64) → List (BitVec 8) → List (BitVec 64)
  | 0, st, _ => st
  | n + 1, st, m =>
    let block := (List.range 25).map (fun i => if i < 17 then lane64 ((m.drop (8 * i)).take 8) else 0)
    shakeAbsorb n (keccakF (List.zipWith (· ^^^ ·) st block)) (m.drop shakeRate)

/-- The first 64 bytes of SHAKE256. -/
def shake256 (m : List (BitVec 8)) : List (BitVec 8) :=
  let p := shakePad m
  ((shakeAbsorb (p.length / shakeRate) (List.replicate 25 0) p).take 8).flatMap laneBytes

end Sys2Proof.Machine
end

