-- ==== Sys2Proof/Machine/Preempt.lean ====
section
/-!
DEFINITION. Segment fetches (12 R245), delivery to user handlers (08 R172), and pre-emption: park-store room, the drop of a
wave, what a restart waits for, and changes of class (08 R173, 09 R183, R190 to R197).
-/

namespace Sys2Proof.Machine

/-! ### Segment fetches -/

/-- The segment a slice that waits for a fetch needs: its own, or the one its TRET returns to (02 R82). -/
def Slice.needsSegment (sl : Slice) : Option (BitVec 12) :=
  match sl.wait with
  | some (.segment seg) => some seg
  | _ => none

/-- A fetch has faulted: slices that wait for the segment trap with 0x05, and a delivery becomes a record (08 R172). -/
def State.fetchFails (s : State) (c : Nat) (e : Segment) (process : Process → Option Pc) : State :=
  (s.core c).waves.foldl (fun (s : State) w =>
    if w.2.image ≠ e.image then s
    else w.2.slices.foldl (fun (s : State) sl =>
      if sl.2.needsSegment = some e.seg then s.takeTrap c w.1 sl.1 { code := 0x05, lanes := sl.2.active }
      else match sl.2.wait with
        | some (.delivery t) =>
          if (((s.process? w.2.process).bind process).map (·.seg)) = some e.seg then
            s.mailSlice c w.1 sl.1 (trapRecord s c w.1 sl.1 w.2 sl.2 t 1) (fun st => st.setTrapRegs sl.1 t) .action
          else s
        | _ => s) s) s

/-- The 512 words of a fetched segment. -/
def segmentWords (bs : List Byte) : Store W64 :=
  (List.range 512).foldl (fun m i => Store.set m 0 i (bytesVal ((bs.drop (8 * i)).take 8))) []

/-- SEGMENT_FETCH_COMPLETE (12 R245). -/
def execSegmentFetchComplete (core index : Nat) (s : State) : Done :=
  let k := s.core core
  match k.istore[index]? with
  | none => .next s
  | some e =>
    if e.words.isSome then .next s
    else if !e.started then
      match k.takeSlot with
      | none => .next s
      | some k => .next (s.setCore core { k with istore := k.istore.map (fun f => if f = e then { e with started := true } else f) })
    else
      let q : Asker := { process := e.process, user := e.user
                         secure := ((s.process? e.process).map (·.secure)).getD false, fetch := true
                         cluster := core / 32, fresh := s.fresh + 4096 }
      let read := if e.lastSeg < e.seg.toNat then .error 0x20
        else s.readVirtual q ((e.code.toNat + 4096 * e.seg.toNat) % 2 ^ 64) 4096
      match read with
      | .ok bs => .next (s.setCore core { k with istore := k.istore.map (fun f =>
          if f = e then { e with words := some (segmentWords bs), entered := s.serial } else f) })
      | .error _ =>
        .next ((s.setCore core { k with istore := k.istore.filter (· ≠ e) }).fetchFails core e (·.handler?))

/-- USER_TRAP_DELIVERY (08 R172): a trap that waited for its handler's segment, or for what an edge waits for, is delivered
if it may be.  The tvec that stands now decides. (DESIGN CHOICE, log 82) -/
def execUserTrapDelivery (w : SliceRef) (s : State) : Done :=
  match s.slice? w.core w.slot w.slice with
  | some { wait := some (.delivery t), .. } => .next (s.deliverDue w.core w.slot w.slice t)
  | _ => .next s

/-! ### Park-store room (08 R173, 09 R195) -/

/-- The bytes a live-in set takes: v registers below the allotment, s registers, predicates. -/
def liveArea (allot : Nat) (m : BitVec 256) : Nat :=
  let n := fun lo hi => ((List.range (hi - lo)).filter (fun i => m.getLsbD (lo + i))).length
  let bytes := 16 * n 0 (min 128 allot) + 4 * n 128 192 + (n 192 256 + 1) / 2
  (bytes + 63) / 64 * 64

/-- The live-in sets of a table. -/
def State.liveSets (s : State) (q : Asker) (tab lives : Nat) : List (BitVec 256) :=
  match s.readVirtual q tab (32 * (lives + 1)) with
  | .ok bs => (List.range (lives + 1)).map (fun i => BitVec.ofNat 256 (ofLeBytes ((bs.drop (32 * i)).take 32)))
  | .error _ => []

/-- What a wave of this width and allotment reserves. -/
def parkNeed (width allot : Nat) (sets : List (BitVec 256)) : Nat :=
  64 + width / 4 * (192 + (sets.map (liveArea allot)).foldl max 0)

def parkStore : Nat := 262144
/-- pkfree (09 R183). (DEDUCED, log 52) -/
def Core.pkfree (k : Core) : Nat :=
  parkStore - ((k.waves.map (fun w => w.2.resv)).sum + (k.parked.map (fun p => p.2.wave.resv)).sum)

/-! ### The drop (09 R191 to R194) -/

/-- Registers of a live-in set that the drop keeps. -/
def keepLive (m : BitVec 256) : Loc → Bool
  | .v n _ => m.getLsbD n
  | .s n => m.getLsbD (128 + n)

/-- A kernel instruction that has begun and is a region edge: it completes whatever becomes of its wave (17 R331). -/
def Slice.begun (sl : Slice) : Option KernelReturn := sl.kret.filter (·.edge)

/-- A slice as the park store holds it: its restart point, the live-in registers, and what the drop keeps beside them. -/
def Slice.cut (sl : Slice) (returns : Nat → Bool) : Slice :=
  if sl.ended then sl
  else
    let r : Restart := match sl.wait with
      | some (.reply base) =>
        { pc := sl.pc.next, mask := sl.mask, done := sl.done, join := sl.join, stack := sl.stack, regions := sl.regions
          live := sl.lastLive ||| liveOf ((List.range 8).map (fun i => .s (base + i))), gang := sl.restart.gang }
      | _ => sl.restart
    let traps := sl.handler.isSome || sl.afterTret
    let reply := match sl.wait with | some (.reply b) => some (Wait.reply b) | _ => none
    { pc := r.pc, mask := r.mask, done := r.done, join := r.join, stack := r.stack, regions := r.regions
      v := sl.v.filter (fun e => r.live.getLsbD (e.1 / 4)), s := sl.s.filter (fun e => r.live.getLsbD (128 + e.1))
      p := sl.p.filter (fun e => r.live.getLsbD (192 + e.1))
      tpc := if traps then sl.tpc else {}, lmask := if traps then sl.lmask else 0, tcode := if traps then sl.tcode else 0
      handler := sl.handler, afterTret := sl.afterTret, restart := r, lastLive := sl.lastLive, wait := reply, kret := sl.begun
      out := sl.out.filter (fun o => returns o.id || (o.by_ == .kernel && sl.begun.any (fun b => b.id = o.id)))
      brk := if reply.isSome then sl.brk else none, knows := sl.knows, fenced := sl.fenced, met := sl.met
      dead := sl.dead.filter (keepLive r.live), stopped := sl.stopped, deferred := sl.deferred }

/-- A request to a peer changes something at the object's home, so that its instruction has begun there (17 R311). -/
def KernelOp.commitsAway : KernelOp → Bool
  | .pnote _ _ | .nsbind _ _ => true
  | _ => false

/-- An edge of the wave has begun and not completed (02 R44). -/
def Wave.edgeBegun (x : Wave) : Bool := x.slices.any (fun sl => match sl.2.wait with
  | some (.monitor m) => m.edge
  | some .kernel => sl.2.kwait.any (fun kw => kw.ask.isSome && kw.op.commitsAway)
  | _ => false)

/-! ### Questions to peers that nobody awaits any more (17 R311) -/

/-- The place a peer has given is given up; an answer still to come finds its question cancelled. -/
def State.withdrawAsked (s : State) (id key : Nat) : State :=
  match Store.find? s.inflight id with
  | none => s
  | some a =>
    if a.parts.all (fun p => p.got.isSome) then
      let s := { s with inflight := Store.erase s.inflight id }
      match a.parts with
      | [{ place := .peer dst, addr, got := some (.status 0), .. }] => s.sendPacket dst 0 none 0 (.withdraw addr key)
      | _ => s
    else { s with inflight := Store.insert s.inflight id { a with cancelled := true } }

/-- A question whose asker is gone, whatever it asked. -/
def State.dropAsk (s : State) (ask : Option Nat) (key : Nat) : State := match ask with
  | some id => s.withdrawAsked id key
  | none => s

/-- The questions of a wave's instructions that have not begun. -/
def State.dropAsks (s : State) (x : Wave) : State :=
  x.slices.foldl (fun (s : State) sl => match sl.2.kwait with
    | some kw => s.dropAsk kw.ask kw.id
    | none => s) s

/-- A slice that ends gives up the kernel instruction it waits at: nothing is counted for it any more. -/
def State.dropKernelWait (s : State) (c w k : Nat) : State :=
  match (s.slice? c w k).bind (·.kwait) with
  | none => s
  | some kw =>
    let s := s.dropAsk kw.ask kw.id
    let s := match Store.find? s.inflight kw.id with
      | some a => s.finish kw.id a
      | none => s
    s.modSlice c w k (fun sl => { sl with kwait := none })

/-- Shared ranges of a slot, and pending fills of its, are named by another one. -/
def Core.renameShared (k : Core) (a b : Nat) : Core :=
  { k with shared := k.shared.map (fun h =>
      let h := if h.slotA = a then { h with slotA := b } else h
      let h := if h.slotB = a then { h with slotB := b } else h
      { h with st := h.st.map (fun x => (x.1, match x.2 with
          | .filled w => if w = a then .filled b else x.2
          | y => y)) }) }

/-- Loads of a slot cancelled by drops and still out (09 R192). -/
def State.cancelledLoads (s : State) (c w : Nat) : Nat :=
  (s.inflight.filter (fun a => a.2.core = c && a.2.slot = w && a.2.cancelled)).length

/-- The slot's tag generation may advance: no access on its way, and no parked wave, carries the next one (09 R192).
(DEDUCED, log 80) -/
def State.genFree (s : State) (c w : Nat) : Bool :=
  let next := s.gen c w + 1
  s.inflight.all (fun a => !(a.2.core = c && a.2.slot = w && a.2.gen = next))
    && (s.core c).parked.all (fun p => !(p.2.slot = w && p.2.gen = next))

/-- A load queue keeps the rows that have come: the engine fetches the others again (07 R162, 09 R191). -/
def Queue.cut (b : Queue) : Queue :=
  if b.dir == .load then
    let held := b.held.takeWhile (fun r => r.awaits.isEmpty)
    { b with held, next := b.row + held.length }
  else b

/-- Bytes that a drop writes to the park store (08 R173). -/
def parkBytes (x : Wave) : Nat :=
  64 + ((x.slices.filter (fun sl => !sl.2.ended)).map (fun sl => 128 + liveArea x.allot sl.2.restart.live)).sum

/-- Slot number that stands for a parked wave in shared ranges. (DEDUCED, log 52) -/
def parkedSlot (entry : Nat) : Nat := 64 + entry

/-- Drop a user wave: tag generation, cancelled loads, parked slices, shared registers, shadows, slot and block; the
entry joins the run queue of its class. -/
def State.dropWave (s : State) (c w : Nat) : State :=
  match s.wave? c w with
  | none => s
  | some x =>
    let gen := s.gen c w
    let mine := fun (a : Access) => a.core = c && a.slot = w && a.gen = gen
    let kept := x.slices.filterMap (fun sl => sl.2.begun.map (·.id))
    let kicks := (s.cluster (c / 32)).copyQueue.map (·.id)
    let gone := fun (i : Nat) (a : Access) => mine a && (a.returned || (a.kind == .counted && !kept.contains i && !kicks.contains i))
    let load := fun (a : Access) => mine a && (match a.kind with | .load _ _ _ _ _ => true | _ => false)
    let atoms := fun (id : Nat) => ((Store.find? s.inflight id).map (fun a =>
      a.kind.isRead && mine a && !load a && !a.returned)).getD false
    let s := (s.settleShared c w false atoms).dropAsks x
    let k := s.core c
    match Store.freeKey k.parked 0 (k.parked.length + 1) with
    | none => s
    | some entry =>
      let park : Wave := { x with
        slices := x.slices.map (fun sl => (sl.1, sl.2.cut atoms)), counters := [], gangs := [], shares := [], hold := none
        queues := x.queues.map (fun b => (b.1, b.2.cut))
        slots := x.slots.filter (fun z => z.2.loaded) }
      let mark := fun (r : MailRecord) =>
        if r.wave = waveId c w && r.gen = gen && r.kind ≤ 4 then { r with parked := true } else r
      let k := { k with
        waves := Store.erase k.waves w
        gens := Store.set k.gens 0 w (gen + 1)
        parked := Store.insert k.parked entry { wave := park, slot := w, gen }
        mailbox := k.mailbox.map mark, heldMail := k.heldMail.map mark
        passes := k.passes.filter (fun p => p.slot ≠ w) }
      let s := s.setCore c (k.renameShared w (parkedSlot entry))
      let s := (s.bump (c / 32) 8 1).bump (c / 32) 9 (parkBytes park)
      let cl := s.cluster (c / 32)
      let s := s.setCluster (c / 32) { cl with runq := cl.runq ++ [(x.prio.toNat, .parked c entry)] }
      { s with inflight := (s.inflight.filter (fun a => !gone a.1 a.2)).map (fun a =>
          if load a.2 then (a.1, { a.2 with cancelled := true }) else a) }

/-- A wave that may be dropped: a user wave of class 1 to 3 with no edge half done, whose slot's generation may advance. -/
def State.canDrop (s : State) (c w : Nat) : Bool :=
  match s.wave? c w with
  | some x => !x.supervisor && x.prio ≠ 0 && !x.edgeBegun && s.genFree c w
  | none => false

/-! ### Vector register blocks (07 R153 to R155) -/

/-- Units of a block. -/
def blockUnits (width allot : Nat) : Nat := allot * (width / 16)
def poolUnits : Nat := 16384

/-- The blocks in use, first unit and size. -/
def Core.blocks (k : Core) : List (Nat × Nat) :=
  (k.waves.filter (fun w => !w.2.supervisor)).map (fun w => (w.2.base, blockUnits w.2.width w.2.allot))

def blockFree (used : List (Nat × Nat)) (a n : Nat) : Bool := used.all (fun b => a + n ≤ b.1 || b.1 + b.2 ≤ a)

/-- The free block at a of size n is not half of a larger free block. -/
def maximalFree (used : List (Nat × Nat)) (a n : Nat) : Bool :=
  blockFree used a n && (n = 512 || !blockFree used (a / (2 * n) * (2 * n)) (2 * n))

/-- The lowest-addressed free block of exactly this size. -/
def lowestFree (used : List (Nat × Nat)) (n : Nat) : Option Nat :=
  ((List.range (poolUnits / n)).map (· * n)).find? (fun a => maximalFree used a n)

/-- The block the allocator hands out: the lowest of its size, or the lower end of the lowest of the least larger size. -/
def allocBlock (used : List (Nat × Nat)) (n : Nat) : Option Nat :=
  ([16, 32, 64, 128, 256, 512].filter (n ≤ ·)).findSome? (lowestFree used)

/-- Blocks for a list of sizes, one after the other. -/
def allocBlocks (used : List (Nat × Nat)) : List Nat → Option (List Nat)
  | [] => some []
  | n :: ns =>
    match allocBlock used n with
    | none => none
    | some a => (allocBlocks ((a, n) :: used) ns).map (a :: ·)

/-! ### Restart (09 R196, 06 R139) -/

/-- Slices whose restart points hold one PC and which stood in one gang there form one gang again. -/
def Wave.restartGangs (x : Wave) : List Gang :=
  (x.slices.keys.filter (fun k => !(x.slice k).ended)).foldl (fun (gs : List Gang) k =>
    let sl := x.slice k
    let fits := fun (g : Gang) => g.slices.all (fun j =>
      (x.slice j).pc = sl.pc && (x.slice j).restart.gang.contains k && sl.restart.gang.contains j)
    match gs.findIdx? fits with
    | some i => gs.modify i (fun g => { g with slices := g.slices ++ [k] })
    | none => gs ++ [{ slices := [k], age := x.created }]) []

/-- Every return and store of a parked wave is complete (09 R194, R196). (DEDUCED, log 52) -/
def State.parkedReady (s : State) (c : Nat) (p : Parked) : Bool :=
  s.inflight.all (fun a => !(a.2.core = c && a.2.slot = p.slot && a.2.gen = p.gen && !a.2.returned && !a.2.cancelled
      && a.2.kind ≠ .counted))
    && p.wave.slices.all (fun sl => sl.2.ended || (sl.2.wait.isNone && sl.2.kret.isNone))

def Core.slotFree (k : Core) (slot : Nat) : Bool := slot < 63 && (Store.find? k.waves slot).isNone

/-- A parked wave can start again: a slot and a block are free, and nothing of its is on its way (09 R196). -/
def State.canRestart (s : State) (core entry : Nat) : Bool :=
  let k := s.core core
  match Store.find? k.parked entry with
  | none => false
  | some p => (List.range 63).any k.slotFree && s.parkedReady core p
      && (allocBlock k.blocks (blockUnits p.wave.width p.wave.allot)).isSome

/-! ### drop and reprio (09 R183) -/

/-- What the supervisor's write to drop does. -/
def State.dropByName (s : State) (c : Nat) (value : W64) : State :=
  let id := value.toNat % 2 ^ 15
  if waveIdCore id = c && s.canDrop c (waveIdSlot id) then s.dropWave c (waveIdSlot id) else s

/-- The reservation of a wave that stops being class 0. -/
def State.waveNeed (s : State) (c : Nat) (x : Wave) : Nat :=
  parkNeed x.width x.allot (s.liveSets (s.asker x c false) x.liveTab.toNat x.lastLive)

/-- What a write to reprio does; none when park-store room is wanting. -/
def State.reprioByName (s : State) (c : Nat) (value : W64) : Option State :=
  let cls : BitVec 2 := value.extractLsb' 15 2
  let id := value.toNat % 2 ^ 15
  let w := waveIdSlot id
  if waveIdCore id ≠ c || w = 63 then some s
  else
    let room := fun (x : Wave) => if x.prio = 0 && cls ≠ 0 && x.resv = 0 then s.waveNeed c x else 0
    match s.wave? c w with
    | some x =>
      if (s.core c).pkfree < room x then none
      else some (s.setWave c w { x with prio := cls, resv := if cls = 0 then 0 else x.resv + room x
                                        hold := if cls = 0 then none else x.hold })
    | none =>
      match List.find? (fun (p : Nat × Parked) => p.2.slot = w) (s.core c).parked.reverse with
      | none => some s
      | some (entry, p) =>
        if (s.core c).pkfree < room p.wave then none
        else
          let s := s.setCore c { s.core c with
            parked := Store.insert (s.core c).parked entry { p with wave := { p.wave with prio := cls, resv := p.wave.resv + room p.wave } } }
          let cl := s.cluster (c / 32)
          some (s.setCluster (c / 32) { cl with
            runq := cl.runq.filter (fun e => e.2 ≠ .parked c entry) ++ [(cls.toNat, .parked c entry)] })

end Sys2Proof.Machine
end

