-- ==== Sys2Proof/Machine/Quant.lean ====
section
/-!
DEFINITION. Q4 blocks (03 R101 to R105), the elements of matrix operands, and the group sums of the matrix array (14 R282,
16 R300).
-/

namespace Sys2Proof.Machine

/-! ### Q4 blocks -/

/-- Magnitudes of the sign-magnitude types by code, in eighths (03 R103). -/
def q4Mags : Nat → List Nat
  | 1 => [0, 4, 8, 12, 16, 24, 32, 48]
  | 2 => [0, 1, 2, 4, 8, 16, 32, 64]
  | 3 => [0, 8, 16, 24, 32, 48, 64, 96]
  | _ => [0, 8, 16, 24, 32, 40, 48, 56]

/-- An element of a block: scale × q(code), or NaN (03 R102, R103). -/
def q4Val (scale code : Nat) : FVal :=
  let e := scale % 64
  if e = 63 then .nan false
  else
    let x : Int := (e : Int) - 34
    if scale / 64 % 4 = 0 then
      (if code < 8 then .num false (8 * code) x else .num true (8 * (16 - code)) x)
    else .num (8 ≤ code) ((q4Mags (scale / 64 % 4)).getD (code % 8) 0) x

/-- The order of a × 2^k and b. -/
def cmpPow (a : Nat) (k : Int) (b : Nat) : Ordering :=
  if 0 ≤ k then compare (a * 2 ^ k.toNat) b else compare a (b * 2 ^ (-k).toNat)

/-- The code whose value is nearest to m × 2^e at scale exponent s, ties to the even code, saturating (03 R105). -/
def q4Code (type : Nat) (neg : Bool) (m : Nat) (e : Int) (s : Nat) : Nat :=
  let mags := q4Mags type
  let above := fun (i : Nat) =>
    -- twice the value in eighths against the sum of codes i and i + 1
    match cmpPow m (e - s + 35) (mags.getD i 0 + mags.getD (i + 1) 0) with
    | .lt => false
    | .gt => true
    | .eq => i % 2 = 1
  let c := ((List.range 7).filter above).length
  if c = 0 || !neg then c else if type = 0 then 16 - c else 8 + c

/-- The scale byte and the codes a writing unit gives a block of FP32 patterns (03 R105). -/
def q4Encode (type : Nat) (xs : List Nat) : Nat × List Nat :=
  let vs := xs.map fp32.val
  if vs.any (fun v => match v with | .num _ _ _ => false | _ => true) then (type * 64 + 63, xs.map (fun _ => 0))
  else
    let top := (q4Mags type).getD 7 0
    let fits := fun (s : Nat) => vs.all (fun v => match v with
      | .num _ m e => cmpPow m (e - s + 34) top != .gt
      | _ => true)
    let s := ((List.range 63).find? fits).getD 62
    (type * 64 + s, vs.map (fun v => match v with
      | .num n m e => q4Code type n m e s
      | _ => 0))

/-! ### Elements of matrix operands -/

end Sys2Proof.Machine

namespace Sys2Proof

open Machine

/-- Half bytes of an element. -/
def MFmt.nibbles : MFmt → Nat
  | .bf16 | .f16 => 4
  | .e4m3 | .e5m2 | .s8 | .n8 => 2
  | .q4 => 1

/-- An element from its bits and its block's scale byte. -/
def MFmt.elem (f : MFmt) (bits scale : Nat) : FVal :=
  match f with
  | .bf16 => Machine.bf16.val bits
  | .f16 => fp16.val bits
  | .e4m3 => Machine.e4m3.val bits
  | .e5m2 => Machine.e5m2.val bits
  | .s8 => if bits < 128 then .num false bits 0 else .num true (256 - bits) 0
  | .n8 => .num false bits 0
  | .q4 => q4Val scale bits

/-- The depth and accumulator of a combination, if the unit implements it (14 R282, 16 R301). -/
def MFmt.combo (a b : MFmt) : Option (AccTy × Nat) :=
  match a, b with
  | .bf16, .bf16 | .bf16, .q4 | .f16, .f16 | .f16, .q4 => some (.f32, 32)
  | .e4m3, .e4m3 | .e4m3, .e5m2 | .e5m2, .e4m3 | .e5m2, .e5m2 | .e4m3, .q4 | .e5m2, .q4 => some (.f32, 64)
  | .q4, .q4 => some (.f32, 128)
  | .s8, .s8 | .n8, .s8 => some (.s32, 64)
  | _, _ => none

end Sys2Proof

namespace Sys2Proof.Machine

/-- n elements of a row from element k on: bytes of the row, and the scale byte of each block of bl. -/
def rowElems (f : MFmt) (bl : Nat) (row : List Byte) (scales : List Byte) (k n : Nat) : List FVal :=
  let w := f.nibbles
  (List.range n).map (fun i =>
    let e := k + i
    let bits := if w = 1 then (row.getD (e / 2) 0).toNat / 16 ^ (e % 2) % 16
      else ofLeBytes ((row.drop (e * w / 2)).take (w / 2))
    f.elem bits ((scales.getD (e / bl) 0).toNat))

/-! ### Group sums (14 R282, 16 R300) -/

/-- One group of products added to an FP32 accumulator. -/
def groupFloat (x : Nat) (prods : List (FVal × FVal)) : Nat :=
  let s := (fp32.sumProducts .rne false prods []).1
  (fp32.sumProducts .rne false [] [fp32.val x, fp32.val s]).1

/-- One group of products added to an s32 accumulator. -/
def groupInt (sat : Bool) (x : Nat) (prods : List (FVal × FVal)) : Nat :=
  let s := exactSum (prods.filterMap (fun p => (p.1.mul p.2).bind FVal.num?)) 0
  let y := (BitVec.ofNat 32 x).toInt + s
  let y := if sat then max (-(2 ^ 31)) (min (2 ^ 31 - 1) y) else y
  (y % 2 ^ 32).toNat

/-- An output of the array: groups of 32 products in ascending K. -/
def dotGroups (acc : AccTy) (sat : Bool) : Nat → Nat → List (FVal × FVal) → Nat
  | 0, x, _ => x
  | n + 1, x, ps =>
    let g := ps.take 32
    dotGroups acc sat n (if acc = .f32 then groupFloat x g else groupInt sat x g) (ps.drop 32)

end Sys2Proof.Machine
end

