-- ==== Sys2Proof/Machine/Matrix.lean ====
section
/-!
DEFINITION. The matrix unit (chapters 14 and 16): operand-buffer records, weight slots, tiles and their tokens, the array
with its passes, shadows and commits, and drains.
-/

namespace Sys2Proof.Machine

/-! ### Storage (16 R298, R304) -/

def roundUp (n unit : Nat) : Nat := (n + unit - 1) / unit * unit

/-- Bytes of the operand buffer a record takes, and of the weight buffer a slot takes. -/
def ObRecord.room (r : ObRecord) : Nat := roundUp (r.extent + r.scales.length) 256
def WeightSlot.room (z : WeightSlot) : Nat := roundUp z.bytes.length 512

/-- Class and size of every piece of a kind that the core's waves hold, resident and parked. -/
def Core.held (k : Core) (f : Wave → List (Nat × Nat)) : List (Nat × Nat) :=
  k.waves.flatMap (fun w => f w.2) ++ k.parked.flatMap (fun p => f p.2.wave)

/-- A piece of this size fits beside what is held: below the store's size, and for classes 1 to 3 below their limit. -/
def roomFor (held : List (Nat × Nat)) (cap lim cls need : Nat) : Bool :=
  (held.map (·.2)).sum + need ≤ cap
    && (cls = 0 || ((held.filter (fun h => h.1 ≠ 0)).map (·.2)).sum + need ≤ lim)

/-- What is held, with the issuing wave as it would stand without the piece it replaces. -/
def Ctx.heldBut (x : Ctx) (w : Wave) (f : Wave → List (Nat × Nat)) : List (Nat × Nat) :=
  { x.core with waves := Store.insert x.core.waves x.slot w }.held f

def Wave.heldRecords (w : Wave) : List (Nat × Nat) := w.records.map (fun r => (r.2.cls, r.2.room))
def Wave.heldSlots (w : Wave) : List (Nat × Nat) := w.slots.map (fun z => (z.2.cls, z.2.room))
def Wave.heldTiles (w : Wave) : List (Nat × Nat) := w.tiles.map (fun t => (t.2.cls, 1))

/-! ### Earlier matrix work (14 R280, R281, R283) -/

/-- The tile and first row of a course (14 R282). -/
def courseTile (d c : Nat) : Nat × Nat := (if c < 4 then d else d + 1, 16 * (c % 4))

/-- Passes of the issuing wave that have not committed. -/
def Core.passesOf (k : Core) (slot : Nat) : List Pass := k.passes.filter (fun p => p.slot = slot)

def Pass.tiles (p : Pass) : List (Nat × Nat) := p.courses.map (fun c => courseTile p.op.d.toNat c.1)

/-- The opcode and the field at [37:34] of a word. -/
def wordOp (w : W64) : Nat := w.toNat / 2 ^ 54
def wordD (w : W64) : Nat := w.toNat / 2 ^ 34 % 16

/-- A drain of the wave on a tile whose writes have not all been performed. -/
def State.drainOn (s : State) (core slot : Nat) (gen : BitVec 8) (tile : Nat) : Bool :=
  s.inflight.any (fun a => a.2.core = core && a.2.slot = slot && a.2.gen = gen && !a.2.returned && wordOp a.2.word = 0xA8
    && (courseTile (wordD a.2.word) (a.2.slice / 2)).1 = tile)

/-- An MMA or MDRAIN of the wave on a tile has not completed. -/
def State.tileBusy (s : State) (x : Ctx) (tile : Nat) : Bool :=
  (x.core.passesOf x.slot).any (fun p => p.tiles.any (fun t => t.1 = tile))
    || s.drainOn s.now.core x.slot (s.gen s.now.core x.slot) tile

/-! ### Slice-wise matrix instructions -/

/-- Issue for the gang one slice after the other: each sees what those before it did (15, index 42). (DEDUCED, log 51) -/
def issueEach (plan : State → Ctx → Slice → Act) (s : State) : State :=
  match s.wave? s.now.core s.now.slot with
  | none => s
  | some x =>
    let acts := s.now.slices.map (fun k => plan s (s.ctx x k) (x.slice k))
    if acts.any Act.isStall then s.stallOn (s.now.slices.zip (acts.map Act.stall?))
    else if waitTogether (s.now.slices.zip (acts.map Act.wait?)) then s.waitAll (s.now.slices.zip (acts.map Act.wait?))
    else s.now.slices.foldl (fun s k =>
      match s.wave? s.now.core s.now.slot with
      | none => s
      | some x => commitAct s k (plan s (s.ctx x k) (x.slice k))) s

/-- The checks of a slice-wise instruction, then its effect on the lanes with exec(L). -/
def planSliceWise (sh : Shape) (edge : Bool) (go : State → Ctx → Slice → List Nat → Act) (s : State) (x : Ctx) (sl0 : Slice) : Act :=
  let lanes := workLanes sl0 sh.g false
  let sl := sl0.atEdge (edge && !lanes.isEmpty)
  match operandCheck sh (edge && !lanes.isEmpty) x sl lanes with
  | some a => a
  | none => if lanes.isEmpty then .go (fun s => s.advance sh lanes x.k) else go s x sl lanes

/-- The instruction is done: the next one, and for an edge the restart point. -/
def State.matrixDone (s : State) (sh : Shape) (edge : Bool) (x : Ctx) (sl : Slice) (lanes : List Nat) : State :=
  let s := s.advance sh lanes x.k
  if edge then s.closeRegion s.now.core s.now.slot x.k sl.lastLive sl.pc else s

/-! ### Snapshots of scratch (14 R279, R281) -/

/-- The first byte of a scratch range that lies outside the team's windows. -/
def State.firstOutside (s : State) (team cluster va n : Nat) : Nat :=
  match (List.range n).find? (fun i => match s.scratch team cluster (va + i) 1 with | .ok _ => false | .error _ => true) with
  | some i => va + i
  | none => va

/-- A write of the slice to these scratch bytes, or one that its reads come after, is still on its way (13 R251, R258). -/
def State.scratchWriteAhead (s : State) (x : Ctx) (place : Place) (a n : Nat) : Bool :=
  s.ownWriteAhead { core := s.now.core, slot := x.slot, slice := x.k } { lane := 0, place, addr := a, size := n }

/-- The bytes of scratch ranges, or the act that comes before they can be read: the trap of the first range that lies
outside, or nothing while an earlier write of the slice is on its way. -/
def State.snapshot (s : State) (x : Ctx) (lanes : List Nat) (rs : List (Nat × Nat)) : Except Act (List (List Byte)) :=
  let team := x.wave.team
  let cl := s.now.core / 32
  match rs.find? (fun r => match s.scratch team cl r.1 r.2 with | .ok _ => false | .error _ => true) with
  | some r => .error (.trap { code := 0x08, lanes := lanesMask lanes, addr := BitVec.ofNat 64 (s.firstOutside team cl r.1 r.2) })
  | none =>
    let where_ := rs.map (fun r => match s.scratch team cl r.1 r.2 with
      | .ok (p, a) => (p, a, r.2)
      | .error _ => (Place.device, 0, 0))
    match s.acquireAhead s.now.core x.slot x.k with
    | some id => .error (.wait (.acquire id))
    | none =>
    if where_.any (fun w => s.scratchWriteAhead x w.1 w.2.1 w.2.2) then .error (.stall none)
    else .ok (where_.map (fun w => s.peekN 0 w.1 w.2.1 w.2.2))

/-! ### OBRES and OBREL -/

def ObresOp.shape (o : Sys2Proof.ObresOp) : Shape := { g := o.g, srcs := quadSrcs o.quad o.last }

def blockLen (wide : Bool) : Nat := if wide then 32 else 16

/-- An MMA of the wave names the record, or the slot. -/
def Ctx.recordBusy (x : Ctx) (d : Nat) : Bool := (x.core.passesOf x.slot).any (fun p => p.op.a.toNat = d)
def Ctx.slotBusy (x : Ctx) (d : Nat) : Bool := (x.core.passesOf x.slot).any (fun p => p.op.b.toNat = d)

/-- OBRES (14 R279). -/
def planObres (o : Sys2Proof.ObresOp) : State → Ctx → Slice → Act :=
  planSliceWise (ObresOp.shape o) true (fun s x sl lanes =>
    let v := (x.quad sl o.quad).map (fun (r : W32) => r.toNat)
    let base := v.getD 0 0
    let extent := v.getD 1 0
    let stride := v.getD 3 0
    let bl := blockLen o.wide
    let q4 := o.fmt == .q4
    if extent = 0 || 65536 < extent || stride = 0 || base % 16 ≠ 0 || stride % 16 ≠ 0 || (q4 && stride % (bl / 2) ≠ 0) then
      .trap { code := 0x03, lanes := lanesMask lanes }
    else
      let rows := (extent + stride - 1) / stride
      let nsc := if q4 then rows * (2 * stride / bl) else 0
      match s.snapshot x lanes ((base, extent) :: (if q4 then [(v.getD 2 0, nsc)] else [])) with
      | .error a => a
      | .ok bs =>
        let r : ObRecord := { base, extent, stride, fmt := o.fmt, wide := o.wide, snap := bs.getD 0 [], scales := bs.getD 1 []
                              cls := x.wave.prio.toNat }
        if x.recordBusy o.d.toNat then .wait .token
        else if !roomFor (x.heldBut { x.wave with records := Store.erase x.wave.records o.d.toNat } (·.heldRecords)) 262144 196608
            r.cls r.room then .wait .storage
        else .go (fun s => (s.modNowWave (fun w => { w with records := Store.insert w.records o.d.toNat r })).matrixDone
          (ObresOp.shape o) true x sl lanes))

def execObres (o : Sys2Proof.ObresOp) (s : State) : Done := .next (issueEach (planObres o) s)

/-- OBREL (14 R280). -/
def execObrel (o : Sys2Proof.ObrelOp) (s : State) : Done :=
  .next (issueEach (planSliceWise { g := o.g, srcs := [] } true (fun _ x sl lanes =>
    if x.recordBusy o.d.toNat then .wait .token
    else .go (fun s => (s.modNowWave (fun w => { w with records := Store.erase w.records o.d.toNat })).matrixDone
      { g := o.g, srcs := [] } true x sl lanes))) s)

/-! ### WLD and WINV (14 R281) -/

def WldOp.shape (o : Sys2Proof.WldOp) : Shape := { g := o.g, srcs := quadSrcs o.quad o.last }

/-- Bytes of a row of a panel, of its scales and of the whole image. -/
def panelRow (f : MFmt) (kp : Nat) : Nat := kp * f.nibbles / 2
def panelScales (f : MFmt) (bl kp : Nat) : Nat := if f = .q4 then 64 * kp / bl else 0
def panelImage (f : MFmt) (bl kp : Nat) : Nat := 64 * panelRow f kp + panelScales f bl kp

/-- Bytes of the present mask of an image, and the chunks it says are present. -/
def maskBytes (image : Nat) : Nat := (image / 64 + 63) / 64 * 8
def chunkPresent (bs : List Byte) (i : Nat) : Bool := (bs.getD (i / 8) 0).getLsbD (i % 8)
def presentChunks (bs : List Byte) (image : Nat) : Nat := ((List.range (image / 64)).filter (chunkPresent bs)).length

/-- Expand a stream: absent chunks are zero. -/
def expandChunks (mask : List Byte) : List Nat → List Byte → List Byte
  | [], _ => []
  | i :: is, bs =>
    if chunkPresent mask i then bs.take 64 ++ expandChunks mask is (bs.drop 64)
    else List.replicate 64 0 ++ expandChunks mask is bs
def expandStream (bs : List Byte) (image : Nat) : List Byte :=
  expandChunks bs (List.range (image / 64)) (bs.drop (maskBytes image))

/-- The image of a slot. -/
def WeightSlot.image (z : WeightSlot) : List Byte :=
  if z.z then expandStream z.bytes (panelImage z.fmt (blockLen z.wide) z.kp) else z.bytes

def planWld (o : Sys2Proof.WldOp) : State → Ctx → Slice → Act :=
  planSliceWise (WldOp.shape o) false (fun s x sl lanes =>
    let v := (x.quad sl o.quad).map (fun (r : W32) => r.toNat)
    let base := v.getD 0 0
    let kp := v.getD 1 0
    let last := v.getD 3 0
    let bl := blockLen o.wide
    let row := panelRow o.fmt kp
    let nsc := panelScales o.fmt bl kp
    let image := panelImage o.fmt bl kp
    let bad : Act := .trap { code := 0x03, lanes := lanesMask lanes }
    if base % 16 ≠ 0 || kp = 0 || kp % 32 ≠ 0 then bad
    else if o.z && (32768 < image || 16384 < last || last < maskBytes image) then bad
    else if !o.z && (last < row || 16384 < image) then bad
    else
      let ranges := if o.z then [(base, last)]
        else (base, 63 * last + row) :: (if nsc = 0 then [] else [(v.getD 2 0, nsc)])
      match s.snapshot x lanes ranges with
      | .error a => a
      | .ok bs =>
        let raw := bs.getD 0 []
        if o.z && last < maskBytes image + 64 * presentChunks raw image then bad
        else
          let bytes := if o.z then raw
            else (List.range 64).flatMap (fun n => (raw.drop (n * last)).take row) ++ bs.getD 1 []
          let z : WeightSlot := { fmt := o.fmt, wide := o.wide, kp, z := o.z, bytes, loaded := s.now.prompt, cls := x.wave.prio.toNat }
          if x.slotBusy o.d.toNat then .wait .storage
          else if !roomFor (x.heldBut { x.wave with slots := Store.erase x.wave.slots o.d.toNat } (·.heldSlots)) 131072 98304
              z.cls z.room then .wait .storage
          else .go (fun s => (s.modNowWave (fun w => { w with slots := Store.insert w.slots o.d.toNat z })).matrixDone
            (WldOp.shape o) false x sl lanes))

def execWld (o : Sys2Proof.WldOp) (s : State) : Done := .next (issueEach (planWld o) s)

/-- WLD_LOAD_COMPLETE (14 R281). -/
def execWldLoadComplete (core slot w : Nat) (s : State) : Done :=
  .next (s.modWave core slot (fun x => { x with slots := Store.update x.slots w (fun z => { z with loaded := true }) }))

def execWinv (o : Sys2Proof.WinvOp) (s : State) : Done :=
  .next (issueEach (planSliceWise { g := o.g, srcs := [] } false (fun _ x sl lanes =>
    if x.slotBusy o.d.toNat then .wait .storage
    else .go (fun s => (s.modNowWave (fun w => { w with slots := Store.erase w.slots o.d.toNat })).matrixDone
      { g := o.g, srcs := [] } false x sl lanes))) s)

/-! ### Tiles and tokens (14 R283) -/

def Wave.tile? (x : Wave) (d : Nat) : Option Tile := Store.find? x.tiles d
def State.setTile (s : State) (d : Nat) (t : Option Tile) : State := s.modNowWave (fun w => { w with tiles := Store.put w.tiles d t })

/-- 0x06 for the lanes with exec(L). -/
def tokenTrap (lanes : List Nat) : Act := .trap { code := 0x06, lanes := lanesMask lanes }

def execMzero (o : Sys2Proof.MzeroOp) (s : State) : Done :=
  .next (issueEach (planSliceWise { g := o.g, srcs := [] } false (fun s x sl lanes =>
    let d := o.d.toNat
    let cls := ((x.wave.tile? d).map (·.cls)).getD x.wave.prio.toNat
    if s.tileBusy x d then .wait .token
    else if ((x.wave.tile? d).map (·.threads)).getD false then tokenTrap lanes
    else if (x.wave.tile? d).isNone && !roomFor (x.core.held (·.heldTiles)) 16 12 cls 1 then .wait .storage
    else .go (fun s => (s.setTile d (some { threads := false, ty := o.ty, elems := [], cls })).matrixDone
      { g := o.g, srcs := [] } false x sl lanes))) s)

def execMacq (o : Sys2Proof.TileOp) (s : State) : Done :=
  .next (issueEach (planSliceWise { g := o.g, srcs := [] } true (fun s x sl lanes =>
    if s.tileBusy x o.d.toNat then .wait .token
    else match x.wave.tile? o.d.toNat with
      | some t =>
        if t.threads then tokenTrap lanes
        else .go (fun s => (s.setTile o.d.toNat (some { t with threads := true })).matrixDone { g := o.g, srcs := [] } true x sl lanes)
      | none => tokenTrap lanes)) s)

def execMrel (o : Sys2Proof.MrelOp) (s : State) : Done :=
  .next (issueEach (planSliceWise { g := o.g, srcs := [] } true (fun s x sl lanes =>
    if o.free && s.tileBusy x o.d.toNat then .wait .token
    else match x.wave.tile? o.d.toNat with
      | some t =>
        if !o.free && !t.threads then tokenTrap lanes
        else .go (fun s => (s.setTile o.d.toNat (if o.free then none else some { t with threads := false })).matrixDone
          { g := o.g, srcs := [] } true x sl lanes)
      | none => tokenTrap lanes)) s)

/-! ### Thread access (14 R284) -/

def Tile.get (t : Tile) (i : Nat) : W32 := Store.get t.elems 0 (i % 4096)
def Tile.set (t : Tile) (i : Nat) (v : W32) : Tile := { t with elems := Store.set t.elems 0 (i % 4096) v }

/-- A thread access: the register bounds, the token, then the plan of its operands. -/
def planThread (ops : List LaneOp) (g : Option Guard) (d : Nat) (x : Ctx) (sl : Slice) : Plan :=
  match planChecks ops x sl with
  | some t => .trap t
  | none =>
    if !(sl.exec g = 0) && !((x.wave.tile? d).map (·.threads)).getD false then .trap { code := 0x06, lanes := sl.exec g }
    else planSlice ops x sl

def MrdOp.shape (o : Sys2Proof.MrdOp) : Shape := { g := o.g, srcs := [srcOf o.b false], d := some (.v o.d, false), look := o.look.toNat }

def planMrd (o : Sys2Proof.MrdOp) (x : Ctx) (sl : Slice) : Plan :=
  planThread [{
    sh := MrdOp.shape o
    f := fun l => { val := (((x.wave.tile? o.a.toNat).map (fun (t : Tile) => t.get l.a.toNat)).getD 0).setWidth 64 } }] o.g o.a.toNat x sl

def execMrd (o : Sys2Proof.MrdOp) (s : State) : Done :=
  .next (issuePlans (planMrd o) (commitQueues [{ sh := MrdOp.shape o, f := fun _ => {} }]) s)

def MwrOp.shape (o : Sys2Proof.MwrOp) : Shape := { g := o.g, srcs := [srcOf o.a false, srcOf o.b false] }

def planMwr (o : Sys2Proof.MwrOp) (x : Ctx) (sl : Slice) : Plan :=
  let op : LaneOp := { sh := MwrOp.shape o, f := fun _ => {} }
  match planThread [op] o.g o.d.toNat x sl with
  | .run st fl uses _ queues =>
    .run st fl uses ((op.lanes sl).map (fun l =>
      let i := x.laneIn sl op.sh l
      (i.b.toNat % 4096, 4 * x.k + l, i.a))) queues
  | p => p

def execMwr (o : Sys2Proof.MwrOp) (s : State) : Done :=
  .next (issuePlans (planMwr o) (fun ran s =>
    commitQueues [{ sh := MwrOp.shape o, f := fun _ => {} }] (ran.map (fun r => { r with pushes := [] }))
      (s.modNowWave (fun w => { w with tiles := Store.update w.tiles o.d.toNat (fun t =>
        (ran.flatMap (·.pushes)).foldl (fun (t : Tile) e => t.set e.1 (e.2.2.setWidth 32)) t) }))) s)

/-! ### MSTAT (14 R286) -/

def tileState (s : State) (x : Ctx) (k : Nat) : Nat :=
  match x.wave.tile? k with
  | none => 0
  | some t => if t.threads then 2 else if s.tileBusy x k then 3 else 1

def matrixState (s : State) (x : Ctx) : W64 :=
  BitVec.ofNat 64
    (((List.range 16).map (fun k => tileState s x k * 4 ^ k)).sum
      + ((x.wave.records.filter (fun r => r.1 < 16)).map (fun r => 2 ^ (32 + r.1))).sum
      + ((x.wave.slots.filter (fun z => z.1 < 8 && z.2.loaded)).map (fun z => 2 ^ (48 + z.1))).sum)

def MstatOp.shape (o : Sys2Proof.PairOp) : Shape := { g := o.g, srcs := [], d := some (pairReg o.p, true) }

def execMstat (o : Sys2Proof.PairOp) (s : State) : Done :=
  .next (issueEach (planSliceWise (MstatOp.shape o) false (fun s x sl lanes =>
    .go (fun s' => (s'.modNow x.k (fun st => st.writeAll (writeFresh s'.fresh x.k) (destWrites (pairReg o.p) true 0 (matrixState s x)))).matrixDone
      (MstatOp.shape o) false x sl lanes))) s)

/-! ### Course-wide issue (14 R282) -/

/-- What a course does. -/
inductive Course (α : Type) where
  | stall
  | wait (w : Wait)
  | trap (code : Byte) (addr : W64)
  | ready (a : α)

/-- Issue for the gang course by course: slices without their course partner trap with 0x07, a course that fails a check
traps in both of its slices, and while one course waits the gang waits.  A partner whose last lane has exited has ended (02 R76),
so its mate traps too, as 14 R282 says; row 3 of 14 R287 would have them ganged still. (DESIGN CHOICE, log 78) -/
def issueCourses {α : Type} (check : State → Ctx → Slice → Nat → Course α) (go : List (Nat × α) → State → State) (s : State) :
    State :=
  match s.wave? s.now.core s.now.slot with
  | none => s
  | some x =>
    let ks := s.now.slices
    let late := ks.filter (fun k => !(x.slice k).deferred.isEmpty)
    if ks.any (fun k => !(x.slice k).out.isEmpty) then
      s.stallOn (ks.map (fun k => (k, if (x.slice k).out.isEmpty then none else some ((x.slice k).awaited [] true))))
    else if !late.isEmpty then late.foldl (fun s k => s.deliverDeferred s.now.core s.now.slot k) s
    else
      let paired := ks.filter (fun k => ks.contains (k ^^^ 1))
      let cs := (paired.filter (fun k => k % 2 = 0)).map (· / 2)
      let rs := cs.map (fun c => (c, check s (s.ctx x (2 * c)) ((x.slice (2 * c)).atEdge true) c))
      match rs.findSome? (fun r => match r.2 with | .wait w => some w | _ => none) with
      | some w => s.waitAll (ks.map (fun k => (k, some w)))
      | none =>
        if rs.any (fun r => match r.2 with | .stall => true | _ => false) then s.stallOn (ks.map (fun k => (k, some none)))
        else
          let s := (ks.filter (fun k => !paired.contains k)).foldl (fun s k =>
            s.trapNow k { code := 0x07, lanes := (x.slice k).active }) s
          let s := rs.foldl (fun s r => match r.2 with
            | .trap code addr => [2 * r.1, 2 * r.1 + 1].foldl (fun s k =>
                s.trapNow k { code, lanes := (x.slice k).active, addr }) s
            | _ => s) s
          let ok := rs.filterMap (fun r => match r.2 with | .ready a => some (r.1, a) | _ => none)
          if ok.isEmpty then s else go ok s

/-- Both slices of a course have issued. -/
def State.advanceCourse (s : State) (sh : Shape) (c : Nat) : State :=
  let edge := fun (sl : Slice) => sl.atEdge true
  (((s.advance sh [0] (2 * c)).advance { g := none, srcs := [] } [] (2 * c + 1)).modNow (2 * c) edge).modNow (2 * c + 1) edge

/-- The tile of a course, if it exists and is in the unit state. -/
def Wave.unitTile (x : Wave) (d c : Nat) : Except Byte Tile :=
  if 15 < (courseTile d c).1 then .error 0x03
  else match x.tile? (courseTile d c).1 with
    | some t => if t.threads then .error 0x06 else .ok t
    | none => .error 0x06

/-! ### MMA (14 R282) -/

def MmaOp.shape (o : Sys2Proof.MmaOp) : Shape := { g := none, srcs := [{ reg := .s o.c, last := o.last }] }

def maRow0 (c : W32) : Nat := c.toNat % 2 ^ 16
def maKa (c : W32) : Nat := c.toNat / 2 ^ 16 % 256
def maKb (c : W32) : Nat := c.toNat / 2 ^ 24

/-- The checks of one course. -/
def checkMma (o : Sys2Proof.MmaOp) (_ : State) (x : Ctx) (sl : Slice) (c : Nat) : Course W32 :=
  let v := x.readLoc sl (.s o.c.toNat)
  match x.wave.unitTile o.d.toNat c with
  | .error code => .trap code 0
  | .ok t =>
    if t.ty ≠ o.acc then .trap 0x06 0
    else match Store.find? x.wave.records o.a.toNat, Store.find? x.wave.slots o.b.toNat with
      | some r, some z =>
        if !z.loaded then .wait .storage
        else match r.fmt.combo z.fmt with
          | none => .trap 0x03 0
          | some (acc, k) =>
            let reach := (maKa v * k + k) * r.fmt.nibbles
            if acc ≠ o.acc || z.kp < maKb v * k + k || 2 * r.stride < reach then .trap 0x03 0
            else if 2 * r.extent < 2 * ((maRow0 v + 16 * c + 15) * r.stride) + reach then
              .trap 0x08 (BitVec.ofNat 64 (r.base + r.extent))
            else .ready v
      | _, _ => .trap 0x03 0

/-- Rows of the A strip and of the sub-panel of a course, as elements. -/
def ObRecord.strip (r : ObRecord) (row0 ka k : Nat) : List (List FVal) :=
  let bl := blockLen r.wide
  let per := 2 * r.stride / bl
  (List.range 16).map (fun i =>
    rowElems r.fmt bl ((r.snap.drop ((row0 + i) * r.stride)).take r.stride) ((r.scales.drop ((row0 + i) * per)).take per) (ka * k) k)
def WeightSlot.panel (z : WeightSlot) (kb k : Nat) : List (List FVal) :=
  let bl := blockLen z.wide
  let row := panelRow z.fmt z.kp
  let im := z.image
  let scales := im.drop (64 * row)
  (List.range 64).map (fun n =>
    rowElems z.fmt bl ((im.drop (n * row)).take row) ((scales.drop (n * (z.kp / bl))).take (z.kp / bl)) (kb * k) k)

/-- The shadow of a strip: its accumulations onto the rows it starts from, by row × 64 + column. -/
def stripShadow (o : Sys2Proof.MmaOp) (r : ObRecord) (z : WeightSlot) (k c : Nat) (v : W32) (start : Nat → Nat → W32) : Store W32 :=
  let as := r.strip (maRow0 v + 16 * c) (maKa v) k
  let bs := z.panel (maKb v) k
  as.zipIdx.foldl (fun (m : Store W32) a => bs.zipIdx.foldl (fun (m : Store W32) b =>
    Store.set m 0 (64 * a.2 + b.2) (BitVec.ofNat 32 (dotGroups o.acc o.sat (k / 32) (start a.2 b.2).toNat (a.1.zip b.1)))) m) []

/-! ### The array (16 R294 to R303) -/

/-- The latest shadow of these rows among passes that have entered. -/
def lastShadow (ps : List Pass) (slot : Nat) (t : Nat × Nat) : Option (Store W32) :=
  (ps.filterMap (fun p => if p.slot = slot then (p.shadows.getD []).findSome? (fun h => if h.1 = t.1 ∧ h.2.1 = t.2 then some h.2.2 else none)
    else none)).getLast?

/-- The shadows of a pass that enters behind these. -/
def Pass.run (p : Pass) (x : Wave) (ahead : List Pass) : List (Nat × Nat × Store W32) :=
  match Store.find? x.records p.op.a.toNat, Store.find? x.slots p.op.b.toNat with
  | some r, some z =>
    let k := ((r.fmt.combo z.fmt).map (·.2)).getD 32
    p.courses.map (fun c =>
      let t := courseTile p.op.d.toNat c.1
      let start := fun i j => match lastShadow ahead p.slot t with
        | some h => Store.get h 0 (64 * i + j)
        | none => ((x.tile? t.1).map (fun y => y.get (64 * (t.2 + i) + j))).getD 0
      (t.1, t.2, stripShadow p.op r z k c.1 c.2 start))
  | _, _ => []

/-- Enough of the eight shadow strips are free for a pass. -/
def Core.shadowRoom (k : Core) (p : Pass) : Bool :=
  ((k.passes.filterMap (·.shadows)).map List.length).sum + p.courses.length ≤ 8

/-- No earlier pass of the wave waits that writes rows of this one, or whose slices pass an edge before those of this one.
(DEDUCED, log 48) -/
def Core.inOrder (k : Core) (p : Pass) : Bool :=
  k.passes.all (fun q => q.shadows.isSome || q.slot ≠ p.slot || p.since ≤ q.since
    || (q.tiles.all (fun t => !p.tiles.contains t) && q.edges.all (fun e => p.edges.all (fun f => f.1 ≠ e.1))))

/-- The pass reads a compressed slot, through the core's one expander (16 R299). -/
def Core.compressed (k : Core) (p : Pass) : Bool :=
  (((Store.find? k.waves p.slot).bind (fun x => Store.find? x.slots p.op.b.toNat)).map (·.z)).getD false

/-- The operands of a pass have been read: its own, and, for a compressed slot, those of every compressed pass issued before it,
which the expander serves first. -/
def Core.passReady (k : Core) (read : Pass → Bool) (p : Pass) : Bool :=
  read p && (!k.compressed p || k.passes.all (fun q => q.shadows.isSome || p.since ≤ q.since || !k.compressed q || read q))

/-- The pass the array takes next: of those ready, by class, then by issue age; it enters once it has room, and none passes
it by (16 R295). -/
def Core.nextPass (k : Core) (read : Pass → Bool) : Option Pass :=
  ((k.passes.filter (fun p => p.shadows.isNone && k.passReady read p && k.inOrder p)).foldl (fun best p => match best with
    | none => some p
    | some b => if p.cls < b.cls || (p.cls = b.cls && p.since < b.since) then some p else some b) none).filter k.shadowRoom

def State.enterPass (s : State) (core : Nat) (ready : Pass → Bool) : State :=
  let k := s.core core
  match k.nextPass ready with
  | none => s
  | some p =>
    match s.wave? core p.slot with
    | none => s
    | some x =>
      let done := k.passes.filter (fun q => q.shadows.isSome)
      let rest := k.passes.filter (fun q => q.shadows.isNone && q ≠ p)
      let s := (s.bump (core / 32) 14 p.courses.length).bump (core / 32) 15 (if 2 ≤ p.courses.length then 1 else 0)
      s.setCore core { k with passes := done ++ { p with shadows := some (p.run x done) } :: rest }

/-- MMA_PASS_ENTER: which passes have their operands read by now is free (16 R299). -/
def execMmaPassEnter (core : Nat) (s : State) : Done :=
  let some_ := fun (p : Pass) => Config.pick (s.fresh + p.since) % 2 = 0
  .next (if (s.core core).passes.any (fun p => p.shadows.isNone && (s.core core).passReady some_ p) then s.enterPass core some_
    else s.enterPass core (fun _ => true))

/-- Commit the oldest pass in the array: its shadows become tile rows, and its slices pass their edge (16 R302). (DEDUCED, log 48) -/
def State.commitPass (s : State) (core : Nat) : State :=
  let k := s.core core
  match k.passes with
  | p :: rest =>
    match p.shadows with
    | none => s
    | some hs =>
      let s := s.setCore core { k with passes := rest }
      let s := s.modWave core p.slot (fun x => { x with tiles := hs.foldl (fun (m : Store Tile) h =>
        Store.update m h.1 (fun t => (List.range 1024).foldl (fun (t : Tile) i => t.set (64 * h.2.1 + i) (Store.get h.2.2 0 i)) t)) x.tiles })
      p.edges.foldl (fun (s : State) e =>
        s.closeRegionAt core p.slot e.1 e.2.1 e.2.2 { e.2.1.pc with idx := e.2.1.pc.idx - 1 }) s
  | [] => s

def execMmaCommit (core : Nat) (s : State) : Done := .next (s.commitPass core)

/-- Run every pass of the core to its commit. (DEDUCED, log 48) -/
def State.flushPasses (s : State) (core : Nat) : State :=
  (List.range (2 * (s.core core).passes.length)).foldl (fun (s : State) _ => (s.enterPass core (fun _ => true)).commitPass core) s

/-- The MMA has issued: its strips form one pass (16 R297). (DEDUCED, log 48) -/
def issueMma (o : Sys2Proof.MmaOp) (cs : List (Nat × W32)) (s : State) : State :=
  let c := s.now.core
  let w := s.now.slot
  let s := cs.foldl (fun s r => s.advanceCourse (MmaOp.shape o) r.1) s
  match s.wave? c w with
  | none => s
  | some x =>
    let edges := cs.flatMap (fun r => [2 * r.1, 2 * r.1 + 1].map (fun k => (k, x.restartAt k (x.slice k).lastLive, (x.slice k).marks)))
    let p : Pass := { slot := w, op := o, cls := x.prio.toNat, since := s.serial, courses := cs, edges, shadows := none }
    let s := { s.setCore c { s.core c with passes := (s.core c).passes ++ [p] } with serial := s.serial + 1 }
    if s.now.prompt then s.flushPasses c else s

def execMma (o : Sys2Proof.MmaOp) (s : State) : Done := .next (issueCourses (checkMma o) (issueMma o) s)

/-! ### MDRAIN (14 R285) -/

def MdrainOp.shape (o : Sys2Proof.MdrainOp) : Shape :=
  { g := none, srcs := quadSrcs o.quad false ++ (match o.max with
      | some (p, _) => [{ reg := pairReg p, wide := true }]
      | none => []) }

def drainPair : DrainTarget → AccTy → Bool
  | .bits, _ => true
  | .s8, t => t == .s32
  | _, t => t == .f32

/-- Bytes of a row of 64 elements. -/
def drainRow : DrainTarget → Nat
  | .bits => 256
  | .bf16 | .f16 => 128
  | .e4m3 | .e5m2 | .s8 => 64
  | .q4 => 32

/-- FP32 pattern of a magnitude: the sign cleared, any NaN the default one. -/
def magOf (x : Nat) : Nat := let m := x % 2 ^ 31; if 0x7F800000 < m then 0x7FC00000 else m

/-- A conversion of one element, and the magnitude of what was written. -/
def drainElem (t : DrainTarget) (ty : AccTy) (x : W32) : Nat × Nat :=
  let via := fun (f : FFmt) (sat : Bool) =>
    let y := (fp32.convert f .rne sat x.toNat).1
    (y, magOf (f.convert fp32 .rne false y).1)
  match t with
  | .bits => (x.toNat, if ty == .f32 then magOf x.toNat else x.toInt.natAbs)
  | .bf16 => via bf16 false
  | .f16 => via fp16 false
  | .e4m3 => via e4m3 true
  | .e5m2 => via e5m2 true
  | .s8 => let y := max (-128) (min 127 x.toInt); ((y % 256).toNat, y.natAbs)
  | .q4 => (0, 0)

/-- FP32 pattern of the magnitude of a Q4 element: exact. -/
def q4Mag (scale code : Nat) : Nat :=
  match q4Val scale code with
  | .num _ m e => (fp32.round .rne false false m e).1
  | _ => 0x7FC00000

/-- Two codes to a byte, the even one low (03 R87). -/
def packCodes : List Nat → List Byte
  | a :: b :: cs => BitVec.ofNat 8 (a + 16 * b) :: packCodes cs
  | _ => []

/-- A row as written: its bytes, its scale bytes, the largest magnitude. -/
def drainRowBytes (o : Sys2Proof.MdrainOp) (ty : AccTy) (row : List W32) : List Byte × List Byte × Nat :=
  let bl := blockLen o.wide
  if o.target = .q4 then
    let blocks := (List.range (64 / bl)).map (fun b => q4Encode o.scale.toNat (((row.drop (b * bl)).take bl).map (fun (x : W32) => x.toNat)))
    (packCodes (blocks.flatMap (·.2)), blocks.map (fun b => BitVec.ofNat 8 b.1),
      (blocks.flatMap (fun b => b.2.map (q4Mag b.1))).foldl max 0)
  else
    let es := row.map (drainElem o.target ty)
    (es.flatMap (fun e => leBytes (drainRow o.target / 64) e.1), [], (es.map (·.2)).foldl max 0)

/-- The ranges a course writes: its rows, then its scales. (DEDUCED, log 47) -/
def drainRanges (o : Sys2Proof.MdrainOp) (v : List W32) (c : Nat) : List (Nat × Nat) :=
  let global := o.space == .global
  let m := if global then 2 ^ 64 else 2 ^ 32
  let lo := (v.getD 0 0).toNat
  let hi := if global then (v.getD 1 0).toNat * 2 ^ 32 else 0
  let rows := (List.range 16).map (fun i => ((hi + lo + (16 * c + i) * (v.getD 2 0).toNat) % m, drainRow o.target))
  let per := 64 / blockLen o.wide
  rows ++ (if o.target = .q4 then [((hi + (v.getD 3 0).toNat + 16 * c * per) % m, 16 * per)] else [])

/-- Where the bytes of a drain go, or the fault of the first range that fails. (DEDUCED, log 47) -/
def State.drainParts (s : State) (x : Ctx) (o : Sys2Proof.MdrainOp) (rs : List (Nat × Nat)) : Except (Byte × Nat) (List Part) :=
  let q := s.asker x.wave s.now.core true
  let one : Nat × Nat → Except (Byte × Nat) (List Part) := fun r => match o.space with
    | .scratch => match s.scratch x.wave.team (s.now.core / 32) r.1 r.2 with
      | .ok (place, addr) => Except.ok [({ lane := 0, place, addr, size := r.2, va := r.1 } : Part)]
      | .error c => .error (c, s.firstOutside x.wave.team (s.now.core / 32) r.1 r.2)
    | .global => (pageRanges 3 r.1 r.2).foldl (fun (acc : Except (Byte × Nat) (List Part)) p =>
        match acc with
        | .error e => .error e
        | .ok ps => match s.resolve q p.1 with
          | .error c => .error (c, p.1)
          | .ok (place, addr, rep, _) =>
            .ok (ps ++ (lineRanges addr p.2).map (fun l => { lane := 0, place, addr := l.1, size := l.2, va := p.1 + (l.1 - addr), rep }))) (.ok [])
  rs.foldl (fun acc r => match acc with
    | .error e => .error e
    | .ok ps => match one r with
      | .error e => .error e
      | .ok qs => .ok (ps ++ qs)) (.ok [])

/-- A drain of one course: its writes, and the maximum's word with its scope. -/
structure Drain where
  tile : Tile
  row0 : Nat
  parts : List Part
  max : Option (Part × Sys2Proof.Scope)

/-- An MMA of the wave on these rows has not committed. -/
def Ctx.rowsBusy (x : Ctx) (t : Nat × Nat) : Bool := (x.core.passesOf x.slot).any (fun p => p.tiles.contains t)

/-- The word at b. -/
def State.drainWord (s : State) (x : Ctx) (sl : Slice) (o : Sys2Proof.MdrainOp) : Except (Byte × Nat) (Option (Part × Sys2Proof.Scope)) :=
  match o.max with
  | none => .ok none
  | some (p, scope) =>
    let va := (x.readReg sl (pairReg p) true 0).toNat
    if va % 4 ≠ 0 then .error (0x03, 0)
    else match s.globalParts (s.asker x.wave s.now.core true) 0 va 4 with
      | .ok (w :: _) => .ok (some (w.1, scope))
      | .ok [] => .ok none
      | .error c => .error (c, va)

def checkMdrain (o : Sys2Proof.MdrainOp) (s : State) (x : Ctx) (sl : Slice) (c : Nat) : Course Drain :=
  match x.wave.unitTile o.d.toNat c with
  | .error code => .trap code 0
  | .ok t =>
    let v := x.quad sl o.quad
    let at_ := courseTile o.d.toNat c
    let word := s.drainWord x sl o
    if !drainPair o.target t.ty then .trap 0x03 0
    else if (match word with | .error (3, _) => true | _ => false) then .trap 0x03 0
    else match s.drainParts x o (drainRanges o v c), word with
      | .error (code, a), _ => .trap code (BitVec.ofNat 64 a)
      | _, .error (code, a) => .trap code (BitVec.ofNat 64 a)
      | .ok parts, .ok max =>
        let path := if o.space == .scratch then 2 else if parts.any (fun p => p.place.isPeer) then 4 else 1
        let peerWord := (max.map (fun m => m.1.place.isPeer)).getD false
        let need : Option FenceNeed := max.bind (fun m =>
          let n : FenceNeed := { loads := true, stores := true, redm := false, scope := m.2 }
          if [2 * c, 2 * c + 1].all (fun k => s.drained s.now.core x.slot k n) then none else some n)
        if x.core.uncommitted x.slot (2 * c) || x.core.uncommitted x.slot (2 * c + 1) || x.rowsBusy at_ then .wait .commit
        else if 255 < x.wave.counter path + x.gang.length || (peerWord && 255 < x.wave.counter 4 + x.gang.length) then .wait .counter
        else match need, s.acquireAhead s.now.core x.slot (2 * c), s.acquireAhead s.now.core x.slot (2 * c + 1) with
          | some n, _, _ => .wait (.fence n)
          | _, some id, _ => .wait (.acquire id)
          | _, _, some id => .wait (.acquire id)
          | _, _, _ => .ready { tile := t, row0 := at_.2, parts, max }

/-- The bytes over the parts, in order. -/
def fillParts (ps : List Part) (bs : List Byte) : List Part :=
  (ps.foldl (fun (acc : List Part × List Byte) p => (acc.1 ++ [{ p with data := acc.2.take p.size }], acc.2.drop p.size)) ([], bs)).1

/-- One course drains: its writes go out, and behind them the atomic maximum. (DEDUCED, log 47) -/
def issueDrain (o : Sys2Proof.MdrainOp) (c : Nat) (d : Drain) (s : State) : State :=
  let core := s.now.core
  let slot := s.now.slot
  match s.wave? core slot with
  | none => s
  | some x =>
    let rows := (List.range 16).map (fun i => drainRowBytes o d.tile.ty ((List.range 64).map (fun j => d.tile.get (64 * (d.row0 + i) + j))))
    let parts := fillParts d.parts (rows.flatMap (·.1) ++ rows.flatMap (·.2.1))
    let m := (rows.map (·.2.2)).foldl max 0
    let pc := (x.slice (2 * c)).pc
    let base : Access :=
      { core, slot, slice := 2 * c, gen := s.gen core slot, pc, word := s.now.word, path := none, kind := .store, parts, lanes := 15#4
        process := x.process, secure := s.secureWave x, noL1 := true
        courseLanes := some ([2 * c, 2 * c + 1].foldl (fun m k => m ||| waveLanes k (~~~(x.slice k).done)) 0) }
    let first := s.serial
    let a := { base with path := some (if o.space == .scratch then 2 else if parts.any (fun p => p.place.isPeer) then 4 else 1) }
    let known := fun (s : State) (scope : Option Sys2Proof.Scope) (ps : List Part) (id : Nat) => s.tagWrite core slot (2 * c) scope ps id
    let s := ((known s none parts first).launchAccess a).sendParts first a (fun _ p => some (.write p.addr p.data)) (fun p => (p.addr, p.size))
    let s := match d.max with
      | none => s
      | some (w, scope) => (known s (some scope) [w] s.serial).launchAccess { base with
          path := if w.place.isPeer then some 4 else none, kind := .atom none .max .n32 scope, parts := [{ w with data := leBytes 4 m }] }
    let live := [2 * c, 2 * c + 1].map (fun k => (k, (x.slice k).lastLive))
    let s := s.advanceCourse (MdrainOp.shape o) c
    let s := live.foldl (fun (s : State) k => s.closeRegion core slot k.1 k.2 pc) s
    if s.now.prompt then
      let s := s.completeLoadStore first
      if d.max.isSome then s.completeAtom (first + 1) else s
    else s

def execMdrain (o : Sys2Proof.MdrainOp) (s : State) : Done :=
  .next (issueCourses (checkMdrain o) (fun ds s => ds.foldl (fun s d => issueDrain o d.1 d.2 s) s) s)

end Sys2Proof.Machine
end

