-- ==== Sys2Proof/Machine/System.lean ====
section
/-!
DEFINITION. Special registers (02 R84, R85), the supervisor's registers and mailbox actions (09 R181 to R184), and the
security registers (27 R450, R451, R457, R459).
-/

namespace Sys2Proof.Machine

/-! ### What a special register reads (02 R85, 09 R183) -/

/-- regbase's code of an allotment. -/
def allotCode (n : Nat) : Nat := if n = 16 then 0 else if n = 32 then 1 else if n = 64 then 2 else 3

/-- shape, read per slice. -/
def Wave.shape (x : Wave) (k : Nat) : Nat := x.role * 2 ^ 18 + x.roleIndex * 2 ^ 12 + k * 2 ^ 8 + x.width

/-- fusedata: the device secret reads as 0 (27 R445). (DEDUCED, log 55) -/
def Security.fuseData (z : Security) (i : Nat) : W64 := if 32 ≤ i && i < 36 then 0 else Store.get z.fuses 0 i

/-- Bytes 8k to 8k + 7 of the head record. -/
def Core.mbrec (k : Core) (i : Nat) : W64 :=
  match k.mailbox with
  | [] => 0
  | r :: _ => bytesVal ((r.bytes.drop (8 * i)).take 8)

/-- DEDUCED, log 55. -/
def State.readSr (s : State) (c w k : Nat) (x : Wave) (sl : Slice) (num : Nat) : W64 :=
  let core := s.core c
  let nat := BitVec.ofNat 64
  match num with
  | 0x000 => (((s.process? x.process).map (fun (p : Process) => p.tvec)).getD 0).setWidth 64
  | 0x001 => x.tmask.setWidth 64
  | 0x002 => x.fflags.setWidth 64
  | 0x003 => sl.tpc.bits.setWidth 64
  | 0x004 => sl.lmask
  | 0x005 => sl.tcode.setWidth 64
  | 0x006 => nat (allotCode x.allot * 2 ^ 16 + x.base)
  | 0x007 => x.prio.setWidth 64
  | 0x008 => nat (waveId c w)
  | 0x00A => nat (x.shape k)
  | 0x00B => nat (((Store.find? s.teams x.team).map (·.teamid)).getD 0)
  | 0x00C => nat (s.cycles + core.cycleOffset)
  | 0x00D => nat (s.cltime (c / 32))
  | 0x00E => sl.rtop.setWidth 64
  | 0x040 => nat core.mailbox.length
  | 0x04B => Store.get core.rply 0 0
  | 0x04C => Store.get core.rply 0 1
  | 0x04D => Store.get core.rply 0 2
  | 0x04E => Store.get core.rply 0 3
  | 0x04F => nat core.pkfree
  | 0x100 => if s.secureWave x then 1 else 0
  | 0x101 => nat s.security.lcstate
  | 0x102 => s.security.fuseaddr.setWidth 64
  | 0x103 => s.security.fuseData s.security.fuseaddr.toNat
  | 0x104 => s.security.fuseData 0
  | 0x105 => s.security.fuseData 1
  | 0x107 => if s.security.wiping then 1 else 0
  | 0x108 => s.security.dbgctl.setWidth 64
  | n => if 0x042 ≤ n && n ≤ 0x049 then core.mbrec (n - 0x042) else 0

/-! ### Access (02 R84) -/

def isSecureSr (num : Nat) : Bool := 0x101 ≤ num && num ≤ 0x10A
def isSupervisorSr (num : Nat) : Bool := 0x040 ≤ num && num ≤ 0x07F
def srReads (num : Nat) : Bool := !([0x04A, 0x050, 0x051, 0x109].contains num)
def srWrites (num : Nat) : Bool :=
  [0x000, 0x001, 0x002, 0x04A, 0x04B, 0x04C, 0x04D, 0x04E, 0x050, 0x051, 0x102, 0x107, 0x108, 0x109].contains num

/-- The access trap of a special register, if one applies. -/
def State.srFault (s : State) (x : Wave) (num : Nat) (write : Bool) : Option Byte :=
  if isSecureSr num && !s.secureWave x then some 0x23
  else if (isSupervisorSr num || isSecureSr num) && !x.supervisor then some 0x21
  else if if write then !srWrites num else !srReads num then some 0x21
  else none

/-- Registers marked E. -/
def srEdge (num : Nat) : Bool := [0x04A, 0x050, 0x051, 0x106, 0x107, 0x108, 0x109, 0x10A].contains num

/-- An access of a special register: its waits and traps, then its effect. -/
def planSr (sh : Shape) (num : Nat) (write : Bool) (go : Ctx → Slice → List Nat → Act) (s : State) (x : Ctx) (sl : Slice) : Act :=
  planControl sh (srEdge num) (fun x sl lanes =>
    if lanes.isEmpty then Act.become x.k (fun sl => { sl with pc := sl.pc.next })
    else match s.srFault x.wave num write with
      | some code => .trap { code, lanes := lanesMask lanes }
      | none => go x sl lanes) s x sl

/-- The access is done: the next instruction, and the edge of a register marked E. -/
def State.srDone (s : State) (x : Ctx) (sl : Slice) (num : Nat) (d : List Loc) : State :=
  let s := s.modNow x.k (fun st => { st with windows := [], wait := none, pc := sl.pc.next })
  if srEdge num then s.closeRegion s.now.core s.now.slot x.k (sl.lastLive ||| liveOf d) sl.pc else s

/-- A pair written with 64 bits. -/
def State.putPair (s : State) (k : Nat) (p : SPair) (v : W64) : State :=
  s.modNow k (fun sl => sl.writeAll (writeFresh s.fresh k) (destWrites (pairReg p) true 0 v))

def pairLocs (p : SPair) : List Loc := regLocs (pairReg p) true 0
def Ctx.pair (x : Ctx) (sl : Slice) (p : SPair) : W64 := x.readReg sl (pairReg p) true 0

/-! ### RSR -/

def RsrOp.shape (o : Sys2Proof.RsrOp) : Shape :=
  { g := o.g, srcs := [], d := some (match o.d with
      | .pair p => (pairReg p, true)
      | .lane v => (.v v, false)) }

def execRsr (o : Sys2Proof.RsrOp) (s : State) : Done :=
  .next (issueActs (fun s => planSr (RsrOp.shape o) o.num.toNat false (fun x sl lanes =>
    match o.d with
    | .pair p => .go (fun s => (s.putPair x.k p (s.readSr s.now.core s.now.slot x.k x.wave sl o.num.toNat)).srDone x sl
        o.num.toNat (pairLocs p))
    | .lane v =>
      let ws : List (Loc × W32) := lanes.map (fun l => (.v v.toNat l, BitVec.ofNat 32 (4 * x.k + l)))
      let uses := x.shareUses { g := none, srcs := [] } [] ws
      match x.core.shareAll x.slot uses with
      | none => .wait .fullEmpty
      | some _ => .go (fun s => (((s.shareNow uses).modNow x.k (fun sl =>
          sl.writeAll (writeFresh s.fresh x.k) (ws.filter (fun w => !x.isShared w.1)))).srDone x sl o.num.toNat []))) s) s)

/-! ### Mailbox actions (09 R184) -/

/-- The head record leaves. -/
def State.dropHead (s : State) (c : Nat) : State := s.setCore c { s.core c with mailbox := (s.core c).mailbox.drop 1 }

/-- Where the slice of a record stands: resident, or parked under an entry. -/
inductive RecordSlice where
  | resident (x : Wave) | parked (entry : Nat) (p : Parked) | gone

def State.recordSlice (s : State) (c : Nat) (r : MailRecord) : RecordSlice :=
  let w := waveIdSlot r.wave
  match s.wave? c w with
  | some x => if s.gen c w = r.gen && !r.parked then .resident x else
    match List.find? (fun (p : Nat × Parked) => p.2.slot = w && p.2.gen = r.gen) (s.core c).parked with
    | some (i, p) => .parked i p
    | none => .gone
  | none =>
    match List.find? (fun (p : Nat × Parked) => p.2.slot = w && p.2.gen = r.gen) (s.core c).parked with
    | some (i, p) => .parked i p
    | none => .gone

/-- A launch has had a slice ended: it completes with faults (05 R132). -/
def State.markFaulty (s : State) (team : Nat) : State :=
  match Store.find? s.teams team with
  | none => s
  | some t => { s with launches := Store.update s.launches t.launch (fun l => { l with faults := true }) }

/-- End one slice, or every slice, of the record's wave. -/
def State.endRecorded (s : State) (c : Nat) (r : MailRecord) (all : Bool) : State :=
  match s.recordSlice c r with
  | .resident x =>
    let s := (if all then x.slices.keys else [r.slice]).foldl (fun (s : State) k =>
      (s.dropKernelWait c (waveIdSlot r.wave) k).endSlice c (waveIdSlot r.wave) k) s
    s.markFaulty x.team
  | .parked i p =>
    let ks := if all then p.wave.slices.keys else [r.slice]
    let wave := ks.foldl (fun (x : Wave) k => x.setSlice k { x.slice k with done := 15#4, mask := 0, ended := true, wait := none
                                                                            stack := [], kret := none }) p.wave
    (s.setCore c { s.core c with parked := Store.insert (s.core c).parked i { p with wave } }).markFaulty p.wave.team
  | .gone => s

/-- The eight reply words. -/
def Core.replyWords (k : Core) : List W32 :=
  (List.range 4).flatMap (fun i => let v := Store.get k.rply 0 i; [v.setWidth 32, v.extractLsb' 32 32])

/-- Words into consecutive s registers. -/
def Slice.putWords (sl : Slice) (fresh base : Nat) (ws : List W32) : Slice :=
  ws.zipIdx.foldl (fun (sl : Slice) v => sl.write fresh (.s (base + v.2)) v.1) sl

/-- Reply: the registers of the SVC, and the next instruction as a region edge (02 R81, 09 R184), with the debug stop that the
edge brings (28 R469). -/
def State.reply (s : State) (c : Nat) (r : MailRecord) : State :=
  let ws := (s.core c).replyWords
  match s.recordSlice c r with
  | .resident x =>
    match (x.slice r.slice).wait with
    | some (.reply base) =>
      let w := waveIdSlot r.wave
      let sl := x.slice r.slice
      let s := s.modSlice c w r.slice (fun sl => { sl.putWords (writeFresh s.fresh r.slice) base ws with wait := none, pc := sl.pc.next })
      s.closeRegion c w r.slice (sl.lastLive ||| liveOf ((List.range 8).map (fun i => .s (base + i)))) sl.pc
    | _ => s
  | .parked i p =>
    match (p.wave.slice r.slice).wait with
    | some (.reply base) =>
      let sl := { (p.wave.slice r.slice).putWords (writeFresh s.fresh r.slice) base ws with wait := none }
      let stop := sl.stopDue (s.process? p.wave.process) p.wave.supervisor r.pc
      let wave := p.wave.setSlice r.slice { sl with brk := none, stopped := sl.stopped || stop.isSome }
      let s := s.setCore c { s.core c with parked := Store.insert (s.core c).parked i { p with wave } }
      match stop with
      | some (cause, code, pc) =>
        s.beginRecord (c / 32) (stopRecord c (waveIdSlot r.wave) r.slice p.wave { sl with mask := sl.restart.mask } cause code pc)
      | none => s
    | _ => s
  | .gone => s

/-- The lanes of a record, as the slice's mask. -/
def MailRecord.mask (r : MailRecord) : Mask4 := (r.lanes >>> (4 * r.slice)).setWidth 4

/-- The device at work for a process, with the rights of a supervisor (25 R420). -/
def State.queueAsker (s : State) (process : Nat) : Asker :=
  { process, user := false, secure := ((s.process? process).map (·.secure)).getD false, cluster := 0, fresh := s.fresh + 4096 }

/-- The device writes a host queue's head count past one record (25 R420, R428). -/
def State.advanceHead (s : State) (q : Nat) : State :=
  match Store.find? s.queues q with
  | none => s
  | some h =>
    let s := { s with queues := Store.insert s.queues q { h with head := h.head + 1, out := h.out - 1 } }
    match s.writeVirtual (s.queueAsker h.process) h.headAddr.toNat (leBytes 8 (h.head + 1)) with
    | .ok s => s
    | .error _ => s

/-- Dismiss: the block that appended the record counts it as served. -/
def State.dismiss (s : State) (r : MailRecord) : State :=
  if r.kind = 5 then s.modProcess (objIndex r.proc.toNat) (fun p => { p with raised := p.raised.filter (· ≠ r.aux.toNat) })
  else if r.kind = 6 then s.advanceHead r.aux.toNat
  else s

/-- The head record's action may take its effect: the edge of a skip waits for the slice's earlier writes and MMAs (02 R44,
09 R197). -/
def State.actReady (s : State) (c action : Nat) : Bool :=
  match (s.core c).mailbox with
  | [] => true
  | r :: _ =>
    if action = 1 && (r.kind = 1 || r.kind = 3 || r.kind = 4) then
      match s.recordSlice c r with
      | .resident x => (x.slice r.slice).out.isEmpty && !(s.core c).uncommitted (waveIdSlot r.wave) r.slice
      | _ => true
    else true

/-- A skip passes its edge, or first delivers a deferred error there (09 R186). -/
def State.skip (s : State) (c w k : Nat) (x : Wave) : State :=
  let sl := x.slice k
  if sl.deferred.isEmpty then
    (s.modSlice c w k (fun sl => { sl with wait := none, pc := sl.pc.next })).closeRegion c w k sl.lastLive sl.pc
  else (s.deliverDeferred c w k).modSlice c w k (fun st => if st.wait = some .action then { st with pc := st.pc.next } else st)

/-- An action on a record of kinds 1 to 4.  A deferred error that came to a skip's edge holds the edge up until its own record is
served. -/
def State.act (s : State) (c : Nat) (r : MailRecord) (action : Nat) : State :=
  let w := waveIdSlot r.wave
  let resident := match s.recordSlice c r with | .resident x => some x | _ => none
  match action with
  | 0 => if r.kind = 2 then s.endRecorded c r false
    else match resident with
      | some x =>
        let sl := x.slice r.slice
        if sl.wait = some .action then
          let s := s.modSlice c w r.slice (fun sl => { sl with wait := none })
          if r.kind = 4 && sl.pc ≠ r.pc then s.closeRegion c w r.slice sl.lastLive r.pc else s
        else s
      | none => s
  | 1 => if r.kind = 2 then s.endRecorded c r false
    else match resident with
      | some x =>
        if (x.slice r.slice).wait = some .action then s.skip c w r.slice x else s
      | none => s
  | 3 => if r.kind ≠ 1 then s.endRecorded c r false
    else match resident with
      | some x =>
        match (s.process? x.process).bind (·.handler?) with
        | none => s.endRecorded c r false
        | some _ => s.deliverDue c w r.slice
            { code := r.code, lanes := r.mask, addr := r.addr, aux := r.aux, others := r.lanes &&& ~~~(waveLanes r.slice 15#4) }
      | none =>
        match s.recordSlice c r with
        | .parked _ p => if ((s.process? p.wave.process).bind (·.handler?)).isNone then s.endRecorded c r false else s
        | _ => s
  | 4 => if r.kind = 2 then s.reply c r else s.endRecorded c r false
  | 5 => s.endRecorded c r true
  | _ => s.endRecorded c r false

/-- mbact: the head record leaves, and the action is applied (09 R184). -/
def State.mbact (s : State) (c : Nat) (action : Nat) : State :=
  if !s.actReady c action then s else
  match (s.core c).mailbox with
  | [] => s
  | r :: _ => if r.kind = 5 || r.kind = 6 then (s.dropHead c).dismiss r else (s.dropHead c).act c r action

def execMbactRetry (core : Nat) (s : State) : Done := .next (s.mbact core 0)
def execMbactSkip (core : Nat) (s : State) : Done := .next (s.mbact core 1)
def execMbactEndSlice (core : Nat) (s : State) : Done := .next (s.mbact core 2)
def execMbactForward (core : Nat) (s : State) : Done := .next (s.mbact core 3)
def execMbactReply (core : Nat) (s : State) : Done := .next (s.mbact core 4)
def execMbactEndWave (core : Nat) (s : State) : Done := .next (s.mbact core 5)
def execMbactDismiss (core : Nat) (s : State) : Done := .next (s.mbact core 6)
def execMbactUnassigned (core : Nat) (s : State) : Done := .next (s.mbact core 7)

/-- A held record joins the mailbox when a place is free (09 R181). -/
def State.appendHeld (s : State) (c : Nat) : State :=
  let k := s.core c
  match k.heldMail with
  | r :: rest => if k.mailbox.length < mailboxSize then s.setCore c { k with mailbox := k.mailbox ++ [r], heldMail := rest } else s
  | [] => s

/-- MAILBOX_APPEND (09 R181). -/
def execMailboxAppend (core : Nat) (s : State) : Done := .next (s.appendHeld core)

/-! ### WSR -/

def WsrOp.shape (o : Sys2Proof.WsrOp) : Shape := { g := o.g, srcs := [{ reg := pairReg o.a, wide := true }] }

/-- The registers that WSR writes plainly. -/
def State.writeSr (s : State) (c w : Nat) (process num : Nat) (v : W64) : State :=
  match num with
  | 0x000 => s.modProcess process (fun p => { p with tvec := v.setWidth 22 })
  | 0x001 => s.modWave c w (fun x => { x with tmask := v.setWidth 5 })
  | 0x002 => s.modWave c w (fun x => { x with fflags := v.setWidth 5 })
  | 0x04B => s.setCore c { s.core c with rply := Store.set (s.core c).rply 0 0 v }
  | 0x04C => s.setCore c { s.core c with rply := Store.set (s.core c).rply 0 1 v }
  | 0x04D => s.setCore c { s.core c with rply := Store.set (s.core c).rply 0 2 v }
  | 0x04E => s.setCore c { s.core c with rply := Store.set (s.core c).rply 0 3 v }
  | 0x102 => { s with security := { s.security with fuseaddr := v.setWidth 10 } }
  | _ => s

def execWsr (o : Sys2Proof.WsrOp) (s : State) : Done :=
  .next (issueActs (fun s => planSr (WsrOp.shape o) o.num.toNat true (fun x sl _ =>
    let v := x.pair sl o.a
    if o.num = 0x04A && !s.actReady s.now.core (v.toNat % 8) then .stall none
    else .go (fun s =>
      (if o.num = 0x04A then s.mbact s.now.core (v.toNat % 8)
       else s.writeSr s.now.core s.now.slot x.wave.process o.num.toNat v).srDone x sl o.num.toNat [])) s) s)

/-! ### The rows that name their register -/

def PairOp.read (o : Sys2Proof.PairOp) : Shape := { g := o.g, srcs := [], d := some (pairReg o.p, true) }
def PairOp.write (o : Sys2Proof.PairOp) : Shape := { g := o.g, srcs := [{ reg := pairReg o.p, wide := true }] }

/-- A read that writes the pair and then does more. -/
def issueSrRead (o : Sys2Proof.PairOp) (num : Nat) (wait : State → Option (Except Trap Wait)) (val : State → Nat → W64)
    (after : Nat → State → State) (s : State) : Done :=
  .next (issueActs (fun s => planSr (PairOp.read o) num false (fun x sl lanes =>
    match wait s with
    | some (.error t) => .trap { t with lanes := lanesMask lanes }
    | some (.ok w) => .wait w
    | none => .go (fun s => after x.k ((s.putPair x.k o.p (val s x.k)).srDone x sl num (pairLocs o.p)))) s) s)

def issueSrWrite (o : Sys2Proof.PairOp) (num : Nat) (f : State → Ctx → W64 → List Nat → Act) (s : State) : Done :=
  .next (issueActs (fun s => planSr (PairOp.write o) num true (fun x sl lanes =>
    match f s x (x.pair sl o.p) lanes with
    | .go g => .go (fun s => (g s).srDone x sl num [])
    | a => a) s) s)

/-- The entropy source: failed, not ready yet, or ready (27 R459). -/
def entropyWait (s : State) : Option (Except Trap Wait) :=
  if s.security.entropyFailed then some (.error { code := 0x21, lanes := 0 })
  else if s.now.prompt then none else some (.ok .entropy)

/-- NONCE_READ (02 R85): the value is latched as the debug-unlock nonce. -/
def execNonceRead (o : Sys2Proof.PairOp) (s : State) : Done :=
  issueSrRead o 0x106 entropyWait (fun s k => Config.entropy (s.fresh + k))
    (fun k s => { s with security := { s.security with nonce := Config.entropy (s.fresh + k), wipeSinceNonce := false } }) s

/-- ENTROPY_READ (27 R459). -/
def execEntropyRead (o : Sys2Proof.PairOp) (s : State) : Done :=
  issueSrRead o 0x10A entropyWait (fun s k => Config.entropy (s.fresh + k)) (fun _ s => s) s

/-- MBWAIT_READ (09 R183). -/
def execMbwaitRead (o : Sys2Proof.PairOp) (s : State) : Done :=
  issueSrRead o 0x041 (fun s => if (s.core s.now.core).mailbox.isEmpty then some (.ok .mbwait) else none)
    (fun s _ => BitVec.ofNat 64 (s.core s.now.core).mailbox.length) (fun _ s => s) s

/-- ENTROPY_HEALTH_FAIL (27 R459): after sixteen consecutive failures the source is failed until reset. -/
def execEntropyHealthFail (s : State) : Done :=
  let n := s.security.entropyFails + 1
  .next { s with security := { s.security with entropyFails := n, entropyFailed := s.security.entropyFailed || 16 ≤ n } }

/-- The wipe's first two steps (27 R450): tenant keys zeroed, their region entries no longer valid. -/
def Security.startWipe (z : Security) : Security :=
  { z with
    wiping := true
    keys := z.keys.filter (fun k => k.1 = 0)
    keyGen := (List.range 63).foldl (fun m i => Store.set m 0 (i + 1) (Store.get m 0 (i + 1) + 1)) z.keyGen
    regions := (List.range 64).foldl (fun m i =>
      let hi := Store.get m 0 (2 * i + 1)
      let key := hi.toNat / 2 ^ 56 % 64
      if hi.getLsbD 63 && key ≠ 0 then Store.set m 0 (2 * i + 1) (hi &&& 0x7FFFFFFFFFFFFFFF#64) else m) z.regions }

/-- KEYWIPE_WRITE (27 R450). -/
def execKeywipeWrite (o : Sys2Proof.PairOp) (s : State) : Done :=
  issueSrWrite o 0x107 (fun s _ v _ =>
    if v.getLsbD 0 && !s.security.wiping then .go (fun s => { s with security := s.security.startWipe }) else .go id) s

/-- KEYWIPE_COMPLETE (27 R450): the copies of the wiped regions' lines are gone. -/
def execKeywipeComplete (s : State) : Done :=
  if s.security.wiping then
    .next { s with
      security := { s.security with wiping := false, wipeSinceNonce := true, installSinceWipe := false, wipeSinceReset := true }
      cores := s.cores.map (fun c => (c.1, { c.2 with l1 := c.2.l1.filter (fun l =>
        !(l.1 / 2 ^ 52 % 32 = 0 && Store.get s.lineGen 0 (l.1 % 2 ^ 52) / 2 ^ 32 ≠ 0)) })) }
  else .next s

/-- Bits of dbgctl that a lifecycle permits without the wipe condition (27 R446). -/
def dbgPermitted (lc : Nat) : BitVec 3 := match lc with
  | 1 | 4 => 7#3
  | 3 => 6#3
  | _ => 0#3

/-- A write to dbgctl that is allowed (27 R451): each bit that rises is checked. -/
def Security.dbgOk (z : Security) (n : BitVec 3) : Bool :=
  let rise := n &&& ~~~z.dbgctl
  let ok0 := !rise.getLsbD 0 || (dbgPermitted z.lcstate).getLsbD 0
    || ((z.lcstate = 2 || z.lcstate = 3) && z.wipeSinceNonce && !z.installSinceWipe)
  let okHigh := [1, 2].all (fun i => !rise.getLsbD i || n.getLsbD 0 || (dbgPermitted z.lcstate).getLsbD i)
  ok0 && okHigh

/-- Sampling stops at once: no sample is due any more (28 R466). -/
def State.dropSamplesDue (s : State) : State :=
  let clear := fun (x : Wave) => { x with count := { x.count with due := false } }
  { s with cores := s.cores.map (fun c => (c.1, { c.2 with
      waves := c.2.waves.map (fun w => (w.1, clear w.2))
      parked := c.2.parked.map (fun p => (p.1, { p.2 with wave := clear p.2.wave })) })) }

/-- dbgctl takes a value: debug opened is sticky, with bit 1 clear no process has stop flags, and with bit 2 clear no sample
is due (28 R466, R469). -/
def State.setDbgctl (s : State) (n : BitVec 3) : State :=
  let s := { s with security := { s.security with dbgctl := n, debugOpened := s.security.debugOpened || n.getLsbD 0 } }
  let s := if n.getLsbD 2 then s else s.dropSamplesDue
  if n.getLsbD 1 then s
  else { s with objects := s.objects.map (fun o => match o.2.body with
    | .process p => (o.1, { o.2 with body := .process { p with stops := false, step := false } })
    | _ => o) }

/-- DBGCTL_WRITE (27 R451). -/
def execDbgctlWrite (o : Sys2Proof.PairOp) (s : State) : Done :=
  issueSrWrite o 0x108 (fun s _ v lanes =>
    let n : BitVec 3 := v.setWidth 3
    if s.security.dbgOk n then
      .go (fun s => s.setDbgctl n)
    else .trap { code := 0x21, lanes := lanesMask lanes }) s

/-- Extend the measurement by a record (27 R457). -/
def Security.extend (z : Security) (r : List Byte) : Security :=
  { z with measure := BitVec.ofNat 512 (ofLeBytes (shake256 (leBytes 64 z.measure.toNat ++ r))) }

/-- MEASURE_WRITE (27 R457): the record at the address in bits 55 to 0, as a canonical address. -/
def execMeasureWrite (o : Sys2Proof.PairOp) (s : State) : Done :=
  issueSrWrite o 0x109 (fun s x v lanes =>
    let a := ((v.setWidth 56 : BitVec 56).signExtend 64 : W64)
    match s.readVirtual (s.asker x.wave s.now.core false) a.toNat 64 with
    | .ok r => .go (fun s => { s with security := s.security.extend r })
    | .error code => .trap { code, lanes := lanesMask lanes, addr := a }) s

/-- DROP_WRITE (09 R183): a wave of class 0 or a supervisor wave is left alone; another, while an edge of its has begun, is
waited for. -/
def execDropWrite (o : Sys2Proof.PairOp) (s : State) : Done :=
  issueSrWrite o 0x050 (fun s _ v _ =>
    let w := waveIdSlot (v.toNat % 2 ^ 15)
    let held := match s.wave? s.now.core w with
      | some x => !x.supervisor && x.prio ≠ 0 && !s.canDrop s.now.core w
      | none => false
    if waveIdCore (v.toNat % 2 ^ 15) = s.now.core && held then .wait .park
    else .go (fun s => s.dropByName s.now.core v)) s

/-- REPRIO_WRITE (09 R183). -/
def execReprioWrite (o : Sys2Proof.PairOp) (s : State) : Done :=
  issueSrWrite o 0x051 (fun s _ v _ =>
    match s.reprioByName s.now.core v with
    | none => .wait .park
    | some _ => .go (fun s => (s.reprioByName s.now.core v).getD s)) s

/-- ILLEGAL_OPCODE (01 R36, R39): the word traps with no other change. -/
def execIllegalOpcode (_word : W64) (code : BitVec 8) (s : State) : Done :=
  .next (issueActs (fun _ _ sl => .trap { code, lanes := sl.active }) s)

end Sys2Proof.Machine
end

