-- ==== Sys2Proof/Machine/Copy.lean ====
section
/-!
DEFINITION. Copy requests: XKICK, XSUSP, XSTAT, the copy queue and the engines (10 R214 to R220, 09 R198, 20 R370).
-/

namespace Sys2Proof.Machine

/-! ### Byte ranges of engines, here and on peers -/

/-- The parts of a range an engine reads or writes for a team: scratch, or global page by page. -/
def State.engineParts (s : State) (q : Asker) (team : Nat) (space : Space) (va n : Nat) : Except Byte (List Part) :=
  match space with
  | .scratch =>
    match s.scratch team q.cluster (va % 2 ^ 32) n with
    | .error c => .error c
    | .ok (place, addr) => .ok [{ lane := 0, place, addr, size := n, va }]
  | .global =>
    match s.resolveRange q va n with
    | .error c => .error c
    | .ok rs => .ok ((rs.zip (pageRanges (n / 4096 + 2) va n)).map (fun r =>
        { lane := 0, place := r.1.1, addr := r.1.2.1, size := r.1.2.2.2, va := r.2.1, rep := r.1.2.2.1 }))

/-- Parts of several ranges, in order. -/
def State.engineRanges (s : State) (q : Asker) (team : Nat) (space : Space) (rs : List (Nat × Nat)) : Except Byte (List Part) :=
  match collect (fun r => s.engineParts q team space r.1 r.2) rs with
  | .error c => .error c
  | .ok ps => .ok ps.flatten

/-- Bytes of parts: read where the engine's die reads them, or as a peer answered. -/
def State.engineBytes (s : State) (cluster : Nat) (ps : List Part) : List Byte :=
  ps.zipIdx.flatMap (fun p => match p.1.got with
    | some (.data bs) => bs.take p.1.size
    | _ => s.homeRead (dieOf (32 * cluster)) p.1.place p.1.addr p.1.size (s.fresh + 8192 + 4 * p.2))

/-- Every write to these bytes is in both copies of its page, as an engine's release demands of its own (12 R243, 13 R266). -/
def State.drainOver (s : State) (ps : List Part) : State :=
  (s.replicaWrites.filter (fun w => ps.any w.overlaps)).foldl (fun (s : State) w => s.applyReplica w) s

/-- Every write is in both copies of its page, as the release of a block outside the cores demands. -/
def State.drainReplicas (s : State) : State := s.replicaWrites.foldl (fun (s : State) w => s.applyReplica w) s

/-- The lines of this package's memory that parts take in. -/
def ownLines (ps : List Part) : List (Place × Nat) :=
  (ps.filter (fun p => !p.place.isPeer)).flatMap (fun p => (linesOf p.addr p.size).map (fun l => (p.place, l / 128)))

/-- The engine takes exclusive ownership of lines: every L1 loses its copy (10 R218, 12 R244). -/
def State.takeLines (s : State) (ls : List (Place × Nat)) : State :=
  ls.foldl (fun (s : State) l => (s.holdHostLine l.1 (128 * l.2)).recallLine l.1 (128 * l.2)) s

/-- The engine writes the lines it owns. -/
def State.engineWrite (s : State) (ps : List Part) (bs : List Byte) : State :=
  let r := ps.foldl (fun (r : State × List Byte) p =>
    let s := match p.place with
      | .peer _ => r.1
      | _ => r.1.homePut p.place p.addr (r.2.take p.size) p.rep
    (s, r.2.drop p.size)) (s, bs)
  if ps.any (·.rep) then r.1.drainOver (ps.filter (·.rep)) else r.1

/-- An engine's requests to peers for these parts, as an access in flight that counts on no path. -/
def State.engineSend (s : State) (process : Nat) (secure : Bool) (cluster : Nat) (ps : List Part) (write : Bool) : Nat × State :=
  let id := s.serial
  let a : Access := { core := cluster * 32, slot := 64, slice := 0, gen := 0, pc := {}, word := 0, path := none
                      kind := if write then .store else .counted, parts := ps, lanes := 0, process, secure }
  let s := s.launchAccess a
  (id, s.sendParts id a (fun _ p => some (if write then .write p.addr p.data else .read p.addr p.size)) (fun p => (p.addr, p.size)))

/-- What an engine's access in flight has come to. -/
inductive EngineGot where
  | waiting | failed (code : Byte) | done (ps : List Part)

def State.engineGot (s : State) (id : Nat) : EngineGot :=
  match Store.find? s.inflight id with
  | none => .done []
  | some a =>
    if a.parts.any (fun p => p.place.isPeer && p.got.isNone) then .waiting
    else match a.peerError? with
      | some (c, _) => .failed c
      | none => .done a.parts

def State.engineForget (s : State) (id : Nat) : State := { s with inflight := Store.erase s.inflight id }

/-! ### The record (10 R214, R215) -/

structure CopyRecord where
  src : Nat
  dst : Nat
  rowbytes : Nat
  rows : Nat
  sstride : Int
  dstride : Int
  conv : Nat
  sspace : Nat
  dspace : Nat
  bar : Nat
  cursor : Nat
  code : Nat
  state : Nat
  zeros : Bool

def word32 (bs : List Byte) (off : Nat) : Nat := ofLeBytes ((bs.drop off).take 4)
def word64 (bs : List Byte) (off : Nat) : Nat := ofLeBytes ((bs.drop off).take 8)

def CopyRecord.ofBytes (b : List Byte) : CopyRecord :=
  let w5 := word32 b 0x14
  let w8 := word32 b 0x20
  let w9 := word32 b 0x24
  let w12 := word32 b 0x30
  { src := word64 b 0, dst := word64 b 8, rowbytes := word32 b 0x10, rows := w5 % 2 ^ 16
    sstride := readInt true 32 (word32 b 0x18), dstride := readInt true 32 (word32 b 0x1C)
    conv := w8 / 2 ^ 24 % 16, sspace := w8 / 2 ^ 22 % 4, dspace := w8 / 2 ^ 20 % 4, bar := w9 % 2 ^ 24
    cursor := word32 b 0x28, code := w12 / 2 ^ 24, state := w12 % 8
    zeros := w5 / 2 ^ 16 = 0 && w8 / 2 ^ 28 = 0 && w8 % 2 ^ 20 = 0 && w9 / 2 ^ 24 = 0 && w12 / 8 % 2 ^ 21 = 0
      && (b.drop 0x34).all (· == 0) }

/-- Source and destination element sizes. -/
def convSizes : Nat → Option (Nat × Nat)
  | 0 => some (1, 1) | 1 | 2 => some (4, 2) | 3 | 4 => some (2, 4) | 5 | 6 => some (4, 1)
  | _ => none

/-- One element's conversion. -/
def convElem (conv x : Nat) : Nat :=
  match conv with
  | 1 => (fp32.convert bf16 .rne false x).1
  | 2 => (fp32.convert fp16 .rne false x).1
  | 3 => (bf16.convert fp32 .rne false x).1
  | 4 => (fp16.convert fp32 .rne false x).1
  | 5 => (fp32.convert e4m3 .rne true x).1
  | 6 => (fp32.convert e5m2 .rne true x).1
  | _ => x

/-- Convert a run of elements. -/
def convBytes (conv se de : Nat) (bs : List Byte) : List Byte :=
  if conv = 0 then bs
  else (List.range (bs.length / se)).flatMap (fun i => leBytes de (convElem conv (ofLeBytes ((bs.drop (se * i)).take se))))

def CopyRecord.sizes (r : CopyRecord) : Nat × Nat := (convSizes r.conv).getD (1, 1)
/-- Destination bytes of a row, and of the request. -/
def CopyRecord.drow (r : CopyRecord) : Nat := r.rowbytes / r.sizes.1 * r.sizes.2
def CopyRecord.total (r : CopyRecord) : Nat := r.rows * r.drow

def spaceOf (n : Nat) : Space := if n = 1 then .scratch else .global
def wrapVa (space : Nat) (x : Int) : Nat := (x % (if space = 1 then 2 ^ 32 else 2 ^ 64)).toNat

/-- Source and destination ranges of destination bytes cur to cur + n, row by row. -/
def CopyRecord.ranges (r : CopyRecord) (cur n : Nat) : List (Nat × Nat) × List (Nat × Nat) :=
  let first := cur / r.drow
  let last := (cur + n - 1) / r.drow
  let rows := (List.range (last - first + 1)).map (fun i =>
    let row := first + i
    let lo := max cur (row * r.drow) - row * r.drow
    let hi := min (cur + n) ((row + 1) * r.drow) - row * r.drow
    let sLo := lo / r.sizes.2 * r.sizes.1
    let sLen := (hi - lo) / r.sizes.2 * r.sizes.1
    ((wrapVa r.sspace (r.src + row * r.sstride + sLo), sLen), (wrapVa r.dspace (r.dst + row * r.dstride + lo), hi - lo)))
  (rows.map (·.1), rows.map (·.2))

/-! ### Records in scratch -/

/-- Where a record, or a barrier, of a team stands. -/
def State.teamScratch (s : State) (team cluster a n : Nat) : Option (Nat × Nat) :=
  match s.scratch team cluster a n with
  | .ok (.scratch c, o) => some (c, o)
  | _ => none

def State.pokeScratch (s : State) (at_ : Nat × Nat) (off : Nat) (bs : List Byte) : State :=
  (s.pokeN (.scratch at_.1) (at_.2 + off) bs).untag (.scratch at_.1) (at_.2 + off) bs.length noAccess

/-- The first fault a barrier's copies meet is kept in it (10 R211). -/
def State.faultBarrier (s : State) (at_ : Nat × Nat) (code : Nat) : State :=
  let b := s.readBarrier at_.1 at_.2
  if b.fault then s else s.writeBarrier at_.1 at_.2 { b with fault := true, fcode := code }

def State.barrierOf (s : State) (team cluster bar : Nat) : Option (Nat × Nat) :=
  if bar % 16 = 0 then s.teamScratch team cluster bar 16 else none

/-- The fields pass (10 R217, step 2). -/
def CopyRecord.ok (r : CopyRecord) : Bool :=
  match convSizes r.conv with
  | none => false
  | some (se, _) =>
    r.zeros && 1 ≤ r.rowbytes && r.rowbytes % se = 0 && 1 ≤ r.rows && r.sspace ≤ 1 && r.dspace ≤ 1 && r.total < 2 ^ 32
      && r.cursor < r.total && r.cursor % 4096 = 0

/-! ### Engines take requests -/

/-- The queued request an engine takes: lowest class, then oldest. -/
def bestCopy (qs : List CopyReq) : Option CopyReq :=
  qs.foldl (fun (best : Option CopyReq) r => match best with
    | none => some r
    | some b => if r.cls < b.cls || (r.cls = b.cls && r.age < b.age) then some r else some b) none

/-- The state word of a request's record. -/
def State.setCopyState (s : State) (r : CopyReq) (cluster code state : Nat) : State :=
  match s.teamScratch r.team cluster r.recAddr.toNat 64 with
  | some a => s.pokeScratch a 0x30 (leBytes 4 (code * 2 ^ 24 + state))
  | none => s

/-- Free engines take queued requests; one set aside runs again in state 1. -/
def State.fillEngines (s : State) (cluster : Nat) : Nat → State
  | 0 => s
  | n + 1 =>
    let k := s.cluster cluster
    match Store.freeKey k.engines 0 4, bestCopy k.copies with
    | some e, some r =>
      let s := if r.displaced then s.setCopyState r cluster 0 1 else s
      State.fillEngines (s.setCluster cluster { k with copies := k.copies.erase r, engines := Store.insert k.engines e { r with displaced := false } })
        cluster n
    | _, _ => s

/-- The accesses that the release of an XKICK awaits are done: its address comes to the queue (10 R217, 13 R251). -/
def State.kickReady (s : State) (q : CopyKick) : Bool :=
  match Store.find? s.inflight q.id with
  | some a => !s.releaseAhead q.id a .dv
  | none => true

/-- COPY_QUEUE_READ_RECORD's work: the record at the head of the queue is read and accepted or refused (10 R217). -/
def State.readKick (s : State) (cluster : Nat) : State :=
  let k := s.cluster cluster
  match k.copyQueue with
  | [] => s
  | q :: rest =>
    if !s.kickReady q then s else
    let s := s.setCluster cluster { k with copyQueue := rest }
    let done := fun (s : State) => match Store.find? s.inflight q.id with
      | some a => s.finish q.id a
      | none => s
    match s.teamScratch q.team cluster q.addr.toNat 64 with
    | none => done s
    | some at_ =>
      let r := CopyRecord.ofBytes (s.peekN 0 (.scratch at_.1) at_.2 64)
      if r.state ≠ 0 && r.state ≠ 2 then done s
      else
        let bar := s.barrierOf q.team cluster r.bar
        if r.ok && bar.isSome then
          let req : CopyReq := { recAddr := q.addr, team := q.team, process := q.process
                                 secure := ((s.process? q.process).map (·.secure)).getD false, core := q.core, cls := q.cls
                                 age := s.serial }
          let s := s.pokeScratch at_ 0x30 (leBytes 4 1)
          let k := s.cluster cluster
          (done (s.setCluster cluster { k with copies := k.copies ++ [req] })).fillEngines cluster 4
        else
          let s := s.pokeScratch at_ 0x30 (leBytes 4 (3 * 2 ^ 24 + 4))
          done (match bar with
            | some b => s.faultBarrier b 3
            | none => s)

def execCopyQueueReadRecord (cluster : Nat) (s : State) : Done := .next (s.readKick cluster)

/-! ### XKICK, XSUSP, XSTAT -/

/-- The checks of a record address. -/
def planRecord (sh : Shape) (a : SReg) (edge : Bool) (go : Nat → Nat × Nat → State → Ctx → Slice → Act) (s : State) (x : Ctx)
    (sl : Slice) : Act :=
  let lanes := workLanes sl sh.g false
  match operandCheck sh (edge && !lanes.isEmpty) x sl lanes with
  | some act => act
  | none =>
    if lanes.isEmpty then .go (fun s => s.advance sh lanes x.k)
    else
      let addr := (x.readLoc sl (.s a.toNat)).toNat
      if addr % 64 ≠ 0 then .trap { code := 0x03, lanes := lanesMask lanes }
      else match s.teamScratch x.wave.team (s.now.core / 32) addr 64 with
        | none => .trap { code := 0x08, lanes := lanesMask lanes, addr := BitVec.ofNat 64 addr }
        | some at_ => go addr at_ s x sl

/-- The copy queue holds 256 addresses. -/
def copyPlaces : Nat := 256

/-- XKICK: its place in the queue and its count are taken as it issues; its release runs on from there, in the order of the
places (10 R217). -/
def planXkick (o : Sys2Proof.S1Op) : State → Ctx → Slice → Act :=
  planRecord (S1Op.shape o) o.a true (fun addr _ s x sl =>
    let cl := s.now.core / 32
    if copyPlaces ≤ (s.cluster cl).copyQueue.length then .wait .copyPlace
    else if x.counterFull 3 o.g then .wait .counter
    else match s.acquireAhead s.now.core s.now.slot x.k with
    | some id => .wait (.acquire id)
    | none => .go (fun s =>
      if copyPlaces ≤ (s.cluster cl).copyQueue.length then s.setWait x.k .copyPlace
      else
        let id := s.serial
        let gen := s.gen s.now.core s.now.slot
        let s := s.launchAccess { core := s.now.core, slot := s.now.slot, slice := x.k, gen, pc := sl.pc, word := s.now.word
                                  path := some 3, kind := .counted, parts := [], lanes := 0, process := x.wave.process
                                  secure := s.secureWave x.wave }
        let k := s.cluster cl
        let kick : CopyKick := { addr := BitVec.ofNat 64 addr, team := x.wave.team, process := x.wave.process, core := s.now.core
                                 slot := s.now.slot, slice := x.k, gen, cls := x.wave.prio.toNat, id }
        let s := s.setCluster cl { k with copyQueue := k.copyQueue ++ [kick] }
        let s := (s.advance (S1Op.shape o) [0] x.k).closeRegion s.now.core s.now.slot x.k sl.lastLive sl.pc
        if s.now.prompt && k.copyQueue.isEmpty then s.readKick cl else s))

def execXkick (o : Sys2Proof.S1Op) (s : State) : Done := .next (issueActs (planXkick o) s)

/-- XKICK_QUEUE_PLACE (10 R217): a place is free, so the waiting XKICK begins. -/
def execXkickQueuePlace (w : SliceRef) (s : State) : Done :=
  if (s.cluster (w.core / 32)).copyQueue.length < copyPlaces then
    .next (s.modSlice w.core w.slot w.slice (fun sl => if sl.wait = some .copyPlace then { sl with wait := none } else sl))
  else .next s

/-- A request stops at a boundary: state 2 (10 R219). -/
def State.suspendCopy (s : State) (r : CopyReq) (cluster : Nat) : State := (s.setCopyState r cluster 0 2).bump cluster 13 1

/-- The request of this record. -/
def CopyReq.names (r : CopyReq) (team addr : Nat) : Bool := r.team = team && r.recAddr.toNat = addr

/-- XSUSP: a request in state 1 is asked to stop; one that no engine holds stands at a boundary already. -/
def State.xsusp (s : State) (cluster team addr : Nat) : State :=
  let k := s.cluster cluster
  let mine := fun (r : CopyReq) => r.names team addr
  match k.copies.find? (fun r => mine r && !r.displaced) with
  | some r => (s.setCluster cluster { k with copies := k.copies.erase r }).suspendCopy r cluster
  | none => s.setCluster cluster { k with engines := k.engines.map (fun e => if mine e.2 then (e.1, { e.2 with suspend := true }) else e) }

def execXsusp (o : Sys2Proof.S1Op) (s : State) : Done :=
  .next (issueActs (planRecord (S1Op.shape o) o.a true (fun addr _ _ x sl =>
    .go (fun s => ((s.xsusp (s.now.core / 32) x.wave.team addr).advance (S1Op.shape o) [0] x.k).closeRegion s.now.core s.now.slot
      x.k sl.lastLive sl.pc))) s)

def XstatOp.shape (o : Sys2Proof.XstatOp) : Shape :=
  { g := o.g, srcs := [{ reg := .s o.a, last := o.last }], d := some (pairReg o.d, true) }

def execXstat (o : Sys2Proof.XstatOp) (s : State) : Done :=
  .next (issueActs (planRecord (XstatOp.shape o) o.a false (fun addr at_ s x _ =>
    let b := s.peekN 0 (.scratch at_.1) at_.2 64
    let ahead := match (s.cluster (s.now.core / 32)).engines.values.find? (fun r => r.names x.wave.team addr) with
      | some r => r.written
      | none => 0
    .go (fun s => (s.putPair x.k o.d (BitVec.ofNat 64 ((word32 b 0x28 + ahead) * 2 ^ 32 + word32 b 0x30))).advance (XstatOp.shape o) [0] x.k))) s)

/-! ### The engines (10 R218, R219) -/

/-- The engine lets its request go. -/
def State.leaveEngine (s : State) (cluster engine : Nat) : State :=
  let k := s.cluster cluster
  (s.setCluster cluster { k with engines := Store.erase k.engines engine }).fillEngines cluster 4

/-- A fault ends the request. -/
def State.faultCopy (s : State) (cluster engine : Nat) (r : CopyReq) (c : CopyRecord) (code : Byte) : State :=
  let s := s.setCopyState r cluster code.toNat 4
  let s := match s.barrierOf r.team cluster c.bar with
    | some b => s.faultBarrier b code.toNat
    | none => s
  s.leaveEngine cluster engine

def State.setEngine (s : State) (cluster engine : Nat) (r : CopyReq) : State :=
  s.setCluster cluster { s.cluster cluster with engines := Store.insert (s.cluster cluster).engines engine r }

/-- A class 0 request waits with four engines busy, and this one is the youngest of the lowest class present (09 R198). -/
def Cluster.displaces (k : Cluster) (r : CopyReq) : Bool :=
  k.engines.length = 4 && k.copies.any (fun q => q.cls = 0) && r.cls ≠ 0
    && k.engines.all (fun e => e.2.cls < r.cls || (e.2.cls = r.cls && e.2.age ≤ r.age))

/-- The request at a boundary is set aside (09 R198, 10 R219). -/
def State.displaceCopy (s : State) (cluster engine : Nat) (r : CopyReq) : State :=
  let s := (s.setCopyState r cluster 0 5).bump cluster 13 1
  let k := s.cluster cluster
  (s.setCluster cluster { k with copies := k.copies ++ [{ r with displaced := true }] }).leaveEngine cluster engine

/-- The granule is written: the barrier counts it down, the cursor moves on, and the request ends, leaves or goes on. -/
def State.endGranule (s : State) (cluster engine : Nat) (r : CopyReq) (c : CopyRecord) (at_ : Nat × Nat) (n : Nat) : State :=
  let s := match s.barrierOf r.team cluster c.bar with
    | some b => s.writeBarrier b.1 b.2 ((s.readBarrier b.1 b.2).decrement n)
    | none => s
  let s := (s.pokeScratch at_ 0x28 (leBytes 4 (c.cursor + n))).bump cluster 12 n
  if c.cursor + n = c.total then (s.setCopyState r cluster 0 3).leaveEngine cluster engine
  else if r.suspend then (s.suspendCopy r cluster).leaveEngine cluster engine
  else
    let r := { r with reads := none, writes := none, owned := [], written := 0 }
    if (s.cluster cluster).displaces r then s.displaceCopy cluster engine r else s.setEngine cluster engine r

/-- Write a granule whose source bytes are here; peers get their parts as requests. (DEDUCED, log 61) -/
def State.writeGranule (s : State) (cluster engine : Nat) (r : CopyReq) (c : CopyRecord) (at_ : Nat × Nat) (n : Nat)
    (ps : List Part) (bs : List Byte) : State :=
  let s := s.engineWrite ps bs
  if ps.any (fun p => p.place.isPeer) then
    let placed := (ps.foldl (fun (acc : List Part × List Byte) p => (acc.1 ++ [{ p with data := acc.2.take p.size }], acc.2.drop p.size))
      ([], bs)).1
    let (id, s) := s.engineSend r.process r.secure cluster (placed.filter (fun p => p.place.isPeer)) true
    s.setEngine cluster engine { r with reads := none, writes := some id, owned := [],
                                         written := ((ps.filter (fun p => !p.place.isPeer)).map (·.size)).sum }
  else s.endGranule cluster engine r c at_ n

/-- COPY_GRANULE (10 R218). (DEDUCED, log 61) -/
def State.copyGranule (s : State) (cluster engine : Nat) : State :=
  match Store.find? (s.cluster cluster).engines engine with
  | none => s
  | some r =>
    match s.teamScratch r.team cluster r.recAddr.toNat 64 with
    | none => s.leaveEngine cluster engine
    | some at_ =>
      let c := CopyRecord.ofBytes (s.peekN 0 (.scratch at_.1) at_.2 64)
      let n := min 4096 (c.total - c.cursor)
      let user := !((s.process? r.process).map (·.supervisor)).getD false
      let q : Asker := { process := r.process, user, secure := r.secure, cluster, fresh := s.fresh + 4096 }
      let (srcs, dsts) := c.ranges c.cursor n
      match r.writes with
      | some id =>
        (match s.engineGot id with
          | .waiting => s
          | .failed code => (s.engineForget id).faultCopy cluster engine r c code
          | .done ps =>
            let s := (s.engineForget id).endGranule cluster engine r c at_ n
            ps.foldl (fun (s : State) p => (s.contestL1 p.place p.addr p.size noAccess).untag p.place p.addr p.size noAccess) s)
      | none =>
        if r.reads.isNone && r.suspend && Config.pick s.fresh % 2 = 0 then (s.suspendCopy r cluster).leaveEngine cluster engine
        else if r.reads.isNone && (s.cluster cluster).displaces r && Config.pick s.fresh % 2 = 0 then s.displaceCopy cluster engine r
        else match s.engineRanges q r.team (spaceOf c.sspace) srcs, s.engineRanges { q with write := true } r.team (spaceOf c.dspace) dsts with
          | .error code, _ => s.faultCopy cluster engine r c code
          | _, .error code => s.faultCopy cluster engine r c code
          | .ok sp, .ok dp =>
            match r.reads with
            | some id =>
              (match s.engineGot id with
                | .waiting => s
                | .failed code => (s.engineForget id).faultCopy cluster engine r c code
                | .done ps => (s.engineForget id).writeGranule cluster engine r c at_ n dp
                    (convBytes c.conv c.sizes.1 c.sizes.2 (s.engineBytes cluster ps)))
            | none =>
              let lines := (ownLines dp).eraseDups
              if lines.any (fun l => s.ownedLine l.1 (128 * l.2) 1) then s
              else
                let s := s.takeLines lines
                if sp.any (fun p => p.place.isPeer) then
                  let (id, s) := s.engineSend r.process r.secure cluster sp false
                  s.setEngine cluster engine { r with reads := some id, owned := lines }
                else s.writeGranule cluster engine r c at_ n dp (convBytes c.conv c.sizes.1 c.sizes.2 (s.engineBytes cluster sp))

def execCopyGranule (cluster engine : Nat) (s : State) : Done := .next (s.copyGranule cluster engine)

/-- COPY_DISPLACE (09 R198): with a class 0 request waiting and four engines busy, the youngest request of the lowest class
is set aside at its boundary. -/
def execCopyDisplace (cluster engine : Nat) (s : State) : Done :=
  let k := s.cluster cluster
  match Store.find? k.engines engine with
  | none => .next s
  | some r =>
    .next (if k.displaces r && r.reads.isNone && r.writes.isNone then s.displaceCopy cluster engine r else s)

end Sys2Proof.Machine
end

