-- ==== Sys2Proof/Machine/Fetch.lean ====
section
/-!
DEFINITION. From a turn to an instruction: which gang issues, when it is ready (06 R148), the word it fetches from the
instruction store (12 R245), and the image of one instruction placed for the next step.
-/

namespace Sys2Proof.Machine

/-- A wait that its instruction ends by issuing again; the others need their event. -/
def Wait.retries : Wait → Bool
  | .fullEmpty | .mailbox | .segment _ | .walker | .token | .storage | .commit | .queue | .copyPlace | .entropy | .counter | .park | .mbwait
  | .acquire _ | .operand _ => true
  | _ => false

/-- The slice can issue: it has not ended, is not stopped by debug, and no wait holds it but one it may try again. -/
def Slice.canIssue (sl : Slice) : Bool :=
  !sl.ended && !sl.stopped && (match sl.wait with
    | none => true
    | some w => w.retries)

/-- The wave can issue: not held for a compaction copy (07 R158), nor the supervisor of a core with a fatal record
(09 R187). -/
def State.waveIssues (s : State) (c w : Nat) (x : Wave) : Bool :=
  x.hold.isNone && !(w = 63 && (s.core c).fatal.isSome)

/-- The gang of a slice is ready to issue. -/
def State.gangReady (s : State) (c w k : Nat) : Bool :=
  match s.wave? c w with
  | none => false
  | some x =>
    let x := x.settle
    s.waveIssues c w x && (match x.gangOf? k with
      | none => false
      | some g => g.slices.all (fun k => (x.slice k).canIssue))

/-- What a turn of a gang comes to. -/
inductive Fetched where
  /-- nothing issues; the state may have changed (a segment fetch has started) -/
  | idle (s : State)
  /-- this instruction issues, in this state -/
  | run (i : Instr) (s : State)

/-- The instruction a word stands for: illegal words take their trap (01 R36). (DESIGN CHOICE, log 66) -/
def instrOf (word : W64) : Instr :=
  match decode word with
  | .instr i => i
  | .illegal code => .illegalOpcode word code

/-- Fetch for the gang of a slice: its word stands in the instruction store, or its fetch starts. -/
def State.fetch (s : State) (c w k : Nat) (prompt : Bool) : Fetched :=
  match s.wave? c w with
  | none => .idle s
  | some x0 =>
    if s.gangReady c w k then
      let x := x0.settle
      let g := (x.gangOf? k).getD { slices := [k], age := 0 }
      let ks := sortNat g.slices
      let pc := (x.slice k).pc
      let x := ks.foldl (fun (x : Wave) k => x.setSlice k { x.slice k with wait := none }) x
      match (s.core c).wordAt x.image pc with
      | none =>
        if x.lastSeg < pc.seg.toNat then
          .idle (ks.foldl (fun (s : State) k => s.takeTrap c w k { code := 0x05, lanes := ((s.slice? c w k).map (·.active)).getD 0 })
            (s.setWave c w x))
        else
        let x := ks.foldl (fun (x : Wave) k => x.setSlice k { x.slice k with wait := some (.segment pc.seg) }) x
        .idle ((s.setWave c w x).startFetch c x pc.seg)
      | some word =>
        .run (instrOf word) { s.setWave c w x with now := { core := c, slot := w, slices := ks, prompt, word } }
    else .idle s

/-- The instruction store entry that holds one word at index 0. -/
def oneWordSegment (word : W64) : Segment :=
  { process := 0, code := 0, seg := 0, words := some [(0, word)], entered := 0, user := false }

/-- The slices of a wave as it is created, one gang at its entry PC: a wave dropped before its first edge restarts there as
that gang (06 R139). (DESIGN CHOICE, log 75) -/
def freshSlice (n : Nat) (pc : Pc) : Slice := { pc, restart := { pc, gang := List.range n } }
def freshSlices (n : Nat) (pc : Pc) : Store Slice := (List.range n).map (fun k => (k, freshSlice n pc))
/-- A supervisor wave as it is created (06 R141, R152): sixteen lanes, 64 registers. (DEDUCED, log 65) -/
def supervisorWave (process : Nat) (code : W64) (pc : Pc) : Wave :=
  { process, supervisor := true, width := 16, allot := 64, prio := 0, slices := freshSlices 4 pc
    gangs := [{ slices := List.range 4, age := 0 }], code }

/-- The process of the supervisor waves: the installed image's own, secure, at index 0 (27 R441, log 6); slot 1 of its
table names the control port, at index 1 (19 R343). -/
def supervisorProcess : Obj :=
  { body := .process { root := 0, secure := true, supervisor := true
                       table := [(1, { used := true, rights := 1, gen := 0, index := 1 })] }, refs := 1, owner := 0 }
def controlPort : Obj := { body := .control, refs := 1, owner := 0 }

/-- The state with one instruction word in core 0's instruction store at the pc of its supervisor wave, with the package
out of reset and that wave's turn next: the next step issues it (log 4). -/
def State.placeWord (s : State) (word : W64) : State :=
  { s with
    phase := .running
    schedule := [.issue 0 63 0 true]
    objects := Store.insert (Store.insert s.objects 0 supervisorProcess) 1 controlPort
    cores := Store.insert s.cores 0 { s.core 0 with
      istore := [oneWordSegment word]
      fatal := none
      waves := [(63, supervisorWave 0 0 {})] } }

end Sys2Proof.Machine
end

