-- ==== Sys2Proof/Machine/Sched.lean ====
section
/-!
DEFINITION. Interrupt vectors (25 R431) and the run-queue controllers: launch records and their checks, run queues,
placement, victims, compaction, restart, retirement, the end of teams and launches (chapter 06 R141 to R151, 07 R157 to R159,
09 R190, chapter 25 R416 to R424).
-/

namespace Sys2Proof.Machine

/-! ### Interrupt coalescing (25 R431) -/

def State.raiseVector (s : State) (v : Nat) : State :=
  let x := (Store.find? s.vectors v).getD {}
  if x.count = 0 then s
  else { s with vectors := Store.insert s.vectors v { x with count := 0, sent := x.sent + 1 } }

/-- An event on a vector. -/
def State.countEvent (s : State) (v : Nat) (flush : Bool) : State :=
  let x := (Store.find? s.vectors v).getD {}
  let x := { x with count := x.count + 1, start := if x.count = 0 then s.time else x.start }
  let s := { s with vectors := Store.insert s.vectors v x }
  if x.threshold ≤ x.count || flush then s.raiseVector v else s

/-- COALESCER_HOLD_EXPIRY. -/
def execCoalescerHoldExpiry (vector : Nat) (s : State) : Done :=
  let x := (Store.find? s.vectors vector).getD {}
  .next (if x.hold ≠ 0 && x.count ≠ 0 && x.hold ≤ s.time - x.start then s.raiseVector vector else s)

/-- The vector lies in a process's window (17 R328). -/
def State.vectorOk (s : State) (process v : Nat) : Bool :=
  ((s.process? process).map (fun p => p.vecBase ≤ v && v < p.vecBase + p.vecCount)).getD false

/-! ### Launch records and headers (25 R416, R417, 06 R142, R143) -/

structure LaunchRecord where
  cls : Nat
  width : Nat
  fused : Bool
  cscratch : Bool
  teams : Nat
  header : Nat
  params : Nat
  plen : Nat
  clusters : Nat
  cores : Nat
  tag : Nat
  done : Nat
  irq : Bool
  vector : Nat
  zeros : Bool

def LaunchRecord.ofBytes (b : List Byte) : LaunchRecord :=
  let w0 := word32 b 0
  let w6 := word32 b 0x18
  let w7 := word32 b 0x1C
  let w12 := word32 b 0x30
  { cls := w0 / 2 ^ 26 % 4, width := w0 / 2 ^ 24 % 4, fused := w0.testBit 23, cscratch := w0.testBit 22, teams := word32 b 4
    header := word64 b 8, params := word64 b 0x10, plen := w6 % 2 ^ 17, clusters := w7 % 4096, cores := word32 b 0x20
    tag := word32 b 0x24, done := word64 b 0x28, irq := w12.testBit 15, vector := w12 % 2048
    zeros := w0 / 2 ^ 28 = 0 && w0 % 2 ^ 22 = 0 && w6 / 2 ^ 17 = 0 && w7 / 4096 = 0 && w12 / 2 ^ 16 = 0 && w12 / 2048 % 16 = 0
      && (b.drop 0x34).all (· = 0) }

/-- The rules of the record's own table; the vector's rule holds when irq asks for it. (DEDUCED, log 53) -/
def LaunchRecord.ok (r : LaunchRecord) (s : State) (process : Nat) : Bool :=
  r.zeros && r.width ≠ 3 && 1 ≤ r.teams && r.teams ≤ 2 ^ 24 && r.header % 64 = 0 && r.params % 8 = 0 && r.plen ≤ 65536
    && r.clusters ≠ 0 && r.cores ≠ 0 && r.done % 8 = 0 && (!r.irq || s.vectorOk process r.vector)

structure Header where
  pair : Bool
  segs : Nat
  lives : Nat
  scratch : Nat
  roles : List Role
  code : Nat
  liveTab : Nat
  ok : Bool

def allotOf (code : Nat) : Nat := 16 * 2 ^ code

def Header.ofBytes (b : List Byte) : Header :=
  let w0 := word32 b 0
  let n := w0 / 2 ^ 24 % 4 + 1
  let words := (List.range 4).map (fun k => word32 b (8 + 4 * k))
  let roles := (words.take n).map (fun w =>
    ({ allot := allotOf (w / 2 ^ 30), waves := w / 2 ^ 24 % 64, entry := Pc.ofBits (BitVec.ofNat 21 w) } : Role))
  let pair := w0.testBit 26
  let segs := w0 / 2 ^ 12 % 4096
  let scratch := word32 b 4
  { pair, segs, lives := w0 % 4096, scratch, roles, code := word64 b 0x18, liveTab := word64 b 0x20
    ok := w0 / 2 ^ 27 = 0 && (words.take n).all (fun w => w / 2 ^ 21 % 8 = 0 && w / 2 ^ 24 % 64 ≠ 0)
      && (words.drop n).all (· = 0) && roles.all (fun r => r.entry.seg.toNat ≤ segs)
      && (roles.map (·.waves)).sum ≤ (if pair then 126 else 63)
      && scratch % 256 = 0 && scratch ≤ (if pair then 1048576 else 524288) && (b.drop 0x28).all (· = 0) }

/-! ### The waves of a team (06 R144, R145) -/

/-- A wave of a team: its index, role, index in the role. -/
structure Member1 where
  index : Nat
  role : Nat
  roleIndex : Nat
  r : Role

def teamMembers (roles : List Role) : List Member1 :=
  let flat := roles.zipIdx.flatMap (fun r => (List.range r.1.waves).map (fun i => (r.2, i, r.1)))
  flat.zipIdx.map (fun m => { index := m.2, role := m.1.1, roleIndex := m.1.2.1, r := m.1.2.2 })

/-- The members that stand on the first core, or on the second of a pair. -/
def membersOn (pair : Bool) (ms : List Member1) (second : Bool) : List Member1 :=
  if pair then ms.filter (fun m => (m.index % 2 = 1) == second) else if second then [] else ms

def Member1.units (m : Member1) (width : Nat) : Nat := blockUnits width m.r.allot

def halfScratch (pair : Bool) (scratch : Nat) : Nat := if pair then roundUp (scratch / 2) 256 else scratch

/-! ### Handing over and accepting (25 R417 to R422) -/

/-- The best of a list of submissions: by class, then by acceptance. -/
def bestSubmit (l : List Submit) : Option Submit :=
  l.foldl (fun best (r : Submit) => match best with
    | none => some r
    | some b => if r.cls < b.cls || (r.cls = b.cls && r.age < b.age) then some r else some b) none

def launchPlaces : Nat := 1024

/-- A record joins the launch queue. -/
def State.submit (s : State) (r : Submit) : State :=
  { s with launchQueue := s.launchQueue ++ [{ r with age := s.serial }], serial := s.serial + 1 }

def execLaunchQueueHandoff (cluster : Nat) (s : State) : Done :=
  match bestSubmit s.launchQueue with
  | none => .next s
  | some r => .next { s with launchQueue := s.launchQueue.erase r, handed := s.handed ++ [(cluster, r)] }

/-- The asker that a process is to a run-queue controller. (DEDUCED, log 62) -/
def State.processAsker (s : State) (process cluster : Nat) : Asker :=
  { process, user := !((s.process? process).map (·.supervisor)).getD false
    secure := ((s.process? process).map (·.secure)).getD false, cluster, fresh := s.fresh + 4096 }

/-- A launch as a record asks for it, before its checks; teams 0 and a status when it is refused. -/
def LaunchRecord.launch (r : LaunchRecord) (q : Submit) (accepted : Nat) : Launch :=
  { process := q.process, cls := max r.cls q.floor, source := q.source, width := 16 * 2 ^ r.width, fused := r.fused
    cscratch := r.cscratch, teams := 0, clusters := BitVec.ofNat 12 r.clusters, cores := BitVec.ofNat 32 r.cores
    tag := BitVec.ofNat 32 r.tag, doneAddr := BitVec.ofNat 64 r.done, irq := r.irq, vector := r.vector, pair := false
    segs := 0, lives := 0, scratch := 0, roles := [], code := 0, liveTab := 0, params := [], accepted }

/-- The header passes, its code and parameters can be read, and its teams can ever be placed (25 R417). -/
def State.checkLaunch (s : State) (r : LaunchRecord) (q : Submit) (cluster accepted : Nat) : Option Launch :=
  let asker := s.processAsker q.process cluster
  if !r.ok s q.process then none
  else match s.readVirtual asker r.header 64, s.readVirtual asker r.params r.plen with
    | .ok hb, .ok params =>
      let h := Header.ofBytes hb
      let ms := teamMembers h.roles
      let width := 16 * 2 ^ r.width
      let fits := fun (second : Bool) => ((membersOn h.pair ms second).map (fun m => m.units width)).sum ≤ poolUnits
      let entry := h.roles.all (fun x => match s.readVirtual { asker with fetch := true }
          ((h.code + 4096 * x.entry.seg.toNat) % 2 ^ 64) 4096 with
        | .ok _ => true
        | .error _ => false)
      let served := (List.range 12).any (fun k => r.clusters.testBit k && (clustersMask s).testBit k)
      let pairOk := !h.pair || (List.range 16).any (fun k => r.cores.testBit (2 * k) && r.cores.testBit (2 * k + 1))
      if h.ok && served && pairOk && fits false && fits true && entry then
        some { r.launch q accepted with
          teams := r.teams, pair := h.pair, segs := h.segs, lives := h.lives, scratch := h.scratch, roles := h.roles
          code := BitVec.ofNat 64 h.code, liveTab := BitVec.ofNat 64 h.liveTab, params }
      else none
    | _, _ => none

/-- The park-store room each wave of an allotment reserves; a class 0 wave none (09 R195). -/
def State.launchNeed (s : State) (l : Launch) (cluster allot : Nat) : Nat :=
  if l.cls = 0 then 0
  else parkNeed l.width allot (s.liveSets (s.processAsker l.process cluster) l.liveTab.toNat l.lives)

/-! ### Placement (06 R146, 25 R423) -/

/-- First fit of a scratch allocation among those of the teams on a core. -/
def State.scratchTaken (s : State) (core : Nat) : List (Nat × Nat) :=
  s.teams.filterMap (fun t => if t.2.core = core then some (t.2.base, t.2.size)
    else if t.2.pair && t.2.core + 1 = core then some (t.2.base2, t.2.size) else none)

def scratchSize : Nat := 524288

def scratchFit (taken : List (Nat × Nat)) (n : Nat) : Option Nat :=
  if n = 0 then some 0
  else (sortNat (0 :: taken.map (fun t => t.1 + t.2))).find? (fun a =>
    a + n ≤ scratchSize && taken.all (fun t => a + n ≤ t.1 || t.1 + t.2 ≤ a))

/-- The launch may use a core. -/
def Launch.permits (l : Launch) (core : Nat) : Bool := l.clusters.getLsbD (core / 32) && l.cores.getLsbD (core % 32)

/-- What part of a team asks of its core, register blocks apart. -/
def State.roomBut (s : State) (l : Launch) (core : Nat) (ms : List Member1) : Bool :=
  let k := s.core core
  !k.placementStopped && (scratchFit (s.scratchTaken core) (halfScratch l.pair l.scratch)).isSome
    && (ms.map (fun m => s.launchNeed l (core / 32) m.r.allot)).sum ≤ k.pkfree

def Core.freeSlots (k : Core) : Nat := ((List.range 63).filter k.slotFree).length
def Core.freeUnits (k : Core) : Nat := poolUnits - (k.blocks.map (·.2)).sum
def Core.allocFor (k : Core) (l : Launch) (ms : List Member1) : Option (List Nat) := allocBlocks k.blocks (ms.map (fun m => m.units l.width))

/-- The cores a team placed at a core takes. -/
def Launch.coresAt (l : Launch) (core : Nat) : List (Nat × Bool) := if l.pair then [(core, false), (core + 1, true)] else [(core, false)]

/-- The launch's record permits a placement at a core; with cluster scratch, one team of the launch to a core. -/
def State.permitted (s : State) (id : Nat) (l : Launch) (core : Nat) : Bool :=
  (l.coresAt core).all (fun c => l.permits c.1) && (!l.pair || core % 2 = 0)
    && (!l.cscratch || s.teams.all (fun t => t.2.launch ≠ id || !((l.coresAt core).any (fun c => c.1 = t.2.core || (t.2.pair && c.1 = t.2.core + 1)))))

/-- Everything of R146 is free for a team of the launch at a core. -/
def State.fitsAt (s : State) (id : Nat) (l : Launch) (core : Nat) : Bool :=
  s.permitted id l core && (l.coresAt core).all (fun c =>
    let ms := membersOn l.pair (teamMembers l.roles) c.2
    s.roomBut l c.1 ms && ms.length ≤ (s.core c.1).freeSlots && ((s.core c.1).allocFor l ms).isSome)

def clusterCores (cluster : Nat) : List Nat := (List.range 32).map (fun i => cluster * 32 + i)

def State.fitsCluster (s : State) (id : Nat) (l : Launch) (cluster : Nat) : Bool := (clusterCores cluster).any (s.fitsAt id l)

/-- Queued teams of a class. -/
def Cluster.queued (k : Cluster) (cls : Nat) : Nat := (k.runq.filter (fun e => e.1 = cls && (match e.2 with
  | .team _ _ _ _ => true
  | _ => false))).length

def runqPlaces : Nat := 4096

/-- The cluster a team goes to: one in service that can place it at once, which one is free; else the one with the fewest
queued teams of its class, the lowest-numbered among equals. (DEDUCED, log 53) -/
def State.chooseCluster (s : State) (id : Nat) (l : Launch) : Option Nat :=
  let may := (List.range 12).filter (fun c => l.clusters.getLsbD c && (clustersMask s).testBit c
    && ((s.cluster c).runq.filter (fun e => e.1 = l.cls)).length < runqPlaces)
  let now := may.filter (s.fitsCluster id l)
  if now.isEmpty then
    may.foldl (fun (best : Option Nat) c => match best with
      | none => some c
      | some b => if (s.cluster c).queued l.cls < (s.cluster b).queued l.cls then some c else some b) none
  else some (now.getD (Config.pick (s.fresh + id) % now.length) 0)

/-- The next team of the launch awaits placement somewhere. -/
def State.teamQueued (s : State) (id : Nat) : Bool :=
  s.clusters.any (fun c => c.2.runq.any (fun e => match e.2 with
    | .team l _ _ _ => l = id
    | _ => false))

/-! ### Wave entries of the object table (19 R338, R340, R344) -/

/-- Entries of the table that one I/O die is the home of. -/
def dieObjects : Nat := 524288
/-- The pegbox that serves a core. -/
def pegDie (core : Nat) : Nat := dieOf core % 2
/-- A free entry on the die that serves the core. -/
def State.freeObj (s : State) (core : Nat) : Option Nat := Store.freeKey s.objects (pegDie core * dieObjects) dieObjects

/-- The waves of a team that is accepted for placement enter the table, each a reference to its process; where no entry is free, a
wave has none. (DEDUCED, log 58) -/
def State.addWaves (s : State) (cluster launch teamid process n : Nat) : State :=
  (List.range n).foldl (fun (s : State) i => match s.freeObj (32 * cluster) with
    | some j => (s.setObj j { body := .wave launch teamid i, refs := 1, owner := s.objId process }).holdObj process
    | none => s) s

/-- A wave that retires leaves the table. -/
def State.removeWave (s : State) (x : Wave) : State :=
  match Store.find? s.teams x.team with
  | none => s
  | some t => match List.find? (fun (o : Nat × Obj) => o.2.body = .wave t.launch t.teamid x.index) s.objects with
    | none => s
    | some o => { s with objects := Store.erase s.objects o.1 }.dropObj x.process

/-- Queue the next team of every launch that has teams to create (06 R147, 19 R345). (DEDUCED, log 53) -/
def State.queueTeams (s : State) : State :=
  s.launches.foldl (fun (s : State) l =>
    if l.2.status ≠ 0 || l.2.teams ≤ l.2.created || s.teamQueued l.1 then s
    else match s.chooseCluster l.1 l.2 with
      | none => s
      | some c =>
        let k := s.cluster c
        (s.setCluster c { k with runq := k.runq ++ [(l.2.cls, .team l.1 l.2.created (s.cltime c) false)] }).addWaves c l.1 l.2.created
          l.2.process (teamMembers l.2.roles).length) s

/-- LAUNCH_RECORD_ACCEPT (25 R417). (DEDUCED, log 53) -/
def execLaunchRecordAccept (cluster : Nat) (s : State) : Done :=
  match s.handed.find? (fun h => h.1 = cluster) with
  | none => .next s
  | some (_, q) =>
    let bytes := match q.bytes with
      | some b => some b
      | none => match s.readVirtual (s.processAsker q.process cluster) q.recAddr.toNat 128 with
        | .ok b => some b
        | .error _ => none
    let r := LaunchRecord.ofBytes (bytes.getD [])
    let l := match bytes.bind (fun _ => s.checkLaunch r q cluster s.serial) with
      | some l => l
      | none => { (if bytes.isSome then r.launch q s.serial else { r.launch q s.serial with doneAddr := 0, irq := false }) with status := 3 }
    .next ({ s with
      handed := s.handed.erase (cluster, q)
      launches := Store.insert s.launches s.serial l
      serial := s.serial + 1 }.queueTeams)

/-- Age of an entry: its launch's acceptance, or its wave's creation (19 R345). -/
def State.entryAge (s : State) : RunEntry → Nat
  | .team l t _ _ => ((Store.find? s.launches l).map (·.accepted)).getD 0 * 2 ^ 24 + t
  | .parked c i => ((Store.find? (s.core c).parked i).map (fun p => p.wave.created)).getD 0 * 2 ^ 24

/-- Teams of a cluster's lists in the order the controller tries them: by class, then by age. -/
def State.teamOrder (s : State) (cluster : Nat) : List (Nat × Nat × Nat × Bool) :=
  let ts := (s.cluster cluster).runq.filterMap (fun e => match e.2 with
    | .team l t _ b => some (e.1, l, t, b, s.entryAge e.2)
    | _ => none)
  (sortBy (fun a b => a.1 < b.1 || (a.1 = b.1 && a.2.2.2.2 ≤ b.2.2.2.2)) ts).map (fun t => (t.1, t.2.1, t.2.2.1, t.2.2.2.1))

/-- A core is kept for an older team that has waited long (25 R423). -/
def State.keptFor (s : State) (older : List (Nat × Nat × Nat × Bool)) (core : Nat) : Bool :=
  older.any (fun e => e.2.2.2 && ((Store.find? s.launches e.2.1).map (fun l => l.permits core)).getD false)

/-- The entry may be placed at a core, given those before it. -/
def State.placeable (s : State) (older : List (Nat × Nat × Nat × Bool)) (e : Nat × Nat × Nat × Bool) (core : Nat) : Bool :=
  match Store.find? s.launches e.2.1 with
  | none => false
  | some l => s.fitsAt e.2.1 l core && (l.coresAt core).all (fun c => !s.keptFor older c.1)

/-- The first team that can be placed. -/
def State.firstTeam (s : State) (cluster : Nat) : Option (Nat × Nat × Nat × Bool) :=
  let es := s.teamOrder cluster
  (es.zipIdx.find? (fun e => (clusterCores cluster).any (s.placeable (es.take e.2) e.1))).map (·.1)

/-- An entry of the lists comes before another: by class, then by age. -/
def State.entryBefore (s : State) (a b : Nat × RunEntry) : Bool :=
  a.1 < b.1 || (a.1 = b.1 && s.entryAge a.2 < s.entryAge b.2)

/-- A parked wave that can start again comes before this entry. -/
def State.parkedBefore (s : State) (cluster : Nat) (e : Nat × RunEntry) : Bool :=
  (s.cluster cluster).runq.any (fun f => match f.2 with
    | .parked c i => s.entryBefore f e && s.canRestart c i
    | _ => false)

def teamEntry (t : Nat × Nat × Nat × Bool) : Nat × RunEntry := (t.1, .team t.2.1 t.2.2.1 0 t.2.2.2)

/-- The team the controller places next: teams and parked waves have one order (19 R345, 25 R423). (DEDUCED, log 53) -/
def State.nextTeam (s : State) (cluster : Nat) : Option (Nat × Nat × Nat × Bool) :=
  (s.firstTeam cluster).filter (fun t => !s.parkedBefore cluster (teamEntry t))

/-- A wave as it is created (06 R141). -/
def Launch.wave (l : Launch) (team : Nat) (m : Member1) (base created resv : Nat) : Wave :=
  { process := l.process, team, index := m.index, role := m.role, roleIndex := m.roleIndex, width := l.width, allot := m.r.allot
    base, prio := BitVec.ofNat 2 l.cls, slices := freshSlices (l.width / 4) m.r.entry
    gangs := [{ slices := List.range (l.width / 4), age := created }], created, resv
    code := l.code, lastSeg := l.segs, liveTab := l.liveTab, lastLive := l.lives }

/-- Create the waves of one core. -/
def State.createWaves (s : State) (core cluster : Nat) (l : Launch) (team created : Nat) (ms : List (Member1 × Nat)) : State :=
  match (s.core core).allocFor l (ms.map (·.1)) with
  | none => s
  | some bases => (ms.zip bases).foldl (fun (s : State) m =>
      s.setWave core m.1.2 (l.wave team m.1.1 m.2 created (s.launchNeed l cluster m.1.1.r.allot))) s

/-- Slots are free on their cores and no two the same. -/
def State.slotsOk (s : State) (l : Launch) (core : Nat) (slots : List Nat) : Bool :=
  let ms := teamMembers l.roles
  slots.length = ms.length && (l.coresAt core).all (fun c =>
    let on := ((ms.zip slots).filter (fun m => !l.pair || (m.1.index % 2 = 1) == c.2)).map (·.2)
    on.all (s.core c.1).slotFree && on.eraseDups.length = on.length)

/-- Segments of an image that a core does not hold and that a fetch can bring now: a fetch that faults leaves the segment to its
trap 0x05 (12 R245). -/
def State.segmentsDue (s : State) (core : Nat) (x : Wave) (segs : List (BitVec 12)) : List (BitVec 12) :=
  (segs.eraseDups).filter (fun seg => !(s.core core).hasSegment x.image seg && seg.toNat ≤ x.lastSeg
    && (((s.core core).segment? x.image seg).isSome
      || (match s.readVirtual { s.asker x core false with fetch := true } ((x.code.toNat + 4096 * seg.toNat) % 2 ^ 64) 4096 with
        | .ok _ => true
        | .error _ => false)))

/-- Start what fetches are not running. -/
def State.fetchAll (s : State) (core : Nat) (x : Wave) (segs : List (BitVec 12)) : State :=
  segs.foldl (fun (s : State) seg => s.startFetch core x seg) s

/-- The entry segments of a launch's roles that a core has still to fetch before a team's waves issue there (12 R245). -/
def State.entriesDue (s : State) (l : Launch) (core : Nat) (second : Bool) : List (BitVec 12) :=
  match membersOn l.pair (teamMembers l.roles) second with
  | [] => []
  | m :: ms => s.segmentsDue core (l.wave 0 m 0 0 0) ((m :: ms).map (fun m => m.r.entry.seg))

/-- The L1 copies of a new team's cores go: the controller's acquire at .SY of its launch record comes before every instruction
of it (13 R268). -/
def State.acquireLaunch (s : State) (id : Nat) (l : Launch) (core : Nat) : State :=
  let s := s.acquireIn { core, tag := 0 } true
  if l.fused then s.acquireIn { core := core / 32 * 32, tag := id + 1 } true else s

/-- TEAM_PLACEMENT (06 R146, 25 R423): which of the cores and slots that qualify is free.  The entry segments are fetched first, so
that no wave of the team issues before they stand there (12 R245). -/
def execTeamPlacement (cluster core : Nat) (slots : List Nat) (s : State) : Done :=
  match s.nextTeam cluster with
  | none => .next s
  | some e =>
    match Store.find? s.launches e.2.1 with
    | none => .next s
    | some l =>
      let es := s.teamOrder cluster
      let ms := teamMembers l.roles
      let half := halfScratch l.pair l.scratch
      if core / 32 = cluster && s.placeable (es.takeWhile (fun f => f ≠ e)) e core && s.slotsOk l core slots then
        if (l.coresAt core).any (fun c => !(s.entriesDue l c.1 c.2).isEmpty) then
          .next ((l.coresAt core).foldl (fun (s : State) c => match membersOn l.pair ms c.2 with
            | [] => s
            | m :: _ => s.fetchAll c.1 (l.wave 0 m 0 0 0) (s.entriesDue l c.1 c.2)) s)
        else
        let id := s.serial
        let base := fun (c : Nat) => (scratchFit (s.scratchTaken c) half).getD 0
        let team : Team := { launch := e.2.1, teamid := e.2.2.1, core, pair := l.pair, base := base core
                             base2 := if l.pair then base (core + 1) else 0, size := half, members := ms.length }
        let s := { s with
          serial := s.serial + 1
          teams := Store.insert s.teams id team
          launches := Store.insert s.launches e.2.1 { l with created := l.created + 1 } }
        let s := (l.coresAt core).foldl (fun (s : State) c =>
          let s := (s.acquireLaunch e.2.1 l c.1).createWaves c.1 cluster l id id ((ms.zip slots).filter (fun m => !l.pair || (m.1.index % 2 = 1) == c.2))
          s.setCore c.1 { s.core c.1 with compacting := none }) s
        let k := s.cluster cluster
        let s := s.setCluster cluster { k with runq := k.runq.filter (fun r => match r.2 with
          | .team x _ _ _ => x ≠ e.2.1
          | _ => true) }
        .next s.queueTeams
      else .next s

/-- PLACEMENT_AGE_BLOCK (25 R423): a team has waited 100 µs. -/
def execPlacementAgeBlock (cluster : Nat) (s : State) : Done :=
  let k := s.cluster cluster
  .next (s.setCluster cluster { k with runq := k.runq.map (fun e => match e.2 with
    | .team l t since _ => if 100000 ≤ s.cltime cluster - since then (e.1, .team l t since true) else e
    | _ => e) })

/-! ### Victims (09 R190) -/

/-- The order in which victims are taken: class 3 first, then the youngest, then the higher slot. -/
def victimBefore (a b : Nat × Wave) : Bool :=
  b.2.prio.toNat < a.2.prio.toNat || (a.2.prio = b.2.prio && (b.2.created < a.2.created || (a.2.created = b.2.created && b.1 < a.1)))

/-- Waves a class may drop on a core, in order; one with an edge begun keeps its place and is dropped when that is over. -/
def State.victims (s : State) (core cls : Nat) : List (Nat × Wave) :=
  sortBy victimBefore ((s.core core).waves.filter (fun w => cls < w.2.prio.toNat && !w.2.supervisor))

/-- On this core a team of the launch wants slots or units, and dropping waves of less urgent classes would supply them. -/
def State.wantsVictim (s : State) (l : Launch) (core : Nat) (second : Bool) : Bool :=
  let k := s.core core
  let ms := membersOn l.pair (teamMembers l.roles) second
  let units := (ms.map (fun m => m.units l.width)).sum
  let vs := s.victims core l.cls
  s.roomBut l core ms && (k.freeSlots < ms.length || k.freeUnits < units)
    && ms.length ≤ k.freeSlots + vs.length && units ≤ k.freeUnits + (vs.map (fun v => blockUnits v.2.width v.2.allot)).sum

/-- A part of a team either fits on its core, or can be made to. (DEDUCED, log 53) -/
def State.canSupply (s : State) (l : Launch) (core : Nat) (second : Bool) : Bool :=
  let ms := membersOn l.pair (teamMembers l.roles) second
  let k := s.core core
  s.wantsVictim l core second || (s.roomBut l core ms && ms.length ≤ k.freeSlots && (ms.map (fun m => m.units l.width)).sum ≤ k.freeUnits)

/-- A wave is the next victim of a team that no core of its cluster can take, and dropping such waves supplies what is wanted. -/
def State.isVictim (s : State) (core slot : Nat) : Bool :=
  (s.teamOrder (core / 32)).any (fun e => match Store.find? s.launches e.2.1 with
    | none => false
    | some l =>
      let first := if l.pair then core / 2 * 2 else core
      !s.fitsCluster e.2.1 l (core / 32) && s.permitted e.2.1 l first
        && (l.coresAt first).all (fun c => s.canSupply l c.1 c.2)
        && s.wantsVictim l core (l.pair && core % 2 = 1) && ((s.victims core l.cls).head?.map (·.1)) = some slot)

/-- A team wants scratch or park-store room at a core: this too requests a pre-emption (09 R190).  A parked wave keeps both, so the
package drops no wave for it of its own accord, and a scheduled drop may. (DESIGN CHOICE, log 79) -/
def State.wantsKept (s : State) (core slot : Nat) : Bool :=
  (s.teamOrder (core / 32)).any (fun e => match Store.find? s.launches e.2.1 with
    | none => false
    | some l =>
      let first := if l.pair then core / 2 * 2 else core
      !(s.core core).placementStopped && s.permitted e.2.1 l first && !s.fitsCluster e.2.1 l (core / 32)
        && !s.roomBut l core (membersOn l.pair (teamMembers l.roles) (l.pair && core % 2 = 1))
        && ((s.victims core l.cls).head?.map (·.1)) = some slot)

/-- WAVE_DROP (09 R190, R191): placement drops a victim. -/
def execWaveDrop (core slot : Nat) (s : State) : Done :=
  if s.canDrop core slot && (s.isVictim core slot || s.wantsKept core slot) then
    let s := s.dropWave core slot
    .next (s.setCore core { s.core core with compacting := none })
  else .next s

/-! ### Compaction (07 R157, R158) -/

/-- The first size of a list of requests for which no block can be formed. -/
def missingSize (used : List (Nat × Nat)) : List Nat → Option Nat
  | [] => none
  | n :: ns =>
    match allocBlock used n with
    | none => some n
    | some a => missingSize ((a, n) :: used) ns

/-- Everything but its register blocks is free for a part of a team on its core, and units enough (07 R157). -/
def State.blocksAlone (s : State) (l : Launch) (core : Nat) (second : Bool) : Bool :=
  let ms := membersOn l.pair (teamMembers l.roles) second
  let k := s.core core
  s.roomBut l core ms && ms.length ≤ k.freeSlots && (ms.map (fun m => m.units l.width)).sum ≤ k.freeUnits

/-- The block size a waiting team wants on a core, when blocks alone are wanting on each of its cores. -/
def State.compactSize (s : State) (core : Nat) : Option Nat :=
  (s.teamOrder (core / 32)).findSome? (fun e => match Store.find? s.launches e.2.1 with
    | none => none
    | some l =>
      let first := if l.pair then core / 2 * 2 else core
      let ms := membersOn l.pair (teamMembers l.roles) (l.pair && core % 2 = 1)
      if !s.fitsCluster e.2.1 l (core / 32) && s.permitted e.2.1 l first && (l.coresAt first).all (fun c => s.blocksAlone l c.1 c.2) then
        missingSize (s.core core).blocks (ms.map (fun m => m.units l.width))
      else none)

/-- The waves that stand in the block of size b at a. -/
def Core.occupants (k : Core) (a b : Nat) : List (Nat × Wave) :=
  k.waves.filter (fun w => !w.2.supervisor && w.2.base < a + b && a < w.2.base + blockUnits w.2.width w.2.allot)

/-- A wave may be moved: not of class 0, and no range shared with a wave outside the candidate. -/
def Core.movable (k : Core) (inside : List Nat) (w : Nat × Wave) : Bool :=
  w.2.prio ≠ 0 && k.shared.all (fun h => (h.slotA ≠ w.1 && h.slotB ≠ w.1) || (inside.contains h.slotA && inside.contains h.slotB))

/-- The free block of a size outside a candidate block that the allocator would hand out (07 R154, R158). -/
def placeOutside (used : List (Nat × Nat)) (a b n : Nat) : Option Nat := allocBlock ((a, b) :: used) n

/-- Blocks of size b that are free. -/
def freeBlocks (used : List (Nat × Nat)) (b : Nat) : Nat :=
  (((List.range (poolUnits / b)).map (· * b)).filter (fun a => blockFree used a b)).length

/-- The blocks in use once every occupant has been moved out; none when one cannot be. -/
def movesOut (a b : Nat) : List (Nat × Nat) → List (Nat × Wave) → Option (List (Nat × Nat))
  | used, [] => some used
  | used, w :: ws =>
    let n := blockUnits w.2.width w.2.allot
    match placeOutside used a b n with
    | none => none
    | some p => movesOut a b ((p, n) :: used.erase (w.2.base, n)) ws

/-- The candidate block: the lowest-addressed one beyond those that have failed, whose occupants can all be moved out, so that
one more block of its size is free. (DEDUCED, log 53) -/
def Core.candidate (k : Core) (b : Nat) : Option Nat :=
  ((List.range (poolUnits / b)).map (· * b)).find? (fun a =>
    k.compacting.all (· < a) &&
      (let occ := k.occupants a b
       occ.all (k.movable (occ.map (·.1))) && ((movesOut a b k.blocks occ).map (fun u =>
         decide (freeBlocks k.blocks b < freeBlocks u b))).getD false))

/-- The wave holds no count and awaits no register. -/
def Wave.quiet (x : Wave) : Bool := x.counters.all (fun c => c.2 = 0) && x.slices.all (fun sl => sl.2.out.isEmpty)

/-- COMPACTION_COPY (07 R158): the engine holds the occupants of the candidate block in turn, each once none other is held, and when
it is quiet copies its block and lets it go; a held wave that need no longer move is let go. -/
def execCompactionCopy (core slot : Nat) (s : State) : Done :=
  let k := s.core core
  let found := (s.compactSize core).bind (fun b => (k.candidate b).map (fun a => (a, b)))
  match s.wave? core slot with
  | none => .next s
  | some x =>
    match found with
    | none => .next (s.setWave core slot { x with hold := none })
    | some (a, b) =>
      if !((k.occupants a b).any (fun w => w.1 = slot)) then .next (s.setWave core slot { x with hold := none })
      else if x.quiet && k.waves.all (fun w => w.1 = slot || w.2.hold.isNone) then
        match placeOutside k.blocks a b (blockUnits x.width x.allot) with
        | some p => .next ((s.setWave core slot { x with base := p, hold := none }).bump (core / 32) 11 1)
        | none => .next s
      else if k.waves.any (fun w => w.1 ≠ slot && w.2.hold.isSome) then .next s
      else .next (s.setWave core slot { x with hold := some (x.hold.getD s.cycles) })

/-- COMPACTION_HOLD_TIMEOUT (07 R158): released unmoved, and the next candidate is tried. -/
def execCompactionHoldTimeout (core slot : Nat) (s : State) : Done :=
  match s.wave? core slot with
  | none => .next s
  | some x =>
    match x.hold with
    | none => .next s
    | some t =>
      if 2048 ≤ s.cycles - t && !x.quiet then
        let k := s.core core
        let s := s.setWave core slot { x with hold := none }
        match (s.compactSize core).bind (fun b => k.candidate b) with
        | some a => .next (s.setCore core { s.core core with compacting := some a })
        | none => .next s
      else .next s

/-! ### Restart (09 R196, 25 R423) -/

/-- On this core, waves are being dropped or moved for a team of a more urgent class. -/
def State.supplying (s : State) (core cls : Nat) : Bool :=
  (s.teamOrder (core / 32)).any (fun e => match Store.find? s.launches e.2.1 with
    | none => false
    | some l =>
      let first := if l.pair then core / 2 * 2 else core
      e.1 < cls && !s.fitsCluster e.2.1 l (core / 32) && s.permitted e.2.1 l first && (l.coresAt first).all (fun c => s.canSupply l c.1 c.2)
        && ((l.coresAt first).any (fun c => s.wantsVictim l c.1 c.2) || ((s.compactSize core).bind (s.core core).candidate).isSome))

/-- No entry before this parked wave can be placed, and room is not being made for a team of a more urgent class.
(DEDUCED, log 53) -/
def State.restartTurn (s : State) (core entry : Nat) : Bool :=
  let cluster := core / 32
  ((s.cluster cluster).runq.filter (fun e => e.2 = .parked core entry)).all (fun e =>
    !s.parkedBefore cluster e && (s.firstTeam cluster).all (fun t => !s.entryBefore (teamEntry t) e) && !s.supplying core e.1)

/-- WAVE_RESTART (09 R196): into a free slot and a new block, once its slices' restart segments have been fetched (12 R245). -/
def execWaveRestart (core entry slot : Nat) (s : State) : Done :=
  let k := s.core core
  match Store.find? k.parked entry with
  | none => .next s
  | some p =>
    let due := s.segmentsDue core p.wave ((p.wave.slices.values.filter (fun sl => !sl.ended)).map (fun sl => sl.pc.seg))
    if !(k.slotFree slot && s.parkedReady core p && s.restartTurn core entry) then .next s
    else if !due.isEmpty then .next (s.fetchAll core p.wave due)
    else
      match allocBlock k.blocks (blockUnits p.wave.width p.wave.allot) with
      | none => .next s
      | some base =>
        let x : Wave := { p.wave with base, resv := if p.wave.prio = 0 then 0 else p.wave.resv }
        let k := { k with waves := Store.insert k.waves slot { x with gangs := x.restartGangs }, parked := Store.erase k.parked entry }
        let s := (s.setCore core (k.renameShared (parkedSlot entry) slot)).bump (core / 32) 10 1
        let cl := s.cluster (core / 32)
        .next (s.setCluster (core / 32) { cl with runq := cl.runq.filter (fun e => e.2 ≠ .parked core entry) })

/-! ### The end of waves, teams and launches (06 R150, R151) -/

/-- A wave may retire: its slices have ended, its counters are 0 and its queues are drained (02 R76, 06 R150), and its slot's tag
generation may advance (09 R192). (DEDUCED, log 52) -/
def State.canRetire (s : State) (core slot : Nat) : Bool :=
  match s.wave? core slot with
  | none => false
  | some x =>
    !x.supervisor && x.slices.all (fun sl => sl.2.ended) && x.counters.all (fun c => c.2 = 0)
      && x.queues.keys.all (fun q => x.queueDrained q && !s.queueStoring core slot (s.gen core slot) q) && s.genFree core slot

/-- Zero a range of a core's scratch. -/
def State.zeroScratch (s : State) (core base n : Nat) : State :=
  s.setCore core { s.core core with scratch := (s.core core).scratch.filter (fun c => c.1 < base || base + n ≤ c.1) }

/-! ### Records of teams and samples (26 R439, 28 R465, R468) -/

/-- A sample as records hold it. -/
def Sample.bytes (x : Sample) : List Byte :=
  leBytes 4 x.cycle ++ leBytes 4 (x.reason * 2 ^ 28 + x.waiting.bits.toNat) ++ leBytes 4 x.producer.bits.toNat ++ leBytes 4 x.rtop.toNat

/-- A sample record of a wave. -/
def sampleRecord (wave teamid : Nat) (tag : W32) (xs : List Sample) : List Byte :=
  leBytes 4 (3 * 2 ^ 24 + xs.length * 2 ^ 16) ++ leBytes 4 wave ++ leBytes 4 teamid ++ leBytes 4 tag.toNat
    ++ (xs.flatMap Sample.bytes ++ List.replicate 112 0).take 112

/-- Sample records for samples of one wave, seven to a record. -/
def sampleRecords (wave teamid : Nat) (tag : W32) (xs : List Sample) : List (List Byte) :=
  (List.range ((xs.length + 6) / 7)).map (fun i => sampleRecord wave teamid tag ((xs.drop (7 * i)).take 7))

/-- The team's first two samples: by window cycle, then by slot. -/
def Team.chosen (t : Team) : List (Nat × Sample) :=
  (sortBy (fun a b => a.2.cycle < b.2.cycle || (a.2.cycle = b.2.cycle && a.1 % 64 ≤ b.1 % 64)) t.held).take 2

/-- The team record. (DEDUCED, log 43) -/
def Team.record (t : Team) (tag : W32) : List Byte :=
  let xs := t.chosen.map (·.2)
  leBytes 4 (2 ^ 24 + xs.length * 2 ^ 16) ++ leBytes 4 t.lead ++ leBytes 4 t.teamid ++ leBytes 4 tag.toNat
    ++ leBytes 4 t.sum.span ++ leBytes 4 t.sum.issued ++ leBytes 4 t.sum.endTop.toNat ++ leBytes 4 0
    ++ (List.range 16).flatMap (fun k => leBytes 4 (Store.get t.sum.stalls 0 k)) ++ (xs.flatMap Sample.bytes ++ List.replicate 32 0).take 32

/-- TEAM_RECORD_WRITE: at the team's end its cluster begins the sample records of what was held back, then the team record,
if the team's first issue found sampling on. -/
def State.teamRecords (s : State) (t : Team) : State :=
  let tag := ((Store.find? s.launches t.launch).map (·.tag)).getD 0
  let cl := t.core / 32
  let taken := if t.sum.recorded then t.chosen else []
  let rest := t.held.filter (fun x => !taken.contains x)
  let waves := (rest.map (·.1)).eraseDups
  let s := waves.foldl (fun (s : State) w =>
    (sampleRecords w t.teamid tag ((rest.filter (fun x => x.1 = w)).map (·.2))).foldl (fun (s : State) b => s.beginRecord cl b) s) s
  if t.sum.recorded then s.beginRecord cl (t.record tag) else s

/-- A team ends: its records are written, its scratch and barriers are freed and zeroed; the launch ends with its last team. -/
def State.endTeam (s : State) (id : Nat) (t : Team) : State :=
  let s := s.teamRecords t
  let s := s.zeroScratch t.core t.base t.size
  let s := if t.pair then s.zeroScratch (t.core + 1) t.base2 t.size else s
  let s := { s with teams := Store.erase s.teams id }
  { s with launches := Store.update s.launches t.launch (fun l =>
      let l := { l with ended := l.ended + 1 }
      if l.ended = l.teams then { l with status := if l.faults then 2 else 1 } else l) }

/-- The sum of a team's and a wave's counts. -/
def Count.plus (t x : Count) : Count :=
  { t with span := t.span + x.span, issued := t.issued + x.issued
           stalls := (List.range 16).foldl (fun m k => Store.set m 0 k (Store.get t.stalls 0 k + Store.get x.stalls 0 k)) [] }

/-- The team has lost a wave, and ends with its last unless a ring holds it. -/
def State.leaveTeam (s : State) (id wave : Nat) (x : Wave) : State :=
  match Store.find? s.teams id with
  | none => s
  | some t =>
    let t := { t with retired := t.retired + 1, sum := t.sum.plus x.count, held := t.held ++ x.count.held.map (fun m => (wave, m))
                      lead := if x.index = 0 then wave else t.lead }
    let s := { s with teams := Store.insert s.teams id t }
    if t.retired = t.members && t.pins = 0 then s.endTeam id t else s

/-- LAUNCH_COMPLETION_REPORT's writes: the word as a release, then the event (25 R418). -/
def State.reportLaunch (s : State) (l : Launch) : State :=
  let s := s.drainReplicas
  let s := if l.doneAddr = 0 then s
    else match s.writeVirtual (s.processAsker l.process 0) l.doneAddr.toNat (leBytes 8 (l.tag.toNat * 2 ^ 32 + l.status)) with
      | .ok s => s.drainReplicas
      | .error _ => s
  if l.irq && s.vectorOk l.process l.vector then s.countEvent l.vector false else s

/-- LAUNCH_COMPLETION_REPORT (25 R418).  The launch stays, with its fault log (05 R132, 18 R336). (DESIGN CHOICE, log 81) -/
def execLaunchCompletionReport (launch : Nat) (s : State) : Done :=
  match Store.find? s.launches launch with
  | none => .next s
  | some l =>
    if l.status = 0 || l.reported then .next s
    else
      let s := s.reportLaunch l
      .next { s with launches := Store.insert s.launches launch { l with reported := true } }

end Sys2Proof.Machine
end

