-- ==== Sys2Proof/Machine/Kernel.lean ====
section
/-!
DEFINITION. The kernel object unit (chapters 17 and 19): handles and rights, objects and their ends, the table entries that
grants move, ports and messages, wait sets, timers, names, graphs, and the launch and hint instructions.
-/

namespace Sys2Proof.Machine

/-! ### Handles (17 R306, R307, 19 R341) -/

def handleSlot (h : W32) : Nat := h.toNat % 2 ^ 24
def handleValue (slot : Nat) (e : HandleSlot) : W32 := e.gen ++ BitVec.ofNat 24 slot

/-- The slot a handle names, unless the handle is stale. -/
def Process.handle? (p : Process) (h : W32) : Option HandleSlot :=
  (Store.find? p.table (handleSlot h)).filter (fun e => e.used && handleSlot h < p.tableSize && e.gen = h.extractLsb' 24 8)

def rightSend : BitVec 7 := 1
def rightReceive : BitVec 7 := 2
def rightWait : BitVec 7 := 4
def rightArm : BitVec 7 := 8
def rightGrant : BitVec 7 := 16
def rightDuplicate : BitVec 7 := 32
def rightClose : BitVec 7 := 64

/-- The type field of an object (17 R317, 21 R375). -/
def bodyType : ObjBody → Nat
  | .process _ => 0 | .port _ | .control => 2 | .waitSet _ _ => 3 | .timer _ => 4 | .graph _ => 5 | .remotePort _ _ => 6 | .ring _ => 7 | .wave _ _ _ => 1

def anyType : List Nat := [0, 1, 2, 3, 4, 5, 6, 7]

/-- Step 7 of 09 R178 for one handle: the object's index and the slot, or 0x30 or 0x31. -/
def State.checkHandle (s : State) (process : Nat) (h : W32) (types : List Nat) (need : BitVec 7) : Except Byte (Nat × HandleSlot) :=
  match (s.process? process).bind (fun p => p.handle? h) with
  | none => .error 0x30
  | some e =>
    match s.obj? e.index with
    | none => .error 0x30
    | some o => if types.contains (bodyType o.body) && need &&& e.rights = need then .ok (e.index, e) else .error 0x31

def State.body? (s : State) (i : Nat) : Option ObjBody := match s.obj? i with
  | some o => some o.body
  | none => none

/-- The object a handle names. -/
def State.handleObj (s : State) (process : Nat) (h : W32) : Option Nat :=
  ((s.process? process).bind (fun p => p.handle? h)).map (·.index)

/-- The handles of an instruction in field order, with the types and rights they need (17 R314, 21 R375). -/
def opHandles : KernelOp → List (W32 × List Nat × BitVec 7)
  | .psend h _ _ | .pnote h _ => [(h, [2, 6], rightSend)]
  | .precv desc _ _ => [(desc.headD 0, [2], rightReceive)]
  | .wsadd h desc _ .handle => [(h, [3], rightArm), (desc.headD 0, [2, 4, 6], rightWait)]
  | .wsadd h _ _ _ | .wsdel h _ => [(h, [3], rightArm)]
  | .wswait h _ _ _ => [(h, [3], rightWait)]
  | .tarm h _ _ | .tcan h => [(h, [4], rightArm)]
  | .oclose h => [(h, anyType, rightClose)]
  | .odup h _ => [(h, anyType, rightDuplicate)]
  | .nsbind _ (some h) => [(h, [2], rightSend ||| rightDuplicate)]
  | .glaunch h | .gcond h _ _ _ => [(h, [5], rightArm)]
  | .oinfo h _ => [(h, anyType, 0)]
  | .rotjoin h _ _ | .aearm h _ _ | .rotend h _ => [(h, [7], rightArm)]
  | .aewait h _ _ _ => [(h, [7], rightWait)]
  | .wcreate _ _ | .nslook _ | .nsbind _ none | .hint _ _ | .launch _ | .rotarm _ => []

/-- The first handle that fails its check. -/
def State.handleTrap (s : State) (process : Nat) (op : KernelOp) : Option Trap :=
  (opHandles op).findSome? (fun h => match s.checkHandle process h.1 h.2.1 h.2.2 with
    | .error code => some { code, lanes := 0, aux := h.1 }
    | .ok _ => none)

/-! ### Records for the supervisor (19 R342) -/

/-- A record of kind 5, at most one outstanding for each reason and process. -/
def State.raiseKernel (s : State) (core process reason : Nat) : State :=
  match s.process? process with
  | none => s
  | some p =>
    if p.raised.contains reason then s
    else (s.modProcess process (fun p => { p with raised := p.raised ++ [reason] })).sendRecord core
      { kind := 5, cls := 1, proc := BitVec.ofNat 32 (s.objId process), aux := BitVec.ofNat 32 reason }

/-! ### Creating objects and handles (17 R315, R316, 19 R338, R342) -/

def State.dieCount (s : State) (die : Nat) : Nat := (s.objects.filter (fun o => o.1 / dieObjects = die)).length

/-- The lowest free slot above 0. -/
def Process.freeSlot (p : Process) : Option Nat :=
  ((List.range (p.table.length + 1)).map (· + 1)).find? (fun i =>
    i < p.tableSize && !((Store.find? p.table i).map (·.used)).getD false)

/-- Write a handle to an object into the process's table. -/
def State.putHandle (s : State) (process slot obj : Nat) (rights : BitVec 7) : W32 × State :=
  let gen := ((s.process? process).bind (fun p => Store.find? p.table slot)).map (·.gen)
  let e : HandleSlot := { used := true, rights, gen := gen.getD 0, index := obj }
  let s := s.modProcess process (fun p => { p with table := Store.insert p.table slot e })
  (handleValue slot e, match s.obj? obj with
    | some o => s.setObj obj { o with refs := o.refs + 1 }
    | none => s)

/-- A new handle, or the record that the table is full. -/
def State.newHandle (s : State) (core process obj : Nat) (rights : BitVec 7) : Except State (W32 × State) :=
  match (s.process? process).bind (fun p => p.freeSlot) with
  | none => .error (s.raiseKernel core process 1)
  | some slot => .ok (s.putHandle process slot obj rights)

/-- A new object with a handle to it, or no room. -/
def State.create (s : State) (core process : Nat) (body : ObjBody) (rights : BitVec 7) : Except State (W32 × State) :=
  match s.freeObj core, (s.process? process).bind (fun p => p.freeSlot) with
  | none, _ => .error s
  | _, none => .error (s.raiseKernel core process 1)
  | some i, some slot =>
    let (h, s) := (s.setObj i { body, refs := 0, owner := s.objId process }).putHandle process slot i rights
    .ok (h, if dieObjects - s.dieCount (pegDie core) < 4096 then s.raiseKernel core process 2 else s)

/-! ### Table entries that grants move (17 R319 to R321, 12 R232, R233) -/

def grantSize (size : Nat) : Nat := [4096, 65536, 2 ^ 21, 2 ^ 30].getD size 4096
def grantLevel (size : Nat) : Nat := [0, 0, 1, 2].getD size 0

/-- Down n tables: the entry that maps va there, when every table above it is in state 01. -/
def descend (s : State) (va : Nat) : Nat → Nat → Nat → Option Nat
  | 0, level, table => some (table + 8 * levelIndex va level)
  | n + 1, level, table =>
    let e := word64At s .hbm (table + 8 * levelIndex va level)
    if pteState e = 1 && !pteReserved e level && pteTarget e = 0 then descend s va n (level - 1) (pteFrame e) else none

/-- The entries of a page of this size: sixteen for 64 KiB. -/
def State.leafAddrs (s : State) (process va size : Nat) : Option (List Nat) :=
  (descend s va (4 - grantLevel size) 4 (s.rootOf process va)).map (fun a =>
    if size = 1 then (List.range 16).map (fun i => a / 128 * 128 + 8 * i) else [a])

def State.setLeaf (s : State) (a : Nat) (e : W64) : State := s.homePut .hbm a (leBytes 8 e.toNat) false

/-- Change the state field of every entry of a page. -/
def State.setLeafState (s : State) (process va size state : Nat) : State :=
  match s.leafAddrs process va size with
  | none => s
  | some as => as.foldl (fun (s : State) a =>
      let e := word64At s .hbm a
      s.setLeaf a (BitVec.ofNat 64 (e.toNat - pteState e * 1024 + state * 1024))) s

end Sys2Proof.Machine

namespace Sys2Proof

open Machine

/-- The chip whose memory holds a granted frame. -/
def Grant.owner (g : Grant) : Nat := if pteTarget g.leaf = 3 then ptePeer g.leaf else g.chip
/-- The receiver's mapping has W. -/
def Grant.writable (g : Grant) : Bool := g.offered && pteW g.leaf
def Grant.frame (g : Grant) : Nat := pteFrame g.leaf / grantSize g.size * grantSize g.size

/-- The receiver's entry i of a grant. -/
def Grant.newLeaf (g : Grant) (chip i : Nat) : W64 :=
  let target := if pteTarget g.leaf = 1 then 1 else if g.owner = chip then 0 else 3
  BitVec.ofNat 64 (target * 2 ^ 60 + (if target = 3 then g.owner * 2 ^ 56 else 0) + g.frame + 4096 * i + 2 * 2 ^ 10
    + (if g.size = 1 then 2 ^ 9 else 0) + (if g.writable then 2 ^ 5 else 0) + 2 ^ 4)

/-- The entry that O's access table holds for a holder on another chip (19 R353, 20 R367). -/
def Grant.entry (g : Grant) (chip process : Nat) (write : Bool) : AccessEntry :=
  { kind := 1, srcchip := chip, anyproc := false, write, read := true, srcproc := process, base := g.frame / 4096
    pages := grantSize g.size / 4096 - 1 }

/-- The frame lies on a chip other than this one. -/
def Grant.away (g : Grant) (chip : Nat) : Bool := g.owner ≠ chip && pteTarget g.leaf ≠ 1

end Sys2Proof

namespace Sys2Proof.Machine

/-- A discarded grant's page goes back to its sender: state 11 becomes 10 (17 R316). -/
def State.giveBack (s : State) (g : Grant) : State :=
  if g.chip = s.chip then
    match s.leafAddrs g.process g.page.toNat g.size with
    | some (a :: _) => if pteState (word64At s .hbm a) = 3 then s.setLeafState g.process g.page.toNat g.size 2 else s
    | _ => s
  else s.sendPacket g.chip 0 none 0 (.giveBack g)

/-! ### Questions to peers (19 R354, 20 R364, R371) -/

/-- Put requests to peers as the parts of one access that counts on no path. -/
def State.askPeers (s : State) (core process : Nat) (asks : List (Nat × Nat × PacketBody)) : Nat × State :=
  let id := s.serial
  let parts : List Part := asks.map (fun q => 
    { lane := 0, place := .peer q.1, size := 0, addr := (match q.2.2 with | .reserve port _ _ => port | _ => 0) })
  let s := s.launchAccess { core, slot := 64, slice := 0, gen := 0, pc := {}, word := 0, path := none, kind := .counted, parts
                            lanes := 0, process, secure := false }
  (id, asks.zipIdx.foldl (fun (s : State) q => s.sendPacket q.1.1 q.1.2.1 (some id) q.2 q.1.2.2) s)

/-- Every answer, once all have come. -/
def State.answers (s : State) (id : Nat) : Option (List PeerReply) :=
  match Store.find? s.inflight id with
  | none => some []
  | some a => if a.parts.all (fun p => p.got.isSome) then some (a.parts.filterMap (·.got)) else none

def PeerReply.failed : PeerReply → Bool
  | .error _ => true
  | _ => false

/-! ### Ports (19 R346, R347) -/

def State.port? (s : State) (i : Nat) : Option PortBody :=
  match s.obj? i with
  | some { body := .port p, .. } => some p
  | _ => none
def State.modPort (s : State) (i : Nat) (f : PortBody → PortBody) : State :=
  match s.obj? i with
  | some { body := .port p, refs, owner } => s.setObj i { body := .port (f p), refs, owner }
  | _ => s

def poolSize : Nat := 64 * 2 ^ 20
def State.poolUsed (s : State) (i : Nat) : Nat := Store.get s.pools 0 (i / dieObjects)
def State.addPool (s : State) (i : Nat) (n : Int) : State :=
  { s with pools := Store.set s.pools 0 (i / dieObjects) ((s.poolUsed i : Int) + n).toNat }

def State.portFull (s : State) (i : Nat) (p : PortBody) (plen : Nat) : Bool :=
  p.capacity ≤ p.queue.length || poolSize < s.poolUsed i + plen

/-- Handles to an object: in every process, used. -/
def State.handlesTo (s : State) (i : Nat) : List HandleSlot :=
  s.objects.flatMap (fun o => match o.2.body with
    | .process p => (p.table.map (·.2)).filter (fun e => e.used && e.index = i)
    | _ => [])

/-- A handle with send right to a port is left, here or on another chip. (DEDUCED, log 57) -/
def State.hasSender (s : State) (i : Nat) (p : PortBody) : Bool :=
  p.away || (s.handlesTo i).any (fun e => e.rights.getLsbD 0)
    || s.objects.any (fun o => match o.2.body with
      | .port q => q.queue.any (fun m => m.carried.reply = some (s.chip, i))
      | _ => false)

/-! ### The end of objects (17 R316, 19 R339) -/

/-- A message leaves a port without being received: its pages go back and its payload is freed. -/
def State.discardMessage (s : State) (i : Nat) (m : Message) : State :=
  (m.carried.grants.foldl (fun (s : State) g => s.giveBack g) s).addPool i (-m.plen)

/-- The processes of this chip whose pages a message carries: each queued grant is a reference to its sender's (19 R339). -/
def sendersIn (c : Carried) (chip : Nat) : List Nat := (c.grants.filter (fun g => g.chip = chip)).map (·.process)

/-- The local objects a queued message refers to: the one its reply names, and the senders of its grants. -/
def Message.refObjs (m : Message) (chip : Nat) : List Nat := (match m.carried.reply with
  | some (c, i) => if c = chip then [i] else []
  | none => []) ++ sendersIn m.carried chip

def memberObj : Member → List Nat
  | .port i _ _ | .timer i => [i]
  | _ => []

/-- The question to a peer on which a member's ready bit waits. -/
def memberAsk : Member → Option Nat
  | .port _ _ far | .monitor _ _ _ _ _ _ _ far => far.ask
  | _ => none

/-- Members leave their set. -/
def State.dropMembers (s : State) (ms : List (W32 × Member)) : State :=
  ms.foldl (fun (s : State) m => s.dropAsk (memberAsk m.2) 0) s

/-- The home chip of a name (20 R371). -/
def State.nameHome (s : State) (name : W64) : Nat :=
  let h := name.toNat
  ((h % 2 ^ 16) ^^^ (h / 2 ^ 16 % 2 ^ 16) ^^^ (h / 2 ^ 32 % 2 ^ 16) ^^^ (h / 2 ^ 48)) % s.cliqueSize

/-- An object's entry is freed: what goes with it, and the objects it referred to. -/
def State.destroy (s : State) (i : Nat) (o : Obj) : List Nat × State :=
  let gone := { s with objects := Store.erase s.objects i }
  match o.body with
  | .port p =>
    let ready := p.queue.filter (·.ready)
    let s := ready.foldl (fun (s : State) m => s.discardMessage i m) gone
    let s := { s with names := s.names.filter (fun n => !(n.2.1 = s.chip && n.2.2.1 = i)) }
    (ready.flatMap (fun m => m.refObjs s.chip),
     p.names.foldl (fun (s : State) n => s.sendPacket (s.nameHome n.1) 0 none 0 (.unbind n.1 n.2)) s)
  | .waitSet _ ms => (ms.flatMap (fun (m : W32 × Member) => memberObj m.2), gone.dropMembers ms)
  | .graph g => if g.running then ([], s.setObj i { o with body := .graph { g with closing := true }, refs := 0 }) else ([], gone)
  | .ring r => if r.state = .ended then ([], gone) else ([], s.setObj i { o with refs := 0 })
  | _ => ([], gone)

/-- Drop references, one after the other, with those they free. -/
def State.unrefAll : Nat → List Nat → State → State
  | 0, _, s => s
  | _, [], s => s
  | n + 1, i :: is, s =>
    match s.obj? i with
    | none => State.unrefAll n is s
    | some o =>
      if 1 < o.refs then State.unrefAll n is (s.setObj i { o with refs := o.refs - 1 })
      else
        let (more, s) := s.destroy i o
        State.unrefAll n (is ++ more) s

def State.unref (s : State) (is : List Nat) : State := State.unrefAll ((s.objects.map (fun o => o.2.refs)).sum + is.length + 1) is s

/-- The last receive handle of a port has gone: what is queued is discarded, and the port is closed. -/
def State.closePort (s : State) (i : Nat) (p : PortBody) : State :=
  let ready := p.queue.filter (·.ready)
  let s := ready.foldl (fun (s : State) m => s.discardMessage i m) s
  (s.modPort i (fun p => { p with queue := p.queue.filter (fun m => !m.ready), closed := true })).unref
    (ready.flatMap (fun m => m.refObjs s.chip))

/-- Effects of a closed handle on its object, then its reference. -/
def State.afterClose (s : State) (i : Nat) : State :=
  let left := s.handlesTo i
  let s := match s.obj? i with
    | some { body := .port p, .. } => if left.all (fun e => !e.rights.getLsbD 1) && !p.closed then s.closePort i p else s
    | some { body := .timer t, refs, owner } =>
      if left.isEmpty then s.setObj i { body := .timer { t with armed := false, expired := false }, refs, owner } else s
    | some { body := .waitSet c ms, refs, owner } =>
      if left.isEmpty then ((s.setObj i { body := .waitSet c [], refs, owner }).dropMembers ms).unref (ms.flatMap (fun (m : W32 × Member) => memberObj m.2)) else s
    | some { body := .graph g, refs, owner } =>
      if left.isEmpty && g.running then s.setObj i { body := .graph { g with closing := true }, refs, owner } else s
    | _ => s
  s.unref [i]

/-- Close a slot: it is empty, and its generation moves on (17 R306). -/
def State.closeSlot (s : State) (process slot : Nat) : State :=
  match (s.process? process).bind (fun p => Store.find? p.table slot) with
  | none => s
  | some e =>
    if e.used then
      (s.modProcess process (fun p => { p with table := Store.insert p.table slot { gen := e.gen + 1 } })).afterClose e.index
    else s

/-! ### What a kernel instruction comes to when it is tried (17 R311) -/

inductive Begun where
  /-- it cannot begin: it waits, with a question to peers perhaps -/
  | wait (ask : Option Nat) (s : State)
  | trap (t : Trap)
  /-- it has begun, or returns a status without beginning, and its result is known -/
  | done (lo hi : W32) (s : State)
  /-- it has begun and goes on -/
  | task (t : KernelTask) (s : State)

def Begun.status (code : Nat) (s : State) : Begun := .done 0 (BitVec.ofNat 32 code) s

/-- Slices that wait at a kernel instruction before its beginning. -/
def State.kernelWaiters (s : State) : List (SliceRef × Wave × KernelWait) :=
  s.cores.flatMap (fun c => c.2.waves.flatMap (fun w => w.2.slices.filterMap (fun k =>
    match k.2.wait, k.2.kwait with
    | some .kernel, some kw => some ({ core := c.1, slot := w.1, slice := k.1 }, w.2, kw)
    | _, _ => none)))

/-- The port in whose list of waiters the instruction stands. -/
def State.waitsOn (s : State) (x : Wave) : KernelOp → Option (Bool × Nat)
  | .psend h _ _ => (s.handleObj x.process h).map (fun i => (true, i))
  | .precv desc _ _ => (s.handleObj x.process (desc.headD 0)).map (fun i => (false, i))
  | _ => none

/-- Another waiter of the same list comes first: by class, then by the moment it began to wait (19 R347). (DEDUCED, log 56) -/
def State.outranked (s : State) (x : Wave) (kw : KernelWait) : Bool :=
  s.kernelWaiters.any (fun o => o.2.2.id ≠ kw.id && s.waitsOn o.2.1 o.2.2.op = s.waitsOn x kw.op
    && (match o.2.2.since, kw.since with
      | none, _ => false
      | some _, none => true
      | some a, some b => o.2.1.prio.toNat < x.prio.toNat || (o.2.1.prio = x.prio && a < b)))

/-- A slice of this package waits to send to the port: a place that frees is its own, not that of a peer that asks (19 R347).
(DEDUCED, log 56) -/
def State.sendersWait (s : State) (i : Nat) : Bool :=
  s.kernelWaiters.any (fun o => o.2.2.since.isSome && s.waitsOn o.2.1 o.2.2.op = some (true, i))

/-! ### PSEND (17 R318 to R320, 19 R353, R354) -/

/-- A message as PSEND reads it from scratch. -/
structure MessageRead where
  bytes : List Byte
  plen : Nat
  payload : List Byte
  grants : List Grant
  reply : Option Nat

/-- A scratch range of the wave's team, or the trap of the first byte outside its windows. -/
def State.recordAt (s : State) (x : Wave) (core a n : Nat) : Except Trap (Place × Nat) :=
  match s.scratch x.team (core / 32) a n with
  | .ok p => .ok p
  | .error c => .error { code := c, lanes := 0, addr := BitVec.ofNat 64 (s.firstOutside x.team (core / 32) a n) }

def grantEntryOk (e : Nat) : Bool := e / 2 ^ 56 = 0 && e / 2 ^ 6 % 2 ^ 6 = 0 && e % 8 = 0
/-- The page of a grant entry, as a canonical address. -/
def grantPage (e : Nat) : W64 := ((BitVec.ofNat 56 (e / 4096 * 4096)).signExtend 64)

/-- Check one grant of a message (17 R320, step 6). -/
def State.checkGrant (s : State) (x : Wave) (core : Nat) (remote : Bool) (e : Nat) : Except Trap Grant :=
  let va := (grantPage e).toNat
  let size := e / 16 % 4
  let bad : Trap := { code := 0x21, lanes := 0, addr := grantPage e }
  match s.resolve (s.asker x core false) va with
  | .error c => .error { bad with code := c }
  | .ok _ =>
    match s.leafAddrs x.process va size with
    | none => .error bad
    | some as =>
      let es := as.map (word64At s .hbm)
      let ok := fun (e : W64) => pteState e = 2 && pteC e = (size = 1) && pteU e && !pteR e
        && (pteTarget e = 0 || pteTarget e = 3 || (pteTarget e = 1 && !remote))
      if va % grantSize size = 0 && va < 2 ^ 55 && es.all ok then
        .ok { page := grantPage e, size, offered := e.testBit 3, leaf := es.headD 0, process := x.process, chip := s.chip }
      else .error bad

/-- The first failing grant, or all of them. -/
def collectGrants (f : Nat → Except Trap Grant) : List Nat → Except Trap (List Grant)
  | [] => .ok []
  | e :: es => match f e with
    | .error t => .error t
    | .ok g => match collectGrants f es with
      | .error t => .error t
      | .ok gs => .ok (g :: gs)

/-- The message at a scratch address, checked in the order of 17 R320, steps 1 to 6.  The grant right is asked of a handle
to a port of this package; a remote port's handle comes from a lookup, which gives none (17 R325, 18 R334). (DEDUCED, log 57) -/
def State.checkMessage (s : State) (x : Wave) (core : Nat) (h : W32) (a : Nat) : Except Trap MessageRead :=
  if a % 64 ≠ 0 then .error { code := 0x03, lanes := 0 }
  else match s.recordAt x core a 64 with
    | .error t => .error t
    | .ok (p, o) =>
      let b := s.peekN 0 p o 64
      let w0 := word32 b 0
      let n := w0 / 2 ^ 26 % 8
      let plen := w0 % 2 ^ 17
      let es := (List.range 4).map (fun g => word64 b (0x10 + 8 * g))
      if w0 / 2 ^ 29 ≠ 0 || w0 / 2 ^ 17 % 2 ^ 9 ≠ 0 || 4 < n || plen % 64 ≠ 0 || 65536 < plen
          || !(es.take n).all grantEntryOk || (es.drop n).any (· ≠ 0) then .error { code := 0x03, lanes := 0 }
      else
        let slot := (s.process? x.process).bind (fun p => p.handle? h)
        let remote := match slot.bind (fun e => s.obj? e.index) with
          | some { body := .remotePort c _, .. } => c ≠ s.chip
          | _ => false
        if n ≠ 0 && !remote && !(slot.map (fun e => e.rights.getLsbD 4)).getD false then .error { code := 0x31, lanes := 0, aux := h }
        else
          let payload : Except Trap (List Byte) := if plen = 0 then .ok [] else match s.recordAt x core (word32 b 8) plen with
            | .ok (p, o) => .ok (s.peekN 0 p o plen)
            | .error t => .error t
          match payload with
          | .error t => .error t
          | .ok payload =>
            let rh : W32 := BitVec.ofNat 32 (word32 b 4)
            let reply : Except Trap (Option Nat) := if rh = 0 then .ok none else match s.checkHandle x.process rh anyType rightSend with
              | .ok (i, _) => .ok (some i)
              | .error c => .error ({ code := c, lanes := 0, aux := rh } : Trap)
            match reply with
            | .error t => .error t
            | .ok reply => match collectGrants (s.checkGrant x core remote) (es.take n) with
              | .error t => .error t
              | .ok grants => .ok { bytes := b, plen, payload, grants, reply }

/-- Does no cluster serve this shootdown any more? -/
def State.shotDown (s : State) (id : Nat) : Bool := s.clusters.all (fun c => c.2.shootdowns.all (fun d => d.id ≠ id))

/-- Send a shootdown to every cluster (12 R236). -/
def State.shoot (s : State) (process : Nat) (start : W64) (pages : Nat) : Nat × State :=
  let id := s.serial
  (id, (List.range 12).foldl (fun (s : State) c =>
    let k := s.cluster c
    s.setCluster c { k with shootdowns := k.shootdowns ++ [{ id, process, start, pages }] }) { s with serial := s.serial + 1 })

def outState : Done → State → State
  | .next s, _ => s
  | _, s => s

/-- Every cluster receives a shootdown and, where nothing is out, acknowledges it. -/
def State.shootNow (s : State) (id : Nat) : State :=
  (List.range 12).foldl (fun (s : State) c =>
    let s := outState (execShootdownReceipt c id s) s
    outState (execShootdownAck c id s) s) s

/-- A place in a port's queue, under the sender's key: 0 taken, 1 none free, 3 closed. -/
def State.reservePlace (s : State) (i : Nat) (sender : Nat × Nat) (plen : Nat) (ahead : Bool) : Nat × State :=
  match s.port? i with
  | none => (3, s)
  | some p =>
    if p.closed then (3, s)
    else if s.portFull i p plen || ahead then (1, s)
    else (0, (s.modPort i (fun p => { p with queue := p.queue ++ [{ sender, plen }] })).addPool i plen)

/-- A place is given up. -/
def State.withdrawPlace (s : State) (i : Nat) (sender : Nat × Nat) : State :=
  match (s.port? i).bind (fun p => p.queue.find? (fun m => m.sender = sender && !m.ready)) with
  | none => s
  | some m => (s.modPort i (fun p => { p with queue := p.queue.erase m })).addPool i (-m.plen)

/-- The message of a place is queued, or, in a closed port, discarded (17 R330). -/
def State.fillPlace (s : State) (i : Nat) (sender : Nat × Nat) (carried : Carried) : State :=
  let full := fun (m : Message) => if m.sender = sender && !m.ready then { m with ready := true, carried } else m
  match s.port? i with
  | none => (carried.grants.foldl (fun (s : State) g => s.giveBack g) s).unref (sendersIn carried s.chip)
  | some p =>
    if p.closed then
      match p.queue.find? (fun m => m.sender = sender && !m.ready) with
      | none => s
      | some m =>
        ((s.modPort i (fun p => { p with queue := p.queue.erase m })).discardMessage i (full m)).unref ((full m).refObjs s.chip)
    else s.modPort i (fun p => { p with queue := p.queue.map full })

/-- What a message carries: a reply names an object of this chip by an internal reference; through a remote port it names the
port's home. -/
def State.carry (s : State) (m : MessageRead) (remote : Bool) : Carried × State :=
  let c : Carried := { bytes := m.bytes, payload := m.payload, grants := m.grants, reply := none }
  match m.reply with
  | none => (c, s)
  | some i =>
    match s.obj? i with
    | none => (c, s)
    | some o =>
      if remote then
        match o.body with
        | .remotePort chip j => ({ c with reply := some (chip, j) }, s)
        | _ => ({ c with reply := some (s.chip, i) }, s.modPort i (fun p => { p with away := true }))
      else ({ c with reply := some (s.chip, i) }, s.setObj i { o with refs := o.refs + 1 })

/-- The pages leave the sender: state 11, and a shootdown of each (17 R320); each grant refers to its process until it leaves the
queue. -/
def State.takePages (s : State) (gs : List Grant) : List Nat × State :=
  gs.foldl (fun (r : List Nat × State) g =>
    let s := (r.2.setLeafState g.process g.page.toNat g.size 3).holdObj g.process
    let (id, s) := s.shoot g.process g.page (grantSize g.size / 4096)
    (r.1 ++ [id], s)) ([], s)

/-- A PSEND that holds its place goes on: pages, entries at their owners, the message (17 R320, 19 R353, R354). (DEDUCED, log 56) -/
def State.stepSend (s : State) (core process : Nat) (t : SendTask) : KernelTask × State :=
  let gone := t.carried.grants.filter (fun g => g.away s.chip)
  let ask := fun (s : State) (stage : Nat) (qs : List (Nat × Nat × PacketBody)) =>
    let (id, s) := s.askPeers core process qs
    ((.send { t with stage, ask := some id } : KernelTask), s)
  let entries := gone.map (fun g => (g.owner, 5, PacketBody.entryRemove (g.entry s.chip process (pteW g.leaf))))
  let ship := fun (s : State) =>
    if t.chip = s.chip then ((.result 0 0 : KernelTask), s.fillPlace t.port (s.chip, t.key) t.carried)
    else ask s 2 [(t.chip, 0, .ship t.port t.key t.carried)]
  match t.stage with
  | 0 => if !t.shoots.all s.shotDown then (.send t, s) else if gone.isEmpty then ship s else ask s 1 entries
  | 1 => match t.ask.bind s.answers with
    | none => (.send t, s)
    | some rs =>
      let s := { s with inflight := Store.erase s.inflight (t.ask.getD 0) }
      if rs.any PeerReply.failed then ask s 1 entries else ship s
  | _ => match t.ask.bind s.answers with
    | none => (.send t, s)
    | some rs =>
      let s := { s with inflight := Store.erase s.inflight (t.ask.getD 0) }
      if rs.any PeerReply.failed then ask s 2 [(t.chip, 0, .ship t.port t.key t.carried)]
      else (.result 0 0, s.unref (sendersIn t.carried s.chip))

/-- A PSEND has its place. -/
def State.beginSend (s : State) (x : Wave) (w : SliceRef) (m : MessageRead) (chip port key : Nat) : Begun :=
  let (carried, s) := s.carry m (chip ≠ s.chip)
  let (shoots, s) := s.takePages m.grants
  let s := if s.now.prompt then shoots.foldl (fun (s : State) i => s.shootNow i) s else s
  let (t, s) := s.stepSend w.core x.process { chip, port, key, carried, shoots }
  match t with
  | .result lo hi => .done lo hi s
  | t => .task t s

def trySend (s : State) (w : SliceRef) (x : Wave) (kw : KernelWait) (h addr : W32) (wait : Bool) : Begun :=
  match s.handleObj x.process h with
  | none => match kw.ask with
    | none => .trap { code := 0x30, lanes := 0, aux := h }
    | some id => if (s.answers id).isSome then .wait none (s.withdrawAsked id kw.id) else .wait kw.ask s
  | some i =>
    let full : Trap := { code := 0x32, lanes := 0, aux := h }
    match s.body? i, s.checkMessage x w.core h addr.toNat with
    | some .control, .ok m =>
      let code := BitVec.ofNat 32 (word32 m.bytes 12)
      if m.plen ≠ 0 || !m.grants.isEmpty || code = 0 || 14 < code.toNat then .status 5 s
      else .task .command { s with commands := s.commands ++
        [{ code, secure := s.secureWave x, process := x.process, ops := (List.range 4).map (fun k => BitVec.ofNat 32 (word32 m.bytes (0x30 + 4 * k)))
           reply := some kw.id, debug := none }] }
    | some (.port _), .ok m =>
      match s.reservePlace i (s.chip, kw.id) m.plen (s.outranked x kw) with
      | (0, s) =>
        let s := if poolSize - s.poolUsed i < 2 ^ 20 then s.raiseKernel w.core x.process 3 else s
        s.beginSend x w m s.chip i kw.id
      | (3, s) => .status 3 s
      | (_, s) => if wait then .wait none s else .trap full
    | some (.remotePort chip port), r =>
      let ask := fun (s : State) (plen : Nat) =>
        let (id, s) := s.askPeers w.core x.process [(chip, 0, .reserve port kw.id plen)]
        Begun.wait (some id) s
      match kw.ask with
      | none => match r with
        | .error t => .trap t
        | .ok m => ask s m.plen
      | some id => match s.answers id with
        | none => .wait kw.ask s
        | some rs =>
          let s' := s.withdrawAsked id kw.id
          let s := { s with inflight := Store.erase s.inflight id }
          match rs, r with
          | [.status 0], .ok m => s.beginSend x w m chip port kw.id
          | [.status 0], .error _ => .wait none s'
          | [.status 3], _ => .status 3 s
          | [.status _], .ok m => if wait then ask s m.plen else .trap full
          | [.status _], .error t => .trap t
          | _, _ => .status 13 s
    | _, .error t => .trap t
    | _, _ => .trap { code := 0x31, lanes := 0, aux := h }

/-! ### PRECV (17 R321) -/

/-- Where each grant lands: at the lowest aligned address behind the one before. -/
def landings : Nat → List Grant → List (Nat × Grant)
  | _, [] => []
  | at_, g :: gs => let va := roundUp at_ (grantSize g.size); (va, g) :: landings (va + grantSize g.size) gs

/-- A landing page is free: its entries are invalid, with every table above them present. -/
def State.vacant (s : State) (process va size : Nat) : Bool :=
  va + grantSize size ≤ 2 ^ 55 && (match s.leafAddrs process va size with
    | some as => as.all (fun a => pteState (word64At s .hbm a) = 0)
    | none => false)

/-- Why the head message is refused, 0 when it is not. -/
def State.refusal (s : State) (process : Nat) (m : Message) (landing : Option Nat) (cap : Nat) : Nat :=
  let ok := match landing with
    | none => m.carried.grants.isEmpty
    | some b => (landings b m.carried.grants).all (fun l => s.vacant process l.1 l.2.size)
  if !ok then 6
  else if cap < 64 + m.plen then 7
  else if m.carried.reply.isSome && ((s.process? process).bind (fun p => p.freeSlot)).isNone then 5
  else 0

/-- A handle of a process to a port of any chip: the port itself, a remote port that names it, or a new one. -/
def State.handleTo (s : State) (core process chip i : Nat) (rights : BitVec 7) : Except State (W32 × State) :=
  if chip = s.chip then s.newHandle core process i rights
  else
    match List.find? (fun (o : Nat × Obj) => o.2.body = .remotePort chip i) s.objects with
    | some o => s.newHandle core process o.1 rights
    | none => s.create core process (.remotePort chip i) rights

/-- The head message leaves its port into the receiver's memory and scratch. -/
def State.receive (s : State) (t : ReceiveTask) (m : Message) : State :=
  let ls := landings t.landing.toNat m.carried.grants
  let s := ls.foldl (fun (s : State) l => match s.leafAddrs t.process l.1 l.2.size with
    | some as => as.zipIdx.foldl (fun (s : State) a => s.setLeaf a.1 (l.2.newLeaf s.chip a.2)) s
    | none => s) s
  let (reply, s) := match m.carried.reply with
    | none => ((0 : W32), s)
    | some (c, i) => match s.handleTo (t.cluster * 32) t.process c i (rightSend ||| rightClose) with
      | .ok (h, s) => (h, s)
      | .error s => (0, s)
  let s := s.unref (m.refObjs s.chip)
  let paddr := if m.plen = 0 then 0 else t.buffer + 64
  let grants := ls.map (fun l => l.1 + l.2.size * 16 + (if l.2.writable then 8 else 0))
  let b := m.carried.bytes
  let bytes := b.take 4 ++ leBytes 4 reply.toNat ++ leBytes 4 paddr ++ (b.drop 12).take 4
    ++ (grants ++ List.replicate (4 - grants.length) 0).flatMap (leBytes 8) ++ b.drop 0x30
  let s := match s.writeScratch t.team t.cluster t.buffer (bytes ++ m.carried.payload) with
    | .ok s => s
    | .error _ => s
  (s.modPort t.port (fun p => { p with queue := p.queue.filter (fun q => q.sender ≠ m.sender) })).addPool t.port (-m.plen)

/-- A PRECV that waits for access-table entries goes on: with all of them the message is received; with one refused or not
answered the others are taken back and the message stays (19 R353, 20 R371). -/
def State.stepReceive (s : State) (t : ReceiveTask) : KernelTask × State :=
  match s.answers t.ask, (s.port? t.port).bind (fun p => p.queue.find? (·.claimed)) with
  | some rs, some m =>
    let s := { s with inflight := Store.erase s.inflight t.ask }
    let away := m.carried.grants.filter (fun g => g.away s.chip)
    let vacant := (landings t.landing.toNat m.carried.grants).all (fun l => s.vacant t.process l.1 l.2.size)
    if rs.all (fun r => r = .done) && vacant then (.result (BitVec.ofNat 32 m.plen) 0, s.receive t m)
    else
      let s := (away.zip rs).foldl (fun (s : State) g => if g.2 = .done then
          s.sendPacket g.1.owner 5 none 0 (.entryRemove (g.1.entry s.chip t.process g.1.writable)) else s) s
      let s := s.modPort t.port (fun p => { p with queue := p.queue.map (fun q => { q with claimed := false }) })
      (.result 0 (if rs.any PeerReply.failed then 13 else 6), s)
  | some _, none => (.result 0 6, { s with inflight := Store.erase s.inflight t.ask })
  | none, _ => (.receive t, s)

def tryReceive (s : State) (w : SliceRef) (x : Wave) (kw : KernelWait) (desc : List W32) (landing : Option W64) (wait : Bool) : Begun :=
  match (s.handleObj x.process (desc.headD 0)).bind (fun i => (s.port? i).map (fun p => (i, p))) with
  | none => .trap { code := 0x30, lanes := 0, aux := desc.headD 0 }
  | some (i, p) =>
    let buffer := (desc.getD 1 0).toNat
    let cap := (desc.getD 2 0).toNat
    match s.recordAt x w.core buffer cap with
    | .error t => .trap t
    | .ok _ =>
      match p.queue.head?.filter (fun m => m.ready && !m.claimed && !s.outranked x kw) with
      | none =>
        if p.queue.isEmpty && !s.hasSender i p then .status 3 s
        else if wait then .wait none s else .status 1 s
      | some m =>
        let code := s.refusal x.process m (landing.map (·.toNat)) cap
        if code ≠ 0 then .status code (if code = 5 then s.raiseKernel w.core x.process 1 else s)
        else
          let t : ReceiveTask := { port := i, process := x.process, landing := landing.getD 0, buffer, team := x.team
                                   cluster := w.core / 32, ask := 0 }
          let away := m.carried.grants.filter (fun g => g.away s.chip)
          if away.isEmpty then .done (BitVec.ofNat 32 m.plen) 0 ((s.receive t m).acquire w.core w.slot .cq)
          else
            let s := s.modPort i (fun p => { p with queue := p.queue.map (fun q => if q.sender = m.sender then { q with claimed := true } else q) })
            let (ask, s) := s.askPeers w.core x.process
              (away.map (fun g => (g.owner, 5, .entryAdd (g.entry s.chip x.process g.writable))))
            .task (.receive { t with ask }) s

/-! ### Notices (17 R322, 19 R348) -/

def State.notifyPort (s : State) (i : Nat) (v : W32) : State :=
  s.modPort i (fun p => { p with notify := if p.notify.toNat < v.toNat then v else p.notify })

/-- One request to a peer, asked once and answered. -/
def tryAsk (s : State) (w : SliceRef) (x : Wave) (kw : KernelWait) (dst : Nat) (body : PacketBody) (f : PeerReply → State → Begun) : Begun :=
  match kw.ask with
  | none => let (id, s) := s.askPeers w.core x.process [(dst, 0, body)]; .wait (some id) s
  | some id => match s.answers id with
    | none => .wait kw.ask s
    | some rs =>
      let s := { s with inflight := Store.erase s.inflight id }
      match rs with
      | [.error _] | [] => .status 13 s
      | r :: _ => f r s

def tryNote (s : State) (w : SliceRef) (x : Wave) (kw : KernelWait) (h value : W32) : Begun :=
  let ask := fun (chip port : Nat) => tryAsk s w x kw chip (.note port value) (fun _ s => .status 0 s)
  if kw.ask.isSome then ask 0 0
  else match s.handleObj x.process h with
    | none => .trap { code := 0x30, lanes := 0, aux := h }
    | some i => match s.body? i with
      | some (.remotePort chip port) => ask chip port
      | _ => .status 0 (s.notifyPort i value)

/-! ### Wait sets (17 R323, 19 R349) -/

/-- The word a monitor member reads; none when its address faults or its home is on a peer. -/
def State.monitorWord (s : State) (process core : Nat) (a : W64) : Option W32 :=
  match s.resolve (s.processAsker process (core / 32)) a.toNat with
  | .ok (p, o, _, _) => if p.isPeer then none else some (BitVec.ofNat 32 (ofLeBytes (s.homeRead (dieOf core) p o 4 (s.fresh + 20000))))
  | .error _ => none

/-- Is a member ready?  For one that a peer keeps this is the bit that its last answer set. -/
def State.memberReady (s : State) : Member → Bool
  | .port i notify far => match s.body? i, notify with
    | some (.port p), none => p.queue.any (fun m => m.ready && !m.claimed)
    | some (.port p), some t => t.toNat ≤ p.notify.toNat
    | some (.remotePort _ _), _ => far.ready
    | _, _ => false
  | .timer i => match s.body? i with
    | some (.timer t) => t.expired
    | _ => false
  | .barrier a team core phase => match s.scratch team (core / 32) a 16 with
    | .ok (.scratch c, o) => let b := s.readBarrier c o; b.phase ≠ phase.toNat || b.fault
    | _ => false
  | .monitor a process core cond signed _ v far => match s.monitorWord process core a with
    | some x => monHolds cond signed 4 (x.setWidth 64) (v.setWidth 64)
    | none => far.ready

/-- What the set's home asks the peer that keeps a member: its port's queue and notify word, or the monitored word.  No rule gives
the request. (DEDUCED, log 33) -/
def State.memberQuestion (s : State) : Member → Option (Nat × Nat × PacketBody)
  | .port i _ _ => match s.body? i with
    | some (.remotePort chip port) => some (chip, 0, .portInfo port)
    | _ => none
  | .monitor a process core _ _ _ _ _ => match s.resolve (s.processAsker process (core / 32)) a.toNat with
    | .ok (.peer chip, o, _, _) => if s.egressOk chip process o 4 false then some (chip, 1, .read o 4) else none
    | _ => none
  | _ => none

/-- The ready bit that a peer's answer gives. -/
def memberAnswer (m : Member) (r : PeerReply) : Bool :=
  match m, r with
  | .port _ none _, .data b => word32 b 0 ≠ 0
  | .port _ (some t) _, .data b => t.toNat ≤ word32 b 4
  | .monitor _ _ _ cond signed _ v _, .data b => monHolds cond signed 4 (BitVec.ofNat 64 (word32 b 0)) (v.setWidth 64)
  | _, _ => false

def setFar (m : Member) (far : Far) : Member := match m with
  | .port i n _ => .port i n far
  | .monitor a p c cond signed scope v _ => .monitor a p c cond signed scope v far
  | m => m
def memberFar : Member → Far
  | .port _ _ far | .monitor _ _ _ _ _ _ _ far => far
  | _ => {}

/-- A member that a peer keeps goes on: its answer sets or clears the ready bit, and with no question on its way one is asked. -/
def State.pollMember (s : State) (m : W32 × Member) : (W32 × Member) × State :=
  match s.memberQuestion m.2, (memberFar m.2).ask with
  | none, none => (m, s)
  | none, some id => ((m.1, setFar m.2 {}), s.dropAsk (some id) 0)
  | some q, none => let (id, s) := s.askPeers 0 0 [q]; ((m.1, setFar m.2 { memberFar m.2 with ask := some id }), s)
  | some _, some id => match s.answers id with
    | none => (m, s)
    | some rs => ((m.1, setFar m.2 { ready := (rs.head?.map (memberAnswer m.2)).getD false }),
        { s with inflight := Store.erase s.inflight id })

def State.waitSet? (s : State) (i : Nat) : Option (Nat × List (W32 × Member)) :=
  match s.obj? i with
  | some { body := .waitSet c ms, .. } => some (c, ms)
  | _ => none
def State.setMembers (s : State) (i : Nat) (ms : List (W32 × Member)) : State :=
  match s.obj? i with
  | some { body := .waitSet c _, refs, owner } => s.setObj i { body := .waitSet c ms, refs, owner }
  | _ => s
def State.modTimer (s : State) (i : Nat) (f : Timer → Timer) : State :=
  match s.obj? i with
  | some { body := .timer t, refs, owner } => s.setObj i { body := .timer (f t), refs, owner }
  | _ => s

/-- The ready member with the lowest key. -/
def State.readyMember (s : State) (ms : List (W32 × Member)) : Option (W32 × Member) :=
  (ms.filter (fun m => s.memberReady m.2)).foldl (fun (best : Option (W32 × Member)) m => match best with
    | none => some m
    | some b => if m.1.toNat < b.1.toNat then some m else some b) none

/-- The member a WSADD describes. -/
def State.memberOf (s : State) (x : Wave) (core : Nat) (desc : List W32) : MemberSel → Option Member
  | .handle => match s.handleObj x.process (desc.headD 0) with
    | none => none
    | some i => match s.body? i with
      | some (.timer _) => some (.timer i)
      | _ => some (.port i (if desc.getD 1 0 = 0 then none else some (desc.getD 2 0)))
  | .barrier => some (.barrier (desc.headD 0).toNat x.team core (desc.getD 1 0))
  | .monitor cond signed scope => some (.monitor (desc.getD 1 0 ++ desc.headD 0) x.process core cond signed scope (desc.getD 2 0))

/-- The object stands in some wait set. -/
def State.inSet (s : State) (i : Nat) : Bool := s.objects.any (fun o => match o.2.body with
  | .waitSet _ ms => ms.any (fun m => (memberObj m.2).contains i)
  | _ => false)

def tryAdd (s : State) (w : SliceRef) (x : Wave) (h key : W32) (desc : List W32) (sel : MemberSel) : Begun :=
  match (s.handleObj x.process h).bind (fun i => (s.waitSet? i).map (fun ws => (i, ws))), s.memberOf x w.core desc sel with
  | some (i, c, ms), some m =>
    if c ≤ ms.length || ms.any (fun y => y.1 = key) || (memberObj m).any s.inSet then .status 9 s
    else
      let s := (memberObj m).foldl (fun (s : State) j => match s.obj? j with
        | some o => s.setObj j { o with refs := o.refs + 1 }
        | none => s) s
      let (m, s) := s.pollMember (key, m)
      .status 0 (s.setMembers i (ms ++ [m]))
  | _, _ => .trap { code := 0x30, lanes := 0, aux := h }

def tryDel (s : State) (x : Wave) (h key : W32) : Begun :=
  match (s.handleObj x.process h).bind (fun i => (s.waitSet? i).map (fun ws => (i, ws))) with
  | none => .trap { code := 0x30, lanes := 0, aux := h }
  | some (i, _, ms) => match ms.find? (fun m => m.1 = key) with
    | none => .status 10 s
    | some m => .status 0 (((s.setMembers i (ms.erase m)).dropMembers [m]).unref (memberObj m.2))

/-- WSWAIT: the lowest ready key; expired says that its timeout has passed. -/
def tryWaitSet (s : State) (w : SliceRef) (x : Wave) (h : W32) (poll expired : Bool) : Begun :=
  match (s.handleObj x.process h).bind s.waitSet? with
  | none => .trap { code := 0x30, lanes := 0, aux := h }
  | some (_, ms) => match s.readyMember ms with
    | some (key, m) =>
      let s := match m with
        | .timer i => s.modTimer i (fun t => { t with expired := false })
        | _ => s
      .done key 0 (s.acquire w.core w.slot .cq)
    | none => if poll then .status 1 (s.acquire w.core w.slot .cq)
      else if expired then .status 2 (s.acquire w.core w.slot .cq) else .wait none s

/-! ### Timers (17 R324, 19 R350) -/

def timerPlaces : Nat := 4096
/-- Deadlines in a cluster's array, but for one timer's own. -/
def State.deadlines (s : State) (cluster but : Nat) : Nat := (s.objects.filter (fun o => o.1 ≠ but && (match o.2.body with
  | .timer t => t.armed && t.cluster = cluster
  | _ => false))).length

/-- An expiry: the state is set; a periodic timer's next deadline follows the one before. -/
def Timer.expire (t : Timer) : Timer :=
  { t with expired := true, armed := t.period.isSome, deadline := t.deadline + t.period.getD 0 }

def tryArm (s : State) (w : SliceRef) (x : Wave) (h : W32) (dur : W64) (per : Bool) : Begun :=
  let cluster := w.core / 32
  match s.handleObj x.process h with
  | none => .trap { code := 0x30, lanes := 0, aux := h }
  | some i =>
    if timerPlaces ≤ s.deadlines cluster i then .wait none s
    else
      let t : Timer := { cluster, armed := true, deadline := s.cltime cluster + dur.toNat
                         period := if per then some dur.toNat else none }
      .status 0 (s.modTimer i (fun _ => if dur = 0 then t.expire else t))

def tryCancel (s : State) (x : Wave) (h : W32) : Begun :=
  match s.handleObj x.process h with
  | none => .trap { code := 0x30, lanes := 0, aux := h }
  | some i => match s.body? i with
    | some (.timer t) => if t.armed || t.expired then .status 0 (s.modTimer i (fun t => { cluster := t.cluster })) else .status 11 s
    | _ => .status 11 s

/-! ### Names (17 R325, 20 R371) -/

def namePlaces : Nat := 65536

/-- The name service of this chip: 0 bound, 8 taken. (DEDUCED, log 57) -/
def State.bindName (s : State) (name : W64) (chip port process : Nat) : Nat × State :=
  if s.names.any (fun n => n.1 = name) then (8, s)
  else if namePlaces ≤ s.names.length then (5, s)
  else (0, { s with names := s.names ++ [(name, chip, port, process)] })
def State.unbindName (s : State) (name : W64) (chip process : Nat) : Nat × State :=
  match s.names.find? (fun n => n.1 = name && n.2.1 = chip && n.2.2.2 = process) with
  | none => (4, s)
  | some n => (0, { s with names := s.names.erase n })
def State.lookName (s : State) (name : W64) : Option (Nat × Nat) := (s.names.find? (fun n => n.1 = name)).map (fun n => (n.2.1, n.2.2.1))

/-- A lookup that found its name: a handle with send, duplicate and close rights. -/
def State.lookHandle (s : State) (w : SliceRef) (x : Wave) (chip port : Nat) : Begun :=
  if chip = s.chip && (s.port? port).isNone then .status 4 s
  else match s.handleTo w.core x.process chip port (rightSend ||| rightDuplicate ||| rightClose) with
    | .ok (h, s) => .done h 0 s
    | .error s => .status 5 s

def tryLook (s : State) (w : SliceRef) (x : Wave) (kw : KernelWait) (name : W64) : Begun :=
  let home := s.nameHome name
  if home = s.chip then
    match s.lookName name with
    | none => .status 4 s
    | some (chip, port) => s.lookHandle w x chip port
  else tryAsk s w x kw home (.look name) (fun r s => match r with
    | .data b => s.lookHandle w x (ofLeBytes (b.take 4)) (ofLeBytes (b.drop 4))
    | _ => .status 4 s)

def tryBind (s : State) (w : SliceRef) (x : Wave) (kw : KernelWait) (name : W64) (h : Option W32) : Begun :=
  let home := s.nameHome name
  let port := (h.bind (s.handleObj x.process)).getD 0
  if home = s.chip then
    let (code, s) := match h with
      | some _ => s.bindName name s.chip port x.process
      | none => s.unbindName name s.chip x.process
    .status code s
  else tryAsk s w x kw home (match h with | some _ => .bind name port x.process | none => .unbind name x.process) (fun r s =>
    match r with
    | .status 0 => .status 0 (match h with
      | some _ => s.modPort port (fun p => { p with names := p.names ++ [(name, x.process)] })
      | none => { s with objects := s.objects.map (fun o => match o.2.body with
          | .port p => (o.1, { o.2 with body := .port { p with names := p.names.filter (fun n => n.1 ≠ name) } })
          | _ => o) })
    | .status n => .status n s
    | _ => .status 13 s)

/-! ### Graphs (17 R326, 19 R351, R352) -/

structure Node where
  kind : Nat
  deps : Nat
  cinit : Nat
  recAddr : Nat
  count : Nat
  cword : Nat
  succs : List Nat
  port : W32
  state : Nat
  ok : Bool

def Node.ofBytes (n : Nat) (b : List Byte) : Node :=
  let w0 := word32 b 0
  let kind := w0 / 2 ^ 30
  let ns := w0 / 2 ^ 16 % 16
  let all := (List.range 8).map (fun i => ofLeBytes ((b.drop (0x18 + 2 * i)).take 2))
  let w2c := word32 b 0x2C
  { kind, deps := w0 % 2 ^ 16, cinit := word32 b 4, recAddr := word64 b 8, count := word32 b 0x10, cword := word32 b 0x14
    succs := (all.take ns).eraseDups, port := BitVec.ofNat 32 (word32 b 0x28), state := w2c % 256
    ok := kind ≤ 1 && w0 / 2 ^ 20 % 2 ^ 10 = 0 && ns ≤ 8 && (all.take ns).all (· < n) && (all.drop ns).all (· = 0)
      && w2c / 256 = 0 && (b.drop 0x30).all (· = 0)
      && (if kind = 1 then ns = 0 && word64 b 8 = 0 else word32 b 4 = 0 && word64 b 8 % 128 = 0) }

/-- How often each node is named as a successor. (DEDUCED, log 57) -/
def namings (nodes : List Node) : Store Nat :=
  nodes.foldl (fun m d => d.succs.foldl (fun m i => Store.set m 0 i (Store.get m 0 i + 1)) m) []

def arrayOk (nodes : List Node) : Bool :=
  let named := namings nodes
  nodes.all (·.ok) && nodes.zipIdx.all (fun d => d.1.deps = Store.get named 0 d.2) && nodes.any (fun d => d.deps = 0)

/-- The process that owns a graph, on this package. -/
def Obj.process (o : Obj) : Nat := objIndex o.owner

def State.graph? (s : State) (i : Nat) : Option (Nat × GraphBody) :=
  match s.obj? i with
  | some { body := .graph g, owner, .. } => some (objIndex owner, g)
  | _ => none
def State.modGraph (s : State) (i : Nat) (f : GraphBody → GraphBody) : State :=
  match s.obj? i with
  | some { body := .graph g, refs, owner } => s.setObj i { body := .graph (f g), refs, owner }
  | _ => s

def State.nodeAt (s : State) (process : Nat) (g : GraphBody) (k : Nat) : Node :=
  match s.readVirtual (s.processAsker process 0) ((g.array.toNat + 64 * k) % 2 ^ 64) 64 with
  | .ok b => Node.ofBytes g.count b
  | .error _ => Node.ofBytes g.count []

/-- A write of the engine into a node: a release store at .SY. -/
def State.setNode (s : State) (process : Nat) (g : GraphBody) (k off : Nat) (bs : List Byte) : State :=
  match s.drainReplicas.writeVirtual (s.processAsker process 0) ((g.array.toNat + 64 * k + off) % 2 ^ 64) bs with
  | .ok s => s.drainReplicas
  | .error _ => s

/-- The class in a launch record. -/
def State.recordClass (s : State) (process a : Nat) : Nat :=
  match s.readVirtual (s.processAsker process 0) a 4 with
  | .ok b => word32 b 0 / 2 ^ 26 % 4
  | .error _ => 0

/-- Hand a node's launch record over; with the launch queue full it is refused with status 4 (25 R418). -/
def State.submitNode (s : State) (i k : Nat) : State :=
  match s.graph? i with
  | none => s
  | some (process, g) =>
    let a := (s.nodeAt process g k).recAddr
    let q : Submit := { recAddr := BitVec.ofNat 64 a, process, floor := g.prio, source := .graph i k, age := s.serial
                        cls := max g.prio (s.recordClass process a) }
    let s := (s.setNode process g k 0x2C [1]).modGraph i (fun g => { g with out := g.out + 1 })
    if s.launchQueue.length < launchPlaces then s.submit q
    else
      let r := LaunchRecord.ofBytes (match s.readVirtual (s.processAsker process 0) a 128 with
        | .ok b => b
        | .error _ => [])
      { s with launches := Store.insert s.launches s.serial { r.launch q s.serial with status := 4 }, serial := s.serial + 1 }

/-- Arm a graph: counters, condition words and states, then its root nodes (19 R352). -/
def State.armGraph (s : State) (i : Nat) : State :=
  match s.graph? i with
  | none => s
  | some (process, g) =>
    let nodes := (List.range g.count).map (fun k => (k, s.nodeAt process g k))
    let s := nodes.foldl (fun (s : State) d =>
      (s.setNode process g d.1 0x10 (leBytes 4 d.2.deps ++ leBytes 4 d.2.cinit)).setNode process g d.1 0x2C [0]) s
    (nodes.filter (fun d => d.2.kind = 0 && d.2.deps = 0)).foldl (fun (s : State) d => s.submitNode i d.1) s

/-- Notify the port of a node. -/
def State.notifyHandle (s : State) (process : Nat) (h v : W32) : State :=
  match s.checkHandle process h [2, 6] rightSend with
  | .error _ => s
  | .ok (i, _) => match s.body? i with
    | some (.remotePort chip port) => s.sendPacket chip 0 none 0 (.note port v)
    | _ => s.notifyPort i v

/-- The graph ends: every node with a port is told, and the graph is idle, or gone if its last handle has been closed. -/
def State.endGraph (s : State) (i : Nat) : State :=
  match s.graph? i with
  | none => s
  | some (process, g) =>
    let s := (List.range g.count).foldl (fun (s : State) k =>
      let h := (s.nodeAt process g k).port
      if h = 0 then s else s.notifyHandle process h (g.iterations ||| 0x80000000)) s
    if g.closing then { s with objects := Store.erase s.objects i } else s.modGraph i (fun g => { g with running := false })

/-- What a graph does once none of its launches is out. -/
def State.judgeGraph (s : State) (i : Nat) : State :=
  match s.graph? i with
  | none => s
  | some (process, g) =>
    let nodes := (List.range g.count).map (s.nodeAt process g)
    if g.closing || g.refused then s.endGraph i
    else if !nodes.all (fun d => d.kind = 1 || d.state = 2 || d.state = 3) then s
    else if nodes.any (fun d => d.kind = 1 && d.cword ≠ 0) then
      (s.modGraph i (fun g => { g with iterations := g.iterations + 1 })).armGraph i
    else s.endGraph i

/-- A launch of a node is over (19 R352). -/
def State.nodeDone (s : State) (i k status : Nat) : State :=
  match s.graph? i with
  | none => s
  | some (process, g) =>
    let d := s.nodeAt process g k
    let refused := status = 3 || status = 4
    let s := (s.setNode process g k 0x2C [if status = 1 then 2 else if status = 2 then 3 else 4]).modGraph i
      (fun g => { g with out := g.out - 1, refused := g.refused || refused })
    let s := if refused then s else
      let s := d.succs.foldl (fun (s : State) j =>
        let n := s.nodeAt process g j
        let s := s.setNode process g j 0x10 (leBytes 4 (n.count + 2 ^ 32 - 1))
        if n.count = 1 && n.kind = 0 && !g.closing && !g.refused then s.submitNode i j else s) s
      if d.port = 0 then s else s.notifyHandle process d.port g.iterations
    if ((s.graph? i).map (fun g => g.2.out)).getD 1 = 0 then s.judgeGraph i else s

/-- GRAPH_NODE_COMPLETE (19 R352). -/
def execGraphNodeComplete (launch : Nat) (s : State) : Done :=
  match Store.find? s.launches launch with
  | none => .next s
  | some l => match l.source with
    | .graph i k =>
      if l.reported then .next ({ s with launches := Store.erase s.launches launch }.nodeDone i k l.status) else .next s
    | _ => .next s

/-- A running graph that no launch's end brings on, having conditional nodes alone (17 R326) or being closed with nodes that
no launch of its reaches (19 R352): it is judged as time passes. -/
def State.judgeIdle (s : State) : State :=
  s.objects.foldl (fun (s : State) o => match s.graph? o.1 with
    | some (process, g) =>
      if g.running && g.out = 0 && (g.closing || (List.range g.count).all (fun k => (s.nodeAt process g k).kind = 1)) then s.judgeGraph o.1 else s
    | none => s) s

/-- The first address of a range that cannot be resolved, with its fault. -/
def State.rangeFault (s : State) (q : Asker) (va n : Nat) : Option (Byte × Nat) :=
  (pageRanges (n / 4096 + 2) va n).findSome? (fun r => match s.resolve q r.1 with
    | .error c => some (c, r.1)
    | .ok _ => none)

/-- DEDUCED, log 57. -/
def tryGraph (s : State) (x : Wave) (h : W32) : Begun :=
  match (s.handleObj x.process h).bind (fun i => (s.graph? i).map (fun g => (i, g))) with
  | none => .trap { code := 0x30, lanes := 0, aux := h }
  | some (i, process, g) =>
    if g.running then .status 12 s
    else match s.rangeFault { s.processAsker process 0 with write := true } g.array.toNat (64 * g.count) with
      | some (c, va) => .trap { code := c, lanes := 0, addr := BitVec.ofNat 64 va }
      | none =>
        if !arrayOk ((List.range g.count).map (s.nodeAt process g)) then .trap { code := 0x03, lanes := 0 }
        else .status 0 ((s.modGraph i (fun g => { g with running := true, iterations := 0, prio := x.prio.toNat, refused := false
                                                         out := 0 })).armGraph i)

def condNew : GcondKind → W32 → W32 → W32
  | .set, _, b => b
  | .or, a, b => a ||| b
  | .and, a, b => a &&& b
  | .max, a, b => if a.toNat < b.toNat then b else a

def tryCond (s : State) (w : SliceRef) (x : Wave) (h node value : W32) (kind : GcondKind) : Begun :=
  match (s.handleObj x.process h).bind s.graph? with
  | none => .trap { code := 0x30, lanes := 0, aux := h }
  | some (process, g) =>
    if g.count ≤ node.toNat || (s.nodeAt process g node.toNat).kind ≠ 1 then .status 14 s
    else match s.resolve { s.processAsker process 0 with write := true } ((g.array.toNat + 64 * node.toNat + 0x14) % 2 ^ 64) with
      | .error c => .trap { code := c, lanes := 0, addr := g.array + BitVec.ofNat 64 (64 * node.toNat + 0x14) }
      | .ok (p, a, rep, _) =>
        let old : W32 := BitVec.ofNat 32 (ofLeBytes (s.blockBytes (dieOf w.core) (s.fresh + 20000) p a 4))
        let s := s.homeWrite p a (leBytes 4 (condNew kind old value).toNat) rep noAccess
        .done old 0 ((s.drainReplicas.takeTags w.core w.slot w.slice .dv (s.metTags p a 4)).acquire w.core w.slot .dv)

/-! ### Creating, duplicating, closing, asking (17 R315 to R317) -/

def badDesc (kind : ObjKind) (d : List W32) : Bool :=
  let v := fun i => (d.getD i 0).toNat
  match kind with
  | .port => !(1 ≤ v 0 && v 0 ≤ 4096 && v 1 = 0 && v 2 = 0 && v 3 = 0)
  | .waitSet => !(1 ≤ v 0 && v 0 ≤ 64 && v 1 = 0 && v 2 = 0 && v 3 = 0)
  | .timer => !(v 0 = 0 && v 1 = 0 && v 2 = 0 && v 3 = 0)
  | .graph => !(canonical (v 1 * 2 ^ 32 + v 0) && v 0 % 64 = 0 && 1 ≤ v 2 && v 2 ≤ 65535 && v 3 = 0)

def newBody (kind : ObjKind) (d : List W32) : ObjBody :=
  match kind with
  | .port => .port { capacity := (d.headD 0).toNat }
  | .waitSet => .waitSet (d.headD 0).toNat []
  | .timer => .timer {}
  | .graph => .graph { array := d.getD 1 0 ++ d.headD 0, count := (d.getD 2 0).toNat }

def tryCreate (s : State) (w : SliceRef) (x : Wave) (kind : ObjKind) (d : List W32) : Begun :=
  match s.create w.core x.process (newBody kind d) 0x7F with
  | .ok (h, s) => .done h 0 s
  | .error s => .status 5 s

def tryDup (s : State) (w : SliceRef) (x : Wave) (h rights : W32) : Begun :=
  match (s.process? x.process).bind (fun p => p.handle? h) with
  | none => .trap { code := 0x30, lanes := 0, aux := h }
  | some e => match s.newHandle w.core x.process e.index (e.rights &&& rights.setWidth 7) with
    | .ok (h, s) => .done h 0 s
    | .error s => .status 5 s

/-- OINFO's selector suits the type. -/
def selectorOk (sel : Nat) (b : ObjBody) : Bool :=
  sel = 0 || (sel = 1 && (bodyType b = 2 || bodyType b = 6)) || (sel = 2 && bodyType b = 4) || (sel = 3 && bodyType b = 5)

def tryInfo (s : State) (w : SliceRef) (x : Wave) (kw : KernelWait) (h : W32) (sel : Nat) : Begun :=
  let ask := fun (chip port : Nat) => tryAsk s w x kw chip (.portInfo port) (fun r s => match r with
    | .data b => .done (BitVec.ofNat 32 (word32 b 0)) (BitVec.ofNat 32 (word32 b 4)) s
    | _ => .done 0 0 s)
  if kw.ask.isSome then ask 0 0
  else match (s.process? x.process).bind (fun p => p.handle? h) with
  | none => .trap { code := 0x30, lanes := 0, aux := h }
  | some e =>
    if sel = 0 then .done (BitVec.ofNat 32 (((s.obj? e.index).map (fun o => bodyType o.body)).getD 0 * 2 ^ 28) ||| e.rights.setWidth 32) 0 s
    else match s.body? e.index with
      | some (.port p) => .done (BitVec.ofNat 32 (p.queue.filter (·.ready)).length) p.notify s
      | some .control => .done (BitVec.ofNat 32 s.commands.length) 0 s
      | some (.remotePort chip port) => ask chip port
      | some (.timer t) =>
        let state := if t.expired then (if t.period.isSome && t.armed then 3 else 2) else if t.armed then 1 else 0
        .done (BitVec.ofNat 32 state) (if t.armed then BitVec.ofNat 32 (t.deadline - s.cltime t.cluster) else 0) s
      | some (.graph g) => .done (if g.running then 1 else 0) g.iterations s
      | _ => .done 0 0 s

/-! ### LAUNCH and HINT (17 R327, R328) -/

/-- DEDUCED, log 57. -/
def tryLaunch (s : State) (x : Wave) (a : W64) : Begun :=
  if launchPlaces ≤ s.launchQueue.length then .status 5 s
  else .status 0 (s.submit { recAddr := a, process := x.process, floor := x.prio.toNat, source := .wave, age := 0
                             cls := max x.prio.toNat (s.recordClass x.process a.toNat) })

/-! ### Every kernel instruction, checked and tried -/

/-- Values of step 6 of 09 R178 that raise 0x03. -/
def badValue : KernelOp → Bool
  | .wcreate kind d => badDesc kind d
  | .odup _ rights => 2 ^ 7 ≤ rights.toNat
  | .nslook name | .nsbind name _ => name = 0
  | .launch a => a.toNat % 128 ≠ 0
  | .wsadd _ d _ .handle => d.getD 3 0 ≠ 0
  | .wsadd _ d _ .barrier => (d.headD 0).toNat % 16 ≠ 0 || d.getD 2 0 ≠ 0 || d.getD 3 0 ≠ 0
  | .wsadd _ d _ (.monitor _ _ _) => (d.headD 0).toNat % 4 ≠ 0 || d.getD 3 0 ≠ 0
  | _ => false

/-- The checks of step 8, and 0x21 for a reserved name or a vector outside the process's window. -/
def State.recordTrap (s : State) (x : Wave) (core : Nat) : KernelOp → Option Trap
  | .psend h a _ => match s.checkMessage x core h a.toNat with
    | .error t => some t
    | .ok _ => none
  | .precv d landing _ =>
    let l := (landing.map (·.toNat)).getD 0
    if (d.getD 1 0).toNat % 64 ≠ 0 || (d.getD 2 0).toNat < 64 || d.getD 3 0 ≠ 0 || l % 4096 ≠ 0 || 2 ^ 55 ≤ l then
      some { code := 0x03, lanes := 0 }
    else match s.recordAt x core (d.getD 1 0).toNat (d.getD 2 0).toNat with
      | .error t => some t
      | .ok _ => none
  | .wsadd _ d _ sel => match sel with
    | .handle => none
    | .barrier => match s.recordAt x core (d.headD 0).toNat 16 with
      | .error t => some t
      | .ok _ => none
    | .monitor _ _ _ =>
      let a := d.getD 1 0 ++ d.headD 0
      match s.resolve (s.asker x core false) a.toNat with
      | .error c => some { code := c, lanes := 0, addr := a }
      | .ok _ => none
  | .nslook name | .nsbind name _ => if name.getLsbD 63 && !x.supervisor then some { code := 0x21, lanes := 0 } else none
  | .hint v _ => if s.vectorOk x.process v.toNat then none else some { code := 0x21, lanes := 0 }
  | .launch a => (s.rangeFault (s.asker x core false) a.toNat 128).map (fun f => { code := f.1, lanes := 0, addr := BitVec.ofNat 64 f.2 })
  | .oinfo h sel => match (s.handleObj x.process h).bind (fun i => s.obj? i) with
    | some o => if selectorOk sel o.body then none else some { code := 0x31, lanes := 0, aux := h }
    | none => none
  | _ => none

/-- The values of a port or timer member that its type rules out (17 R323). -/
def State.badMember (s : State) (x : Wave) : KernelOp → Bool
  | .wsadd _ d _ .handle => match (s.handleObj x.process (d.headD 0)).bind s.obj? with
    | some { body := .timer _, .. } => d.getD 1 0 ≠ 0 || d.getD 2 0 ≠ 0
    | _ => 1 < (d.getD 1 0).toNat
  | _ => false

/-- Steps 6 and 7 of 09 R178: values, then handles. -/
def State.valueTrap (s : State) (x : Wave) (op : KernelOp) : Option Trap :=
  if badValue op || s.badMember x op then some { code := 0x03, lanes := 0 } else s.handleTrap x.process op

/-- Every check of a kernel object instruction, in the order of 09 R178. -/
def State.kernelTrap (s : State) (x : Wave) (core : Nat) (op : KernelOp) : Option Trap :=
  match s.valueTrap x op with
  | some t => some t
  | none => s.recordTrap x core op

/-- Try a kernel object instruction: it begins, waits, or traps. -/
def tryKernel (s : State) (w : SliceRef) (x : Wave) (kw : KernelWait) : Begun :=
  match kw.op with
  | .wcreate kind d => tryCreate s w x kind d
  | .psend h a wait => trySend s w x kw h a wait
  | .precv d landing wait => tryReceive s w x kw d landing wait
  | .pnote h v => tryNote s w x kw h v
  | .wsadd h d key sel => tryAdd s w x h key d sel
  | .wsdel h key => tryDel s x h key
  | .wswait h _ poll _ => tryWaitSet s w x h poll false
  | .tarm h dur per => tryArm s w x h dur per
  | .tcan h => tryCancel s x h
  | .oclose h => .status 0 (s.closeSlot x.process (handleSlot h))
  | .odup h rights => tryDup s w x h rights
  | .nslook name => tryLook s w x kw name
  | .nsbind name h => tryBind s w x kw name h
  | .glaunch h => tryGraph s x h
  | .gcond h node value kind => tryCond s w x h node value kind
  | .hint v flush => .status 0 (s.countEvent v.toNat flush)
  | .launch a => tryLaunch s x a
  | .oinfo h sel => tryInfo s w x kw h sel
  | .rotarm _ | .rotjoin _ _ _ | .aearm _ _ _ | .aewait _ _ _ _ | .rotend _ _ => .wait none s

/-! ### Beginning, going on and returning (17 R311, R312) -/

/-- How a family of instructions is checked and tried. -/
structure KernelUnit where
  check : State → Wave → Nat → KernelOp → Option Trap
  /-- the checks that read no memory: all that is checked at issue while a release is still awaited -/
  early : State → Wave → KernelOp → Option Trap
  attempt : State → SliceRef → Wave → KernelWait → Begun
  /-- what the instruction does once what it releases is done, before it begins -/
  issued : State → Wave → KernelOp → State := fun s _ _ => s

def kernelUnit : KernelUnit := { check := State.kernelTrap, early := State.valueTrap, attempt := tryKernel }

/-- The result registers. -/
def resultLocs (d : Option SPair) : List Loc := match d with
  | some p => pairLocs p
  | none => []

/-- OINFO and AEWAIT are no region edges (17 R331, 21 R387). -/
def opEdge : KernelOp → Bool
  | .oinfo _ _ | .aewait _ _ _ _ => false
  | _ => true

/-- The access that counts a kernel instruction, changed in its slice, resident or parked. -/
def State.modKernel (s : State) (id : Nat) (f : Slice → Slice) : State :=
  match Store.find? s.inflight id with
  | none => s
  | some a => s.modOwner a.core a.slot a.gen a.slice f

/-- The result is written, and the count falls. -/
def State.writeResult (s : State) (k : KernelReturn) (lo hi : W32) : State :=
  match Store.find? s.inflight k.id with
  | none => s
  | some a =>
    let s := match k.d with
      | some p => s.landAll a k.id (destWrites (pairReg p) true 0 (hi ++ lo))
      | none => s
    (s.modKernel k.id (fun sl => { sl with kret := none })).finish k.id a

/-- A begun instruction goes on. -/
def State.stepReturn (s : State) (k : KernelReturn) : State :=
  match Store.find? s.inflight k.id with
  | none => s
  | some a =>
    let (t, s) := match k.task with
      | .send t => s.stepSend a.core a.process t
      | .receive t => s.stepReceive t
      | t => (t, s)
    match t with
    | .result lo hi =>
      let s := match k.task with
        | .receive _ => if s.gen a.core a.slot = a.gen then s.acquire a.core a.slot .cq else s
        | _ => s
      s.writeResult k lo hi
    | t => s.modKernel k.id (fun sl => { sl with kret := some { k with task := t } })

/-- It has begun: the slice goes on behind it, a region edge, and only its result is awaited. -/
def State.startReturn (s : State) (w : SliceRef) (kw : KernelWait) (task : KernelTask) : State :=
  match s.slice? w.core w.slot w.slice with
  | none => s
  | some sl =>
    let locs := resultLocs kw.d
    let k : KernelReturn := { d := kw.d, id := kw.id, edge := opEdge kw.op, task }
    let s := s.modSlice w.core w.slot w.slice (fun sl =>
      { sl.tickWindows with pc := sl.pc.next, wait := none, kwait := none, kret := some k
                            out := sl.out ++ locs.map (fun l => { loc := l, by_ := .kernel, pc := sl.pc, id := kw.id }) })
    let s := if opEdge kw.op then s.closeRegion w.core w.slot w.slice (sl.lastLive ||| liveOf locs) sl.pc else s
    if s.now.prompt || kw.d.isNone then s.stepReturn k else s

/-- A kernel instruction traps before it has begun. -/
def State.trapKernel (s : State) (w : SliceRef) (kw : KernelWait) (t : Trap) : State :=
  let word := ((Store.find? s.inflight kw.id).map (·.word)).getD 0
  let s := match Store.find? s.inflight kw.id with
    | some a => s.finish kw.id a
    | none => s
  { s.modSlice w.core w.slot w.slice (fun sl => { sl with wait := none, kwait := none }) with now := { s.now with word } }.takeTrap
    w.core w.slot w.slice { t with lanes := kw.lanes }

/-- Try to begin the instruction a slice waits at. (DEDUCED, log 56) -/
def State.tryBegin (u : KernelUnit) (s : State) (w : SliceRef) : State :=
  match s.wave? w.core w.slot with
  | none => s
  | some x =>
    let sl := x.slice w.slice
    match sl.wait, sl.kwait, sl.kret with
    | some .kernel, some kw, none =>
      if kw.need.any (fun n => !s.drained w.core w.slot w.slice n) then s else
      let s := if kw.need.isSome then u.issued s x kw.op else s
      let kw := { kw with need := none }
      match (if kw.ask.isSome then none else u.check s x w.core kw.op) with
      | some t => s.trapKernel w kw t
      | none => match u.attempt s w x kw with
        | .wait ask s => { s with serial := s.serial + 1 }.modSlice w.core w.slot w.slice (fun sl =>
            { sl with kwait := some { kw with ask, since := some (kw.since.getD s.serial) } })
        | .trap t => s.trapKernel w kw t
        | .done lo hi s => s.startReturn w kw (.result lo hi)
        | .task t s => s.startReturn w kw t
    | _, _, _ => s

/-- Issue a kernel instruction in one slice: it counts on path 5 and waits until it begins, first for what it releases
(17 R311 to R313). (DEDUCED, log 56) -/
def State.issueKernel (u : KernelUnit) (s : State) (x : Ctx) (lanes : List Nat) (op : KernelOp) (d : Option SPair)
    (need : Option FenceNeed) : State :=
  let core := s.now.core
  let slot := s.now.slot
  match s.slice? core slot x.k with
  | none => s
  | some sl =>
    let id := s.serial
    let s := s.launchAccess { core, slot, slice := x.k, gen := s.gen core slot, pc := sl.pc, word := s.now.word, path := some 5
                              kind := .counted, parts := [], lanes := lanesMask lanes, process := x.wave.process
                              secure := s.secureWave x.wave }
    let s := s.modNow x.k (fun sl => { sl with wait := some .kernel, kwait := some { op, d, id, lanes := lanesMask lanes, need } })
    let s := if need.isNone then u.issued s x.wave op else s
    if s.now.prompt then s.tryBegin u { core, slot, slice := x.k } else s

/-- The plan of a kernel instruction: operands, the accesses it releases, its checks, its issue. -/
def planUnit (u : KernelUnit) (sh : Shape) (need : Option FenceNeed) (d : Option SPair) (op : State → Ctx → Slice → KernelOp) (s : State)
    (x : Ctx) (sl : Slice) : Act :=
  planSliceWise sh (opEdge (op s x sl)) (fun s x sl lanes =>
    if x.counterFull 5 sh.g then .wait .counter
    else match s.acquireAhead s.now.core s.now.slot x.k with
      | some id => .wait (.acquire id)
      | none =>
        let need := need.filter (fun n => !s.drained s.now.core s.now.slot x.k n)
        match (if need.isSome then u.early s x.wave (op s x sl) else u.check s x.wave s.now.core (op s x sl)) with
        | some t => .trap { t with lanes := lanesMask lanes }
        | none => .go (fun s => s.issueKernel u x lanes (op s x sl) d need)) s x sl

def issueUnit (u : KernelUnit) (sh : Shape) (need : Option FenceNeed) (d : Option SPair) (op : State → Ctx → Slice → KernelOp) (s : State) : Done :=
  .next (issueEach (planUnit u sh need d op) s)

/-- What a release at a scope awaits. -/
def releaseNeed (scope : Sys2Proof.Scope) : Option FenceNeed := some { loads := true, stores := true, redm := false, scope }

/-- Operands of slice-wise kernel instructions. -/
def kernelShape (g : Option Guard) (regs : List SReg) (pairs : List SPair) (quad : Option SQuad) (d : Option SPair) : Shape :=
  { g, srcs := regs.map (fun r => { reg := .s r }) ++ pairs.map (fun p => { reg := pairReg p, wide := true })
      ++ (quad.map (fun q => quadSrcs q false)).getD [], d := d.map (fun p => (pairReg p, true)) }

def Ctx.sreg (x : Ctx) (sl : Slice) (r : SReg) : W32 := x.readLoc sl (.s r.toNat)

def execWcreate (o : Sys2Proof.WcreateOp) (s : State) : Done :=
  issueUnit kernelUnit (kernelShape o.g [] [] (some o.quad) (some o.d)) none (some o.d) (fun _ x sl => .wcreate o.kind (x.quad sl o.quad)) s
def execPsend (o : Sys2Proof.K2Op) (s : State) : Done :=
  issueUnit kernelUnit (kernelShape o.g [o.a, o.b] [] none (some o.d)) (releaseNeed .cq) (some o.d)
    (fun _ x sl => .psend (x.sreg sl o.a) (x.sreg sl o.b) o.flag) s
def execPrecv (o : Sys2Proof.PrecvOp) (s : State) : Done :=
  issueUnit kernelUnit (kernelShape o.g [] o.landing.toList (some o.quad) (some o.d)) none (some o.d)
    (fun _ x sl => .precv (x.quad sl o.quad) (o.landing.map (x.pair sl)) o.flag) s
def execPnote (o : Sys2Proof.PnoteOp) (s : State) : Done :=
  issueUnit kernelUnit (kernelShape o.g [o.a, o.b] [] none none) (releaseNeed .cq) none (fun _ x sl => .pnote (x.sreg sl o.a) (x.sreg sl o.b)) s
def execWsadd (o : Sys2Proof.WsaddOp) (s : State) : Done :=
  issueUnit kernelUnit (kernelShape o.g [o.a, o.key] [] (some o.quad) (some o.d)) none (some o.d)
    (fun _ x sl => .wsadd (x.sreg sl o.a) (x.quad sl o.quad) (x.sreg sl o.key) o.member) s
def execWsdel (o : Sys2Proof.K2Op) (s : State) : Done :=
  issueUnit kernelUnit (kernelShape o.g [o.a, o.b] [] none (some o.d)) none (some o.d) (fun _ x sl => .wsdel (x.sreg sl o.a) (x.sreg sl o.b)) s
def execWswait (o : Sys2Proof.K2Op) (s : State) : Done :=
  issueUnit kernelUnit (kernelShape o.g [o.a, o.b] [] none (some o.d)) none (some o.d)
    (fun s x sl => .wswait (x.sreg sl o.a) (x.sreg sl o.b) o.flag (s.cltime (s.now.core / 32))) s
def execTarm (o : Sys2Proof.TarmOp) (s : State) : Done :=
  issueUnit kernelUnit (kernelShape o.g [o.a] [o.dur] none (some o.d)) none (some o.d) (fun _ x sl => .tarm (x.sreg sl o.a) (x.pair sl o.dur) o.per) s
def execTcan (o : Sys2Proof.K1Op) (s : State) : Done :=
  issueUnit kernelUnit (kernelShape o.g [o.a] [] none (some o.d)) none (some o.d) (fun _ x sl => .tcan (x.sreg sl o.a)) s
def execOclose (o : Sys2Proof.K1Op) (s : State) : Done :=
  issueUnit kernelUnit (kernelShape o.g [o.a] [] none (some o.d)) none (some o.d) (fun _ x sl => .oclose (x.sreg sl o.a)) s
def execOdup (o : Sys2Proof.K2Op) (s : State) : Done :=
  issueUnit kernelUnit (kernelShape o.g [o.a, o.b] [] none (some o.d)) none (some o.d) (fun _ x sl => .odup (x.sreg sl o.a) (x.sreg sl o.b)) s
def execNslook (o : Sys2Proof.KPairOp) (s : State) : Done :=
  issueUnit kernelUnit (kernelShape o.g [] [o.a] none (some o.d)) none (some o.d) (fun _ x sl => .nslook (x.pair sl o.a)) s
def execNsbind (o : Sys2Proof.NsbindOp) (s : State) : Done :=
  issueUnit kernelUnit (kernelShape o.g o.b.toList [o.a] none (some o.d)) none (some o.d)
    (fun _ x sl => .nsbind (x.pair sl o.a) (o.b.map (x.sreg sl))) s
def execGlaunch (o : Sys2Proof.K1Op) (s : State) : Done :=
  issueUnit kernelUnit (kernelShape o.g [o.a] [] none (some o.d)) none (some o.d) (fun _ x sl => .glaunch (x.sreg sl o.a)) s
def execGcond (o : Sys2Proof.GcondOp) (s : State) : Done :=
  issueUnit kernelUnit (kernelShape o.g [o.a, o.b, o.c] [] none (some o.d)) (releaseNeed .dv) (some o.d)
    (fun _ x sl => .gcond (x.sreg sl o.a) (x.sreg sl o.b) (x.sreg sl o.c) o.kind) s
def execHint (o : Sys2Proof.HintOp) (s : State) : Done :=
  issueUnit kernelUnit (kernelShape o.g [o.a] [] none none) (releaseNeed .sy) none (fun _ x sl => .hint (x.sreg sl o.a) o.flush) s
def execLaunch (o : Sys2Proof.KPairOp) (s : State) : Done :=
  issueUnit kernelUnit (kernelShape o.g [] [o.a] none (some o.d)) (releaseNeed .sy) (some o.d) (fun _ x sl => .launch (x.pair sl o.a)) s
def execOinfo (o : Sys2Proof.OinfoOp) (s : State) : Done :=
  issueUnit kernelUnit (kernelShape o.g [o.a] [] none (some o.d)) none (some o.d) (fun _ x sl => .oinfo (x.sreg sl o.a) o.sel.toNat) s

/-! ### The tables in memory (19 R338 to R341) -/

/-- The header of an object's entry. -/
def State.objHeader (o : Obj) : List Byte := leBytes 4 (bodyType o.body * 2 ^ 28 + 2 ^ 27 + o.refs % 2 ^ 24) ++ leBytes 4 o.owner

/-- A slot of a handle table. -/
def HandleSlot.bytes (e : HandleSlot) : List Byte :=
  leBytes 8 ((if e.used then 2 ^ 63 else 0) + e.rights.toNat * 2 ^ 56 + e.gen.toNat * 2 ^ 48 + e.index)

/-- The unit writes bytes of its tables where they differ from what stands there. -/
def State.putTable (s : State) (a : Nat) (bs : List Byte) : State :=
  if s.homeN .hbm a bs.length = bs then s
  else s.homePut .hbm a bs false

/-- The part of an entry behind its header: no rule gives its layout, so its bytes are free. -/
def State.freePart (s : State) (i : Nat) : List Byte :=
  (List.range 56).map (fun k => BitVec.ofNat 8 (Config.pick (s.fresh + 2 ^ 22 + 64 * (i % 2 ^ 14) + k)))

/-- The entry of an object. -/
def State.writeEntry (s : State) (base i : Nat) (o : Obj) : State :=
  if s.tabled.contains i && s.homeN .hbm (base + 64 * i) 8 = State.objHeader o then s
  else { s with tabled := i :: s.tabled.filter (· ≠ i) }.putTable (base + 64 * i) (State.objHeader o ++ s.freePart i)

/-- The entries of objects that live no longer: not valid. -/
def State.clearEntries (s : State) (base : Nat) : State :=
  let gone := s.tabled.filter (fun i => (s.obj? i).isNone)
  gone.foldl (fun (s : State) i => s.putTable (base + 64 * i) (List.replicate 8 0)) { s with tabled := s.tabled.filter (fun i => !gone.contains i) }

/-- The object table, where firmware has reserved it, and the handle tables of processes hold what the unit keeps; its caches
change timing only (19 R340). (DEDUCED, log 58) -/
def State.writeTables (s : State) : State :=
  let s := match s.objectTable with
    | none => s
    | some base => (s.objects.foldl (fun (s : State) (o : Nat × Obj) => s.writeEntry base o.1 o.2) s).clearEntries base
  s.objects.foldl (fun (s : State) (o : Nat × Obj) => match o.2.body with
    | .process p => if p.tableAddr = 0 then s
      else p.table.foldl (fun (s : State) e => s.putTable (p.tableAddr.toNat + 8 * e.1) e.2.bytes) s
    | _ => s) s

/-! ### Their events -/

/-- The begun kernel instruction of a slice; slots from 64 on name parked waves. -/
def State.kernelReturn (s : State) (w : SliceRef) : Option KernelReturn :=
  if w.slot < 64 then (s.slice? w.core w.slot w.slice).bind (·.kret)
  else ((Store.find? (s.core w.core).parked (w.slot - 64)).bind (fun p => Store.find? p.wave.slices w.slice)).bind (·.kret)

/-- KERNEL_RESULT_RETURN (17 R312, 19 R353, R354): the unit goes on with a begun instruction, and returns its result. -/
def execKernelResultReturn (w : SliceRef) (s : State) : Done :=
  match s.kernelReturn w with
  | some k => .next (s.stepReturn k)
  | none => .next s

/-- TIMER_EXPIRY (19 R350). -/
def execTimerExpiry (cluster index : Nat) (s : State) : Done :=
  match s.body? index with
  | some (.timer t) =>
    .next (if t.armed && t.cluster = cluster && t.deadline ≤ s.cltime cluster then s.modTimer index Timer.expire else s)
  | _ => .next s

/-- WSWAIT_TIMEOUT (17 R323): no member is ready and the timeout has passed. -/
def execWswaitTimeout (w : SliceRef) (s : State) : Done :=
  .next ((s.mates w).foldl (fun (s : State) k =>
    let w := { w with slice := k }
    s.tryBegin { kernelUnit with attempt := fun s w x kw => match kw.op with
      | .wswait h timeout poll start =>
        tryWaitSet s w x h poll (timeout ≠ 0 && timeout.toNat ≤ s.cltime (w.core / 32) - start)
      | _ => .wait kw.ask s } w) s)

/-- WAIT_SET_MEMBER_READY (19 R349): the ready bits that peers keep follow their answers, and every slice that waits on the set is
woken. -/
def execWaitSetMemberReady (set : Nat) (s : State) : Done :=
  let s := match s.waitSet? set with
    | none => s
    | some (_, ms) =>
      let (ms, s) := ms.foldl (fun (r : List (W32 × Member) × State) m =>
        let (m, s) := r.2.pollMember m
        (r.1 ++ [m], s)) ([], s)
      s.setMembers set ms
  let ws := s.kernelWaiters.filter (fun o => match o.2.2.op with
    | .wswait h _ _ _ => s.handleObj o.2.1.process h = some set
    | _ => false)
  let ws := sortBy (fun a b => a.2.1.prio.toNat < b.2.1.prio.toNat
    || (a.2.1.prio = b.2.1.prio && a.2.2.since.getD 0 ≤ b.2.2.since.getD 0)) ws
  .next (ws.foldl (fun (s : State) o => s.tryBegin kernelUnit o.1) s)

end Sys2Proof.Machine
end

