-- ==== Sys2Proof/Machine/Command.lean ====
section
/-!
DEFINITION. The commands of a control port (19 R343, 25 R421, R430, R431, 27 R447, R449, R458, 28 R460, R469 to R471), each
performed at the head of the unit's list, and the rings of records that they name (25 R430, 28 R461).
-/

namespace Sys2Proof.Machine

/-! ### Rings of records (25 R430, 28 R461) -/

/-- The asker of a ring's own process. -/
def State.ringAsker (s : State) (r : RecordRing) : Asker := s.processAsker r.process 0

/-- Write bytes of a ring's descriptor; a fault there is reported by nothing. -/
def State.putRing (s : State) (r : RecordRing) (off : Nat) (bs : List Byte) : State :=
  match s.drainReplicas.writeVirtual (s.ringAsker r) (r.desc.toNat + off) bs with
  | .ok s => s.drainReplicas
  | .error _ => s

/-- One record for a ring: written while unconsumed slots are fewer than the ring holds, and dropped when there is no room or
its slot faults. -/
def State.writeRecord (s : State) (r : RecordRing) (bs : List Byte) : Bool × RecordRing × State :=
  let room : Bool := match s.readVirtual (s.ringAsker r) (r.desc.toNat + 0x18) 8 with
    | .ok b => (r.written + 2 ^ 64 - ofLeBytes b) % 2 ^ 64 < 2 ^ r.lsize
    | .error _ => false
  let slot := (r.base.toNat + bs.length * (r.written % 2 ^ r.lsize)) % 2 ^ 64
  match (bif room then s.writeVirtual (s.ringAsker r) slot bs else .error 0) with
  | .ok s =>
    let r := { r with written := (r.written + 1) % 2 ^ 64 }
    (true, r, s.putRing r 0x10 (leBytes 8 r.written))
  | .error _ =>
    let r := { r with lost := (r.lost + 1) % 2 ^ 64 }
    (false, r, s.putRing r 0x20 (leBytes 8 r.lost))

/-- A cluster writes the records it has begun. -/
def State.flushTrace (s : State) (cluster : Nat) : State :=
  let records := (s.cluster cluster).begun
  let s := s.setCluster cluster { s.cluster cluster with begun := [] }
  records.foldl (fun (s : State) b => match (s.cluster cluster).trace with
    | none => s
    | some r =>
      let (_, r, s) := s.writeRecord r b
      s.setCluster cluster { s.cluster cluster with trace := some r }) s

/-- The 64 bytes of a device event (25 R429). -/
def DevEvent.bytes (e : DevEvent) : List Byte :=
  leBytes 8 e.kind ++ leBytes 8 e.info.toNat ++ (e.body ++ List.replicate 48 0).take 48

/-- I/O die 0 writes the device events that have arisen, each with one event on vector 0. -/
def State.flushEvents (s : State) : State :=
  if s.eventRing.isNone then s
  else s.events.foldl (fun (s : State) e => match s.eventRing with
    | none => s
    | some r =>
      let (ok, r, s) := s.writeRecord r e.bytes
      let s := { s with eventRing := some r }
      if ok then s.countEvent 0 false else s) { s with events := [] }

/-- The fields of a descriptor of a ring, when they keep its rules. -/
def ringFields (b : List Byte) (align : Nat) : Option (W64 × Nat) :=
  let base := word64 b 0
  let w := word32 b 8
  if canonical base && base % align = 0 && w / 16 = 0 && 4 ≤ w && word32 b 0xC = 0 && (b.drop 0x28).all (· = 0) then
    some (BitVec.ofNat 64 base, w) else none

/-- Name a ring by its descriptor: written and lost are set in memory too. (DEDUCED, log 54) -/
def State.nameRing (s : State) (process : Nat) (desc : W64) (align lost : Nat) : Option (RecordRing × State) :=
  let q := s.processAsker process 0
  if desc.toNat % 64 ≠ 0 then none
  else match s.readVirtual q desc.toNat 64 with
    | .error _ => none
    | .ok b => match ringFields b align with
      | none => none
      | some (base, lsize) =>
        match s.writeVirtual q (desc.toNat + 0x10) (leBytes 8 0) with
        | .error _ => none
        | .ok s' => match s'.writeVirtual q (desc.toNat + 0x20) (leBytes 8 lost) with
          | .error _ => none
          | .ok s'' => some ({ process, desc, base, lsize, written := 0, lost }, s''.drainReplicas)

/-! ### Answers -/

/-- The begun instruction that an access counts, in its slice, resident or parked. -/
def State.returnOf (s : State) (id : Nat) : Option KernelReturn :=
  match Store.find? s.inflight id with
  | none => none
  | some a =>
    let sl := if s.gen a.core a.slot = a.gen then s.slice? a.core a.slot a.slice
      else (List.find? (fun (p : Nat × Parked) => p.2.slot = a.slot && p.2.gen = a.gen) (s.core a.core).parked).bind
        (fun p => Store.find? p.2.wave.slices a.slice)
    (sl.bind (·.kret)).filter (fun k => k.id = id)

/-- One source of debug requests. -/
def Security.port (z : Security) : DebugSource → DebugPort
  | .tap => z.tap
  | .window => z.window
def Security.setPort (z : Security) (src : DebugSource) (p : DebugPort) : Security := match src with
  | .tap => { z with tap := p }
  | .window => { z with window := p }

/-- The debug unit answers a source's request (27 R454). -/
def State.respond (s : State) (src : DebugSource) (status : Nat) (data : W64) : State :=
  let p := s.security.port src
  let cmd := ((p.request.getD 0).toNat) % 256
  { s with security := s.security.setPort src { p with
      request := none
      response := BitVec.ofNat 128 ((if status = 0 then data.toNat else 0) * 2 ^ 64 + cmd * 256 + status) } }

/-- Who sent a command gets its value and status. -/
def State.tellCommand (s : State) (c : Command) (value : W32) (status : Nat) : State :=
  let s := match c.reply.bind s.returnOf with
    | some k => s.writeResult k value (BitVec.ofNat 32 status)
    | none => s
  match c.debug with
  | some src => s.respond src 0 (BitVec.ofNat 32 status ++ value)
  | none => s

/-- What performing a command comes to. -/
inductive Performed where
  | done (value : W32) (s : State)
  /-- status 5, with nothing done -/
  | bad
  /-- it goes on later, with this at the head of the list -/
  | later (c : Command) (s : State)

/-- Perform the head command, when its code is this one and the row chosen applies. -/
def performCommand (code : Nat) (applies : Command → Bool) (f : Command → State → Performed) (s : State) : Done :=
  match s.commands with
  | [] => .next s
  | c :: rest =>
    if c.code.toNat = code && applies c then
      match f c s with
      | .done v s => .next ({ s with commands := rest }.tellCommand c v 0)
      | .bad => .next ({ s with commands := rest }.tellCommand c 0 5)
      | .later c s => .next { s with commands := c :: rest }
    else .next s

def anyCommand (_ : Command) : Bool := true

end Sys2Proof.Machine

namespace Sys2Proof.Machine

/-- Operand words at 0x30 and 0x34, and the 64-bit operand at 0x38. -/
def Command.op0 (c : Command) : Nat := (c.ops.getD 0 0).toNat
def Command.op1 (c : Command) : Nat := (c.ops.getD 1 0).toNat
def Command.op2 (c : Command) : W64 := c.ops.getD 3 0 ++ c.ops.getD 2 0

/-- The live process of this package that an identity names. -/
def State.processNamed (s : State) (id : Nat) : Option (Nat × Process) :=
  if id / 2 ^ 24 = 0 && id / 2 ^ 20 = s.chip then
    ((s.process? (objIndex id)).filter (fun p => !p.ended)).map (fun p => (objIndex id, p))
  else none

/-- The core of the slice that sent a command; the debug unit stands on I/O die 0. -/
def State.commandCore (s : State) (c : Command) : Nat := ((c.reply.bind (Store.find? s.inflight)).map (·.core)).getD 0

/-- n bytes at a device-memory address of the sender, every one in a secure region. (DEDUCED, log 54) -/
def State.secureBytes (s : State) (process : Nat) (a : W64) (n : Nat) : Option (List Byte) :=
  let q := s.processAsker process 0
  match s.resolveRange q a.toNat n, s.readVirtual q a.toNat n with
  | .ok rs, .ok b =>
    if rs.all (fun r => r.1 == .hbm && (List.range (r.2.2.2 / 4096 + 1)).all (fun i => s.secureAt (r.2.1 + min (4096 * i) (r.2.2.2 - 1)))) then
      some b else none
  | _, _ => none

/-! ### Commands 1 to 4 (19 R343) -/

/-- CMD_SHOOTDOWN: answered once every cluster has acknowledged (12 R236). -/
def execCmdShootdown (s : State) : Done :=
  performCommand 1 anyCommand (fun c s =>
    match c.await with
    | some id => if s.shotDown id then .done 0 s else .later c s
    | none => match s.processNamed c.op0 with
      | none => .bad
      | some (p, _) =>
        if c.op2.toNat % 4096 ≠ 0 then .bad
        else let (id, s) := s.shoot p c.op2 c.op1; .later { c with await := some id } s) s

/-- CMD_SET_HANDLE_TABLE: every used slot must fit the new table; the others are not copied, and start anew. (DESIGN CHOICE, log 84) -/
def execCmdSetHandleTable (s : State) : Done :=
  performCommand 2 anyCommand (fun c s =>
    match s.processNamed c.op0 with
    | none => .bad
    | some (i, p) =>
      if 2 ≤ c.op1 && c.op1 ≤ 2 ^ 24 && c.op2.toNat % 8 = 0 && p.table.all (fun e => !e.2.used || e.1 < c.op1) then
        .done 0 (s.modProcess i (fun p => { p with
          table := p.table.filter (fun e => e.2.used), tableSize := c.op1, tableAddr := c.op2 }))
      else .bad) s

/-- CMD_CREATE_PROCESS: the vector window has its base in bits 15 to 0 and its count in bits 31 to 16 (log 34). (also log 54, DEDUCED) -/
def execCmdCreateProcess (s : State) : Done :=
  performCommand 3 anyCommand (fun c s =>
    let base := c.op1 % 65536
    let count := c.op1 / 65536
    match s.freeObj (s.commandCore c) with
    | none => .bad
    | some i =>
      if 4 ≤ c.op0 || 2048 < base + count || c.op2.toNat % 4096 ≠ 0 || 2 ^ 52 ≤ c.op2.toNat then .bad
      else
        let supervisor := c.op0.testBit 1
        let p : Process := { root := c.op2, secure := c.op0.testBit 0, supervisor, vecBase := base, vecCount := count }
        let s := s.setObj i { body := .process p, refs := 1, owner := 0 }
        let port := (List.find? (fun (o : Nat × Obj) => o.2.body = .control) s.objects).map (·.1)
        let s := match supervisor, port with
          | true, some j => (s.putHandle i 1 j rightSend).2
          | _, _ => s
        let core := s.commandCore c
        .done (BitVec.ofNat 32 (s.objId i)) (if dieObjects - s.dieCount (pegDie core) < 4096 then s.raiseKernel core c.process 2 else s)) s

/-- CMD_END_PROCESS. (DEDUCED, log 54) -/
def execCmdEndProcess (s : State) : Done :=
  performCommand 4 anyCommand (fun c s =>
    match s.processNamed c.op0 with
    | none => .bad
    | some (i, p) =>
      .done 0 (((p.table.foldl (fun (s : State) e => s.closeSlot i e.1) s).modProcess i (fun p => { p with ended := true })).unref [i])) s

/-! ### Commands 5 and 6 (25 R421, R431) -/

/-- The fields of a queue descriptor, when they keep its rules; ring and tail stand in the system half. -/
def queueFields (b : List Byte) : Option HostQueue :=
  let ring := word64 b 0
  let tail := word64 b 8
  let head := word64 b 0x10
  let w := word32 b 0x18
  let core := word32 b 0x1C
  let lsize := w / 256 % 16
  let system := fun (a : Nat) => a / 2 ^ 55 = 511
  let request := w.testBit 2
  if system ring && ring % 128 = 0 && system tail && tail % 128 = 0 && canonical head && head % 8 = 0 && w / 4096 = 0 && 1 ≤ lsize
      && w / 64 % 4 = 0 && w % 4 = 0 && core / 2 ^ 15 = 0 && (!request || (core % 64 = 63 && core / 2048 < 12))
      && (b.drop 0x20).all (· = 0) then
    some { ring := BitVec.ofNat 64 ring, tail := BitVec.ofNat 64 tail, headAddr := BitVec.ofNat 64 head, lsize
           floor := w / 16 % 4, port := w.testBit 3, request, core := waveIdCore core }
  else none

/-- CMD_SET_HOST_QUEUE. (DEDUCED, log 54) -/
def execCmdSetHostQueue (s : State) : Done :=
  performCommand 5 anyCommand (fun c s =>
    let q := s.processAsker c.process 0
    let n := c.op0 % 64
    match s.processNamed c.op1, s.readVirtual q c.op2.toNat 64 with
    | some (p, _), .ok b => match queueFields b with
      | none => .bad
      | some h =>
        let onHost := match s.resolve (s.queueAsker p) h.ring.toNat with
          | .ok (.host, _, _, _) => true
          | _ => false
        match s.readVirtual (s.queueAsker p) h.tail.toNat 8 with
        | .error _ => .bad
        | .ok t =>
          if c.op0 / 512 ≠ 0 || c.op0 / 64 % 4 ≠ 0 || !onHost then .bad
          else
            let tail := ofLeBytes t
            let h := { h with enabled := c.op0.testBit 8, process := p, head := tail, seen := tail }
            .done 0 { s with queues := Store.insert s.queues n h }
    | _, _ => .bad) s

/-- CMD_SET_VECTOR. -/
def execCmdSetVector (s : State) : Done :=
  performCommand 6 anyCommand (fun c s =>
    let hold := c.op2.toNat
    if 2048 ≤ c.op0 || c.op1 = 0 || 256 ≤ c.op1 || 1000000 < hold then .bad
    else
      let v := (Store.find? s.vectors c.op0).getD {}
      .done 0 { s with vectors := Store.insert s.vectors c.op0 { v with count := 0, threshold := c.op1, hold } }) s

/-! ### Commands 7, 8 and 13 (27 R447, R449, R458) -/

/-- lcstate permits tenant keys (27 R446). -/
def Security.tenantKeys (z : Security) : Bool := z.lcstate = 2 || z.lcstate = 3

/-- CMD_INSTALL_KEY. (DEDUCED, log 54) -/
def execCmdInstallKey (s : State) : Done :=
  performCommand 7 anyCommand (fun c s =>
    let z := s.security
    match s.secureBytes c.process c.op2 128 with
    | none => .bad
    | some b =>
      if !c.secure || !((1 ≤ c.op0 && c.op0 ≤ 63) || c.op0 = 0xFF) || !z.tenantKeys || z.dbgctl.getLsbD 0 || (b.drop 96).any (· ≠ 0) then .bad
      else
        let w := fun (i : Nat) => (BitVec.ofNat 256 (ofLeBytes ((b.drop (32 * i)).take 32)) : W256)
        let k : MemKey := { xts1 := w 0, xts2 := w 1, kmac := w 2 }
        let z := { z with installSinceWipe := true }
        .done 0 { s with security :=
          if c.op0 = 0xFF then { z with linkKey := k }
          else { z with keys := Store.insert z.keys c.op0 k, keyGen := Store.set z.keyGen 0 c.op0 (Store.get z.keyGen 0 c.op0 + 1) } }) s

/-- A list of exactly n bytes. -/
def fitBytes (n : Nat) (l : List Byte) : List Byte := (l ++ List.replicate n 0).take n

/-- Bytes 0x00 to 0xFF of an attestation report. -/
def Security.report (z : Security) (challenge : List Byte) : List Byte :=
  leBytes 4 1 ++ leBytes 4 z.lcstate
    ++ leBytes 4 ((if z.debugOpened then 1 else 0) + (if z.dbgctl.getLsbD 0 then 2 else 0)) ++ leBytes 4 z.fwVersion
    ++ leBytes 8 (Store.get z.sensed 0 0).toNat ++ leBytes 8 (Store.get z.sensed 0 1).toNat
    ++ leBytes 8 (Store.get z.sensed 0 4).toNat ++ List.replicate 24 0 ++ leBytes 64 z.measure.toNat ++ challenge
    ++ fitBytes 64 (Config.attestKey ((List.range 4).map (fun i => Store.get z.sensed 0 (32 + i))))

/-- CMD_ATTEST. -/
def execCmdAttest (s : State) : Done :=
  performCommand 8 anyCommand (fun c s =>
    let q := s.processAsker c.process 0
    match s.readVirtual q c.op2.toNat 64 with
    | .error _ => .bad
    | .ok challenge =>
      let r := s.security.report challenge
      let sig := fitBytes 49856 (Config.attestSign ((List.range 4).map (fun i => Store.get s.security.sensed 0 (32 + i))) r)
      match s.writeVirtual q ((c.op2.toNat + 64) % 2 ^ 64) (r ++ sig) with
      | .error _ => .bad
      | .ok s => .done 0 s) s

/-- The mask continues the count of a thermometer code upward. (DEDUCED, log 54) -/
def continuesCount (word mask : Nat) : Bool :=
  mask ≠ 0 && word &&& mask = 0 && (List.range 65).any (fun n => word ||| mask = 2 ^ n - 1)

/-- A move to RMA asks for a wipe since reset and no key install begun since it. -/
def Security.mayRma (z : Security) : Bool := z.wipeSinceReset && !z.installSinceWipe

/-- The fuse block accepts a FUSEBLOW of a mask (27 R447). -/
def Security.acceptsBlow (z : Security) (fromCommand : Bool) (word mask : Nat) : Bool :=
  let plain := word ≤ 1 || (3 ≤ word && word ≤ 5) || (8 ≤ word && word ≤ 23)
  match z.lcstate, fromCommand with
  | 0, false => plain || (word = 2 && mask = 1)
  | 1, false => plain || (word = 2 && (mask = 2 || mask = 6))
  | 2, true => (word = 3 && continuesCount (Store.get z.fuses 0 3).toNat mask) || (word = 2 && mask = 0xC && z.mayRma)
  | 3, true => (word = 3 && continuesCount (Store.get z.fuses 0 3).toNat mask) || (word = 2 && mask = 8 && z.mayRma)
  | _, _ => false

/-- It accepts a GENSECRET. -/
def Security.acceptsSecret (z : Security) (fromCommand : Bool) : Bool :=
  !fromCommand && (z.lcstate = 0 || z.lcstate = 1) && (List.range 4).all (fun i => Store.get z.fuses 0 (32 + i) = 0)

/-- The words that GENSECRET blows. -/
def State.secretWords (s : State) : List (Nat × W64) := (List.range 4).map (fun i => (32 + i, Config.entropy (s.fresh + i)))

/-- The command is command 13 for GENSECRET. -/
def Command.secret (c : Command) : Bool := c.op0.testBit 16

/-- CMD_FUSEBLOW: answered when the fuses are blown. -/
def execCmdFuseblow (s : State) : Done :=
  performCommand 13 (fun c => !c.secret && !c.started) (fun c s =>
    match s.secureBytes c.process c.op2 8 with
    | none => .bad
    | some b =>
      if !c.secure || c.op0 / 1024 ≠ 0 || !s.security.acceptsBlow true c.op0 (ofLeBytes b) then .bad
      else if s.security.blowing.isSome then .later c s
      else
        let c := { c with started := true }
        .later c { s with security := { s.security with blowing := some ([(c.op0, BitVec.ofNat 64 (ofLeBytes b))], some c, none) } }) s

/-- CMD_GENSECRET: no lifecycle state accepts it from command 13. (DEDUCED, log 54) -/
def execCmdGensecret (s : State) : Done :=
  performCommand 13 (fun c => c.secret && !c.started) (fun c s =>
    if !c.secure || !s.security.acceptsSecret true then .bad
    else if s.security.blowing.isSome then .later c s
    else
      let c := { c with started := true }
      .later c { s with security := { s.security with blowing := some (s.secretWords, some c, none) } }) s

/-- FUSE_BLOW_COMPLETE (27 R447): every bit of the masks is blown, and whoever asked is answered. -/
def execFuseBlowComplete (s : State) : Done :=
  match s.security.blowing with
  | none => .next s
  | some (ws, cmd, src) =>
    let fuses := ws.foldl (fun (m : Store W64) w => Store.set m 0 w.1 (Store.get m 0 w.1 ||| w.2)) s.security.fuses
    let s := { s with security := { s.security with fuses, blowing := none } }
    let s := match cmd with
      | some c => { s with commands := s.commands.erase c }.tellCommand c 0 0
      | none => s
    .next (match src with
      | some src => s.respond src 0 0
      | none => s)

/-! ### Commands 9 to 12 and 14 (28 R460, R469 to R471, 25 R430) -/

/-- CMD_TRACE_RING. -/
def execCmdTraceRing (s : State) : Done :=
  performCommand 9 anyCommand (fun c s =>
    let cl := c.op0 % 16
    if 12 ≤ cl || c.op0 / 512 ≠ 0 || c.op0 / 16 % 16 ≠ 0 then .bad
    else if !(s.cluster cl).begun.isEmpty && (s.cluster cl).trace.isSome then .later c s
    else match s.nameRing c.process c.op2 128 0 with
      | none => .bad
      | some (r, s) => .done 0 (s.setCluster cl { s.cluster cl with trace := if c.op0.testBit 8 then some r else none, begun := [] })) s

/-- CMD_SET_STOPS. -/
def execCmdSetStops (s : State) : Done :=
  performCommand 10 anyCommand (fun c s =>
    match s.processNamed c.op0 with
    | none => .bad
    | some (i, _) =>
      if !s.security.dbgctl.getLsbD 1 || 4 ≤ c.op1 then .bad
      else .done 0 (s.modProcess i (fun p => { p with stops := c.op1.testBit 0, step := c.op1.testBit 1 }))) s

/-- CMD_RESUME. (DEDUCED, log 54) -/
def execCmdResume (s : State) : Done :=
  performCommand 11 anyCommand (fun c s =>
    if 2 ^ 15 ≤ c.op0 || 65536 ≤ c.op1 then .bad
    else .done 0 (s.modWave (waveIdCore c.op0) (waveIdSlot c.op0) (fun x =>
      { x with slices := x.slices.map (fun k => if c.op1.testBit k.1 then (k.1, { k.2 with stopped := false }) else k) }))) s

/-- Counters that the model counts; the others depend on what no rule lets software see, and are free values (log 35). -/
def countedCluster (k : Nat) : Bool := !(4 ≤ k && k ≤ 7)
def countedDie (k : Nat) : Bool := !(1 ≤ k && k ≤ 7)

/-- The sixteen counters of a set. -/
def State.bankWords (s : State) (set : Nat) : List W64 :=
  (List.range 16).map (fun k =>
    let bank := fun (i : Nat) => if set < 12 then Store.get (s.cluster set).bank 0 i else Store.get s.dieBanks 0 (16 * (set - 16) + i)
    if k = 0 then BitVec.ofNat 64 s.cycles - bank 0
    else if if set < 12 then countedCluster k else countedDie k then bank k
    else Config.freeWord (s.fresh + k))

/-- Clear a bank. -/
def State.clearBank (s : State) (set : Nat) : State :=
  if set < 12 then s.setCluster set { s.cluster set with bank := Store.set [] 0 0 (BitVec.ofNat 64 s.cycles) }
  else { s with dieBanks := Store.set (s.dieBanks.filter (fun e => e.1 / 16 ≠ set - 16)) 0 (16 * (set - 16)) (BitVec.ofNat 64 s.cycles) }

/-- CMD_COUNTER_SNAPSHOT. -/
def execCmdCounterSnapshot (s : State) : Done :=
  performCommand 12 anyCommand (fun c s =>
    let set := c.op0
    if !(set < 12 || set = 16 || set = 17) || 2 ≤ c.op1 || c.op2.toNat % 128 ≠ 0 then .bad
    else match s.drainReplicas.writeVirtual (s.processAsker c.process 0) c.op2.toNat ((s.bankWords set).flatMap (fun (x : W64) => leBytes 8 x.toNat)) with
      | .error _ => .bad
      | .ok s => .done 0 (if c.op1 = 1 then s.drainReplicas.clearBank set else s.drainReplicas)) s

/-- CMD_EVENT_RING: events that no ring took are written first, and the number dropped is in lost. -/
def execCmdEventRing (s : State) : Done :=
  performCommand 14 anyCommand (fun c s =>
    if 2 ≤ c.op0 then .bad
    else if s.eventRing.isSome && !s.events.isEmpty then .later c s
    else match s.nameRing c.process c.op2 64 (if c.op0 = 1 then s.eventsLost else 0) with
      | none => .bad
      | some (r, s) => .done 0 (if c.op0 = 1 then { s with eventRing := some r, eventsLost := 0 }.flushEvents else { s with eventRing := none })) s

end Sys2Proof.Machine
end

