-- ==== Sys2Proof/Machine/Host.lean ====
section
/-!
DEFINITION. The host side (chapter 25 R420, R422, R427, R428, 29 R478): queue tails and their snoops, launch records and host
requests read from queues, the host's accesses to exposed HBM, and the links' coming into service.
-/

namespace Sys2Proof.Machine

/-! ### Host queues (25 R420) -/

/-- The address of a record of a queue. -/
def HostQueue.recordAt (h : HostQueue) (k : Nat) : Nat := (h.ring.toNat + 128 * (k % 2 ^ h.lsize)) % 2 ^ 64

/-- The queue works: enabled, and not stopped by a tail out of bounds. -/
def HostQueue.live (h : HostQueue) : Bool := h.enabled && !h.stopped

/-- The host stores bytes of its own memory; it takes the lines it writes away from the device. -/
def State.hostStore (s : State) (writes : List (Nat × Byte)) : State :=
  { s with host := writes.foldl (fun (m : Memory) w => Memory.set m w.1 w.2) s.host
           hostLines := s.hostLines.filter (fun l => !writes.any (fun w => w.1 / 128 = l.1)) }

/-- The device has read this tail: a higher one is taken, one out of bounds stops the queue. -/
def State.takeTail (s : State) (q tail : Nat) (h : HostQueue) : State :=
  if tail ≤ h.seen then s
  else if h.head + 2 ^ h.lsize < tail then
    { s with queues := Store.insert s.queues q { h with stopped := true } }.raiseEvent
      { kind := 3, info := BitVec.ofNat 64 q, body := [] }
  else { s with queues := Store.insert s.queues q { h with seen := tail } }

/-- HOST_TAIL_SNOOP: what the host wrote with it, then the reading of the tail. -/
def execHostTailSnoop (queue : Nat) (writes : List (Nat × Byte)) (s : State) : Done :=
  let s := s.hostStore writes
  match Store.find? s.queues queue with
  | none => .next s
  | some h =>
    if !h.live then .next s
    else match s.readVirtual (s.queueAsker h.process) h.tail.toNat 8 with
      | .ok b => .next (s.takeTail queue (ofLeBytes b) h)
      | .error _ => .next s

/-- HOST_QUEUE_RECORD_HANDOFF: the record at head is read, joins the launch queue while it has room, and its slot is the
host's again.  A record that cannot be read is one whose every field is 0, which is refused (log 38). -/
def execHostQueueRecordHandoff (queue : Nat) (s : State) : Done :=
  match Store.find? s.queues queue with
  | none => .next s
  | some h =>
    if h.live && !h.request && h.head < h.seen && s.launchQueue.length < launchPlaces then
      let bytes := match s.readVirtual (s.queueAsker h.process) (h.recordAt h.head) 128 with
        | .ok b => b
        | .error _ => []
      let r : Submit := { recAddr := BitVec.ofNat 64 (h.recordAt h.head), process := h.process, floor := h.floor
                          source := .host queue, age := 0, cls := max (LaunchRecord.ofBytes bytes).cls h.floor, bytes := some bytes }
      .next ((s.submit r).advanceHead queue)
    else .next s

/-- HOST_REQUEST_RECORD (25 R428): a record of kind 6 for the supervisor the queue names. -/
def execHostRequestRecord (queue : Nat) (s : State) : Done :=
  match Store.find? s.queues queue with
  | none => .next s
  | some h =>
    if h.live && h.request && h.out = 0 && h.head < h.seen then
      let r : MailRecord := { kind := 6, cls := 1, addr := BitVec.ofNat 64 (h.recordAt h.head), aux := BitVec.ofNat 32 queue }
      .next ({ s with queues := Store.insert s.queues queue { h with out := 1 } }.sendRecord h.core r)
    else .next s

/-! ### The host's own accesses (25 R427, R444, 29 R478) -/

/-- Bytes of HBM of a package. -/
def hbmBytes : Nat := 768 * 2 ^ 30

/-- HOST_MEMORY_ACCESS: a relaxed access with its home at the LLC slice; a write to a secure region is discarded, before
the links are in service, or outside the exposed range, nothing is reached, and on a line that a copy engine owns it waits
(10 R218). -/
def execHostMemoryAccess (a : HostAccess) (s : State) : Done :=
  if !s.cxlUp || a.addr < s.exposedBase || s.exposedBase + s.exposedBytes < a.addr + a.size then .next s
  else if s.ownedLine .hbm a.addr a.size then .next s
  else match a.store with
    | some bs => .next (if s.secureAt a.addr || s.secureAt (a.addr + a.size - 1) then s else s.homePut .hbm a.addr (bs.take a.size) false)
    | none => .next (s.checkLine .hbm a.addr)

/-- CXL_HOST_LINK_BRINGUP: the links are in service and firmware has assigned the exposed range, at most all of HBM. (DESIGN CHOICE, log 63) -/
def execCxlHostLinkBringup (base bytes : Nat) (s : State) : Done :=
  if s.phase = .running && base + bytes ≤ hbmBytes then
    .next { s with cxlUp := true, exposedBase := base, exposedBytes := bytes }
  else .next s

end Sys2Proof.Machine
end

