-- ==== Sys2Proof/Machine/Debug.lean ====
section
/-!
DEFINITION. The debug unit with its two sources of requests, and the test access port (27 R453, R454, R456).
-/

namespace Sys2Proof.Machine

/-! ### Requests (27 R454) -/

/-- The fields of a request. -/
structure DebugReq where
  cmd : Nat
  size : Nat
  arg : Nat
  addr : Nat
  data : W64
  /-- the fields that must be 0 are -/
  zeros : Bool

def DebugReq.ofBits (b : BitVec 192) : DebugReq :=
  let w := b.toNat
  let addr := w / 2 ^ 64 % 2 ^ 64
  let cmd := w % 256
  { cmd, size := w / 256 % 4, arg := w / 2 ^ 16 % 2 ^ 16, addr, data := BitVec.ofNat 64 (w / 2 ^ 128)
    zeros := w / 2 ^ 10 % 64 = 0 && w / 2 ^ 32 % 2 ^ 32 = 0
      && (if cmd = 1 || cmd = 2 then addr / 2 ^ 52 = 0 else w / 256 % 4 = 0)
      && (!(3 ≤ cmd && cmd ≤ 6) || addr / 2 ^ 25 = 0) }

/-- The command is one of the ten, and no reserved field is nonzero. -/
def DebugReq.known (r : DebugReq) : Bool := 1 ≤ r.cmd && r.cmd ≤ 10 && r.zeros

/-- A source submits a request, unless its previous one is busy; one of an unknown form is answered at once. -/
def State.submitDebug (s : State) (src : DebugSource) (b : BitVec 192) : State :=
  if (s.security.port src).request.isSome then s
  else
    let r := DebugReq.ofBits b
    let s := { s with
      serial := s.serial + 1
      security := s.security.setPort src { request := some b, response := BitVec.ofNat 128 (r.cmd * 256 + 1), since := s.serial } }
    if r.known then s else s.respond src 4 0

/-- The other source. -/
def otherSource : DebugSource → DebugSource
  | .tap => .window
  | .window => .tap

/-- The request that the unit serves now for a source: the two are served in arrival order. -/
def State.servedRequest (s : State) (src : DebugSource) : Option DebugReq :=
  let p := s.security.port src
  let q := s.security.port (otherSource src)
  if q.request.isSome && q.since < p.since then none else p.request.map DebugReq.ofBits

/-- Serve a command: refused with status 2 where it is not accepted. -/
def serveDebug (cmd : Nat) (src : DebugSource) (accept : State → DebugReq → Bool) (f : DebugReq → State → State) (s : State) : Done :=
  match s.servedRequest src with
  | none => .next s
  | some r =>
    if r.cmd ≠ cmd then .next s
    else if accept s r then .next (f r s) else .next (s.respond src 2 0)

/-- dbgctl bit 0 is 1. -/
def portOpen (s : State) (_ : DebugReq) : Bool := s.security.dbgctl.getLsbD 0
/-- The lifecycle state is BLANK or MFG. -/
def earlyLife (s : State) (_ : DebugReq) : Bool := s.security.lcstate ≤ 1

/-! ### Memory -/

/-- Bytes of a memory command. -/
def DebugReq.bytes (r : DebugReq) : Nat := 2 ^ r.size
/-- The address lies in this package's HBM, aligned to its size. -/
def DebugReq.inHbm (r : DebugReq) : Bool := r.addr + r.bytes ≤ hbmBytes && r.addr % r.bytes = 0

/-- MEMREAD; it waits while a copy engine owns the line (10 R218). -/
def execMemread (src : DebugSource) (s : State) : Done :=
  serveDebug 1 src portOpen (fun r s =>
    if !r.inHbm then s.respond src 3 0
    else if s.ownedLine .hbm r.addr r.bytes then s
    else
      let s := s.checkLine .hbm r.addr
      s.respond src 0 (BitVec.ofNat 64 (ofLeBytes (s.homeRead (primaryDie r.addr) .hbm r.addr r.bytes (s.fresh + 4096))))) s

/-- MEMWRITE, which waits likewise. -/
def execMemwrite (src : DebugSource) (s : State) : Done :=
  serveDebug 2 src portOpen (fun r s =>
    if !r.inHbm then s.respond src 3 0
    else if s.ownedLine .hbm r.addr r.bytes then s
    else (s.homePut .hbm r.addr (leBytes r.bytes r.data.toNat) false).respond src 0 0) s

/-! ### Registers of a stopped slice -/

/-- What the address field of a register command names. -/
def DebugReq.core (r : DebugReq) : Nat := waveIdCore (r.addr % 2 ^ 15)
def DebugReq.slot (r : DebugReq) : Nat := waveIdSlot (r.addr % 2 ^ 15)
def DebugReq.slice (r : DebugReq) : Nat := r.addr / 2 ^ 15 % 16
def DebugReq.lane (r : DebugReq) : Nat := r.addr / 2 ^ 19 % 64

/-- The named slice, when it is stopped and no supervisor's. -/
def State.debugSlice (s : State) (r : DebugReq) : Option (Wave × Slice) :=
  if r.slot = 63 then none
  else match s.wave? r.core r.slot with
    | none => none
    | some x => ((Store.find? x.slices r.slice).filter (·.stopped)).map (fun sl => (x, sl))

/-- The register a field value names; its lane counts within the wave, and lies in the slice (log 36). -/
def DebugReq.loc (r : DebugReq) (x : Wave) : Option Loc :=
  let f := r.arg % 256
  if f < 128 then (if f < x.allot && r.lane / 4 = r.slice then some (.v f (r.lane % 4)) else none)
  else if f < 192 then some (.s (f - 128))
  else none

/-- The slice can be reached: the port is open, and it is stopped. -/
def stoppedSlice (s : State) (r : DebugReq) : Bool := portOpen s r && (s.debugSlice r).isSome

/-- The context in which a register of the slice reads. -/
def State.debugCtx (s : State) (r : DebugReq) (x : Wave) : Ctx :=
  { core := s.core r.core, slot := r.slot, wave := x, k := r.slice, fresh := s.fresh, gang := [r.slice] }

/-- REGREAD. -/
def execRegread (src : DebugSource) (s : State) : Done :=
  serveDebug 3 src stoppedSlice (fun r s => match s.debugSlice r with
    | none => s
    | some (x, sl) => match r.loc x with
      | none => s.respond src 3 0
      | some l => s.respond src 0 (((s.debugCtx r x).readLoc sl l).setWidth 64)) s

/-- Write one register of a slice, the shared value where it is shared. -/
def State.putReg (s : State) (core slot k : Nat) (l : Loc) (v : W32) : State :=
  let s := s.modSlice core slot k (fun sl => sl.write s.fresh l v)
  match l with
  | .v n lane => if ((s.core core).sharedAt slot n).isSome then s.setCore core ((s.core core).setShareVal slot n (4 * k + lane) v) else s
  | .s _ => s

/-- REGWRITE. -/
def execRegwrite (src : DebugSource) (s : State) : Done :=
  serveDebug 4 src stoppedSlice (fun r s => match s.debugSlice r with
    | none => s
    | some (x, _) => match r.loc x with
      | none => s.respond src 3 0
      | some l => (s.putReg r.core r.slot r.slice l (r.data.setWidth 32)).respond src 0 0) s

/-- The special register a command names. -/
def DebugReq.num (r : DebugReq) : Nat := r.arg % 4096

/-- SRREAD: numbers 0x000 to 0x00E. -/
def execSrread (src : DebugSource) (s : State) : Done :=
  serveDebug 5 src (fun s r => stoppedSlice s r && r.num ≤ 0x00E) (fun r s => match s.debugSlice r with
    | none => s
    | some (x, sl) => s.respond src 0 (if r.num = 0x009 then BitVec.ofNat 64 r.lane else s.readSr r.core r.slot r.slice x sl r.num)) s

/-- SRWRITE: tvec, tmask or fflags. -/
def execSrwrite (src : DebugSource) (s : State) : Done :=
  serveDebug 6 src (fun s r => stoppedSlice s r && r.num ≤ 0x002) (fun r s => match s.debugSlice r with
    | none => s
    | some (x, _) => (s.writeSr r.core r.slot x.process r.num r.data).respond src 0 0) s

/-! ### Fuses (27 R447) -/

/-- FUSEREAD. -/
def execFuseread (src : DebugSource) (s : State) : Done :=
  serveDebug 7 src (fun s r => earlyLife s r || portOpen s r) (fun r s =>
    s.respond src 0 (s.security.fuseData (r.arg % 1024))) s

/-- FUSEBLOW: answered when the bits are blown; the block does one operation at a time. -/
def execFuseblow (src : DebugSource) (s : State) : Done :=
  serveDebug 8 src (fun s r => earlyLife s r && s.security.acceptsBlow false (r.arg % 1024) r.data.toNat) (fun r s =>
    if s.security.blowing.isSome then s
    else { s with security := { s.security with blowing := some ([(r.arg % 1024, r.data)], none, some src) } }) s

/-- GENSECRET. -/
def execGensecret (src : DebugSource) (s : State) : Done :=
  serveDebug 9 src (fun s r => earlyLife s r && s.security.acceptsSecret false) (fun _ s =>
    if s.security.blowing.isSome then s
    else { s with security := { s.security with blowing := some (s.secretWords, none, some src) } }) s

/-! ### The secure control port -/

/-- CMDPORT: the message goes to the unit as a PSEND of the secure system process, and is answered with its result. -/
def execCmdport (src : DebugSource) (s : State) : Done :=
  serveDebug 10 src portOpen (fun r s =>
    if s.commands.any (fun c => c.debug = some src) then s
    else if r.addr % 64 ≠ 0 then s.respond src 3 0
    else match s.secureBytes 0 (BitVec.ofNat 64 r.addr) 64 with
      | none => s.respond src 3 0
      | some b =>
        let code := BitVec.ofNat 32 (word32 b 12)
        let w0 := word32 b 0
        if w0 ≠ 0 || code = 0 || 14 < code.toNat then s.respond src 0 (5#32 ++ 0#32)
        else { s with commands := s.commands ++
          [{ code, secure := true, process := 0, ops := (List.range 4).map (fun k => BitVec.ofNat 32 (word32 b (0x30 + 4 * k)))
             reply := none, debug := some src }] }) s

/-! ### The test access port and the debug window (27 R453, R456) -/

/-- A TAP instruction in the instruction register, with what Capture-DR puts in the data register. -/
def State.tapLoad (s : State) (ir : Byte) (dr : List Bool) : State := { s with security := { s.security with ir, dr } }

/-- Bits of a number, least significant first. -/
def bitsOf (n : Nat) (x : Nat) : List Bool := (List.range n).map x.testBit

/-- EXTEST: Update-DR drives the cells' outputs. -/
def execExtest (dr : List Bool) (s : State) : Done :=
  .next { s.tapLoad 0x00 dr with security := { (s.tapLoad 0x00 dr).security with cells := dr, outputs := dr } }

/-- The identification register: die stepping, 0x4B56, the manufacturer identity of fuse word 5, and 1. (DEDUCED, log 55) -/
def State.idcode (s : State) : BitVec 32 :=
  Config.stepping ++ 0x4B56#16 ++ ((Store.get s.security.sensed 0 5).setWidth 11 : BitVec 11) ++ 1#1

/-- IDCODE. -/
def execIdcode (s : State) : Done := .next (s.tapLoad 0x01 (bitsOf 32 s.idcode.toNat))

/-- SAMPLE/PRELOAD: the pins are captured, and Update-DR loads the cells without driving them. -/
def execSamplePreload (pins dr : List Bool) (s : State) : Done :=
  .next { s.tapLoad 0x02 pins with security := { (s.tapLoad 0x02 pins).security with cells := dr } }

/-- DBGREQ: Update-DR submits the request. -/
def execDbgreq (dr : BitVec 192) (s : State) : Done := .next ((s.tapLoad 0x20 (bitsOf 192 dr.toNat)).submitDebug .tap dr)

/-- DBGRSP: Capture-DR captures the response. -/
def execDbgrsp (s : State) : Done := .next (s.tapLoad 0x21 (bitsOf 128 s.security.tap.response.toNat))

/-- BYPASS, and every code that names no instruction. -/
def execBypass (code : BitVec 8) (s : State) : Done :=
  .next (if [0x00, 0x01, 0x02, 0x20, 0x21].contains code.toNat then s else s.tapLoad code [false])

/-- TEST_LOGIC_RESET: the cells no longer drive the pins. -/
def execTestLogicReset (s : State) : Done :=
  .next { s.tapLoad 0x01 [] with security := { (s.tapLoad 0x01 []).security with outputs := [] } }

/-- BAR 0 takes accesses: the links are in service, or the boot ROM waits for an image (27 R455, 29 R478). (DESIGN CHOICE, log 63) -/
def State.barOpen (s : State) : Bool := s.cxlUp || s.phase = .recovery

/-- DEBUG_DOORBELL_WRITE. -/
def execDebugDoorbellWrite (req : BitVec 192) (s : State) : Done :=
  .next (if s.barOpen then s.submitDebug .window req else s)

end Sys2Proof.Machine
end

