-- ==== Sys2Proof/Machine/Rotation.lean ====
section
/-!
DEFINITION. Rings and attention (chapters 21 and 23): ring objects and their join, slots, reservations and forwarding,
attention jobs and the arithmetic of one block, failure, and the end of rings.
-/

namespace Sys2Proof.Machine

/-! ### Ring objects -/

def State.ring? (s : State) (i : Nat) : Option Ring :=
  match s.obj? i with
  | some { body := .ring r, .. } => some r
  | _ => none
def State.modRing (s : State) (i : Nat) (f : Ring → Ring) : State :=
  match s.obj? i with
  | some { body := .ring r, refs, owner } => s.setObj i { body := .ring (f r), refs, owner }
  | _ => s

/-- The ring of this package with a ringid that is not Ended. -/
def State.ringNamed (s : State) (ringid : W32) : Option Nat :=
  (List.find? (fun (o : Nat × Obj) => match o.2.body with
    | .ring r => r.ringid = ringid && r.state ≠ .ended
    | _ => false) s.objects).map (·.1)

def State.liveRings (s : State) : Nat := (s.objects.filter (fun o => match o.2.body with
  | .ring r => r.state ≠ .ended
  | _ => false)).length

def headSize (hcode : Nat) : Nat := 64 * 2 ^ hcode
def blockLength (h : Nat) : Nat := 64 + 512 * h

end Sys2Proof.Machine

namespace Sys2Proof

open Machine

/-- Members, blocks to consume, bytes of a block, the chip at a position, this chip's position (23 R395). -/
def Machine.Ring.size (r : Machine.Ring) : Nat := r.mm1 + 1
def Machine.Ring.total (r : Machine.Ring) : Nat := r.size * r.nloc
def Machine.Ring.bytes (r : Machine.Ring) : Nat := blockLength (headSize r.hcode)
def Machine.Ring.chipAt (r : Machine.Ring) (p : Nat) : Nat := r.members.toNat / 16 ^ p % 16
def Machine.Ring.chips (r : Machine.Ring) : List Nat := (List.range r.size).map r.chipAt
def Machine.Ring.position (r : Machine.Ring) (chip : Nat) : Nat := r.chips.findIdx (· = chip)
def Machine.Ring.index (r : Machine.Ring) (i : Nat) : Machine.RingIndex := (Store.find? r.indices i).getD {}
def Machine.Ring.setIndex (r : Machine.Ring) (i : Nat) (x : Machine.RingIndex) : Machine.Ring := { r with indices := Store.insert r.indices i x }
/-- The next index that the attention engine consumes. -/
def Machine.Ring.next (r : Machine.Ring) : Nat := (r.indices.filter (fun x => x.2.consumed)).length
/-- Slot s is free for index i (23 R397). -/
def Machine.Ring.slotFree (r : Machine.Ring) (i : Nat) : Bool := i < 4 || (r.index (i - 4)).freed
/-- Two records agree in the fields that must (21 R379). -/
def Machine.Ring.mark (r : Machine.Ring) (chip : Nat) : ReadyMark :=
  { chip, ringid := r.ringid, mm1 := r.mm1, dir := r.dir, nloc := r.nloc, members := r.members, ssize := r.ssize, hcode := r.hcode }

/-- What index j owes its neighbours (23 R395, R396): to the forward one or the backward one, and the receiver's index. -/
def Machine.Ring.owes (r : Machine.Ring) (j : Nat) : List (Bool × Nat) :=
  let m := r.size
  let d := j % m
  if r.dir < 2 then (if d = m - 1 then [] else [(r.dir = 0, j + 1)])
  else if d = 0 then (true, j + 1) :: (if 1 ≤ (m - 1) / 2 then [(false, j + 2)] else [])
  else if d % 2 = 1 then (if (d + 1) / 2 < m / 2 then [(true, j + 2)] else [])
  else if d / 2 < (m - 1) / 2 then [(false, j + 2)] else []

/-- Where a received index comes from: from the backward neighbour (a block that moves forward) or the forward one, and
the index it has there. -/
def Machine.Ring.source (r : Machine.Ring) (i : Nat) : Bool × Nat :=
  let d := i % r.size
  if r.dir < 2 then (r.dir = 0, i - 1)
  else if d % 2 = 1 then (true, if d = 1 then i - 1 else i - 2) else (false, i - 2)

/-- The chip of the forward or the backward neighbour of a chip. -/
def Machine.Ring.neighbour (r : Machine.Ring) (chip : Nat) (forward : Bool) : Nat :=
  let p := r.position chip
  r.chipAt (if forward then (p + 1) % r.size else (p + r.size - 1) % r.size)

end Sys2Proof

namespace Sys2Proof.Machine

def RingIndex.want (x : RingIndex) (forward : Bool) : Bool := if forward then x.wantF else x.wantB
def RingIndex.out (x : RingIndex) (forward : Bool) : List Nat := if forward then x.outF else x.outB
def RingIndex.ack (x : RingIndex) (forward : Bool) : List Nat := if forward then x.ackF else x.ackB
def RingIndex.setWant (x : RingIndex) (forward : Bool) : RingIndex := if forward then { x with wantF := true } else { x with wantB := true }
def RingIndex.addOut (x : RingIndex) (forward : Bool) (ns : List Nat) : RingIndex :=
  if forward then { x with outF := x.outF ++ ns } else { x with outB := x.outB ++ ns }
def RingIndex.addAck (x : RingIndex) (forward : Bool) (n : Nat) : RingIndex :=
  if forward then { x with ackF := x.ackF ++ [n] } else { x with ackB := x.ackB ++ [n] }

/-- Packets of a block, of at most 4 KiB each, and the bytes of one (23 R398). -/
def Ring.packets (r : Ring) : Nat := (r.bytes + 4095) / 4096
def Ring.packetBytes (r : Ring) (n : Nat) : Nat := min 4096 (r.bytes - 4096 * n)

/-- Every packet of a block is among these. -/
def Ring.whole (r : Ring) (ns : List Nat) : Bool := (List.range r.packets).all ns.contains

/-- Every forward of an index has been written whole into its receiver's slot. -/
def Ring.forwarded (r : Ring) (j : Nat) : Bool := (r.owes j).all (fun f => r.whole ((r.index j).ack f.1))

/-- Every block has been consumed, forwarded and freed, and the job is complete (21 R384). -/
def Ring.over (r : Ring) : Bool := r.state = .running && r.jobState = 2 && (List.range r.total).all (fun i => (r.index i).freed)

/-! ### Scratch ranges (21 R377, R381, R385) -/

def State.modTeam (s : State) (id : Nat) (f : Team → Team) : State := { s with teams := Store.update s.teams id f }

/-- The home of a range in one window of the team, whoever may access it now. -/
def State.teamRange (s : State) (team cluster va n : Nat) : Option (Nat × Nat) :=
  if 2 ^ 24 ≤ va then none
  else match s.scratchWindow team (cluster * 32 + va / 2 ^ 19) with
    | none => none
    | some (base, size) => if va % 2 ^ 19 + n ≤ size then some (cluster * 32 + va / 2 ^ 19, base + va % 2 ^ 19) else none

/-- Take ranges out of a team's windows, or give them back. -/
def State.removeRanges (s : State) (team : Nat) (rs : List (Nat × Nat × Nat)) : State :=
  s.modTeam team (fun t => { t with removed := t.removed ++ rs })
def State.returnRanges (s : State) (team : Nat) (rs : List (Nat × Nat × Nat)) : State :=
  s.modTeam team (fun t => { t with removed := rs.foldl (fun (l : List (Nat × Nat × Nat)) x => l.erase x) t.removed })

/-! ### The arithmetic of one block (21 R382, 23 R401, R404) -/

def negInf32 : Nat := 0xFF800000

/-- e^x, correctly rounded to f32. -/
def expE (a : Nat) : Nat :=
  match fp32.val a with
  | .nan _ => fp32.nanBits
  | .inf n => if n then 0 else a
  | .num n m e =>
    if m = 0 then 0x3F800000
    else if 12 < (Nat.log2 m : Int) + e then (fp32.round .rne false false 1 (if n then -4096 else 4096)).1
    else if (Nat.log2 m : Int) + e < -40 then 0x3F800000
    else
      let x : Int := if n then -(toFx m e : Int) else toFx m e
      let k := x.fdiv fxLn2
      (fp32.roundFx .rne false (fxExp (x - k * fxLn2).toNat) k).1

/-- a / b in f32. -/
def divE (a b : Nat) : Nat :=
  match fp32.val a, fp32.val b with
  | .nan _, _ | _, .nan _ | .inf _, .inf _ => fp32.nanBits
  | .inf n, .num k _ _ => fp32.infBits (n != k)
  | .num n _ _, .inf k => fp32.signBit (n != k)
  | .num n m e, .num k m' e' =>
    if m' = 0 then (if m = 0 then fp32.nanBits else fp32.infBits (n != k))
    else
      let j := Nat.log2 m' + fp32.mbits + 8
      (fp32.round .rne false (n != k) (m * 2 ^ j / m') (e - e' - j) (m * 2 ^ j % m' ≠ 0)).1

def addE (a b : Nat) : Nat := (fp32.sumProducts .rne false [] [fp32.val a, fp32.val b]).1
def subE (a b : Nat) : Nat := (fp32.sumProducts .rne false [] [fp32.val a, (fp32.val b).neg]).1
def mulE (a b : Nat) : Nat := (fp32.sumProducts .rne false [(fp32.val a, fp32.val b)] []).1
def maxE (a b : Nat) : Nat := (fp32.minMax true a b).1

/-- The group sum of 16 R300. -/
def dotE (ps : List (FVal × FVal)) : Nat :=
  dotGroups .f32 false (ps.length / 32 - 1) (fp32.sumProducts .rne false (ps.take 32) []).1 (ps.drop 32)

/-- BF16 values of a byte range. -/
def bf16s (bs : List Byte) (off n : Nat) : List FVal :=
  (List.range n).map (fun i => bf16.val (ofLeBytes ((bs.drop (off + 2 * i)).take 2)))

/-- A block as it stands in a slot. -/
structure BlockRead where
  kpos : Int
  ntok : Nat
  keys : List (List FVal)
  /-- value columns -/
  cols : List (List FVal)

def BlockRead.ofBytes (h : Nat) (b : List Byte) : BlockRead :=
  let rows := (List.range 128).map (fun j => bf16s b (64 + 256 * h + 2 * h * j) h)
  { kpos := (BitVec.ofNat 32 (word32 b 0)).toInt, ntok := word32 b 4 % 256
    keys := (List.range 128).map (fun j => bf16s b (64 + 2 * h * j) h)
    cols := (List.range h).map (fun c => rows.map (fun r => r.getD c (.num false 0 0))) }

/-- One query row and one block: the new maximum, sum and output row. -/
def attendRow (x : BlockRead) (scale : Nat) (masked : Nat → Bool) (q : List FVal) (m l : Nat) (o : List Nat) : Nat × Nat × List Nat :=
  let sc := x.keys.zipIdx.map (fun k => if masked k.2 then negInf32 else mulE (dotE (q.zip k.1)) scale)
  let mn := sc.foldl maxE m
  if mn = negInf32 then (m, l, o)
  else
    let a := expE (subE m mn)
    let p := sc.map (fun y => expE (subE y mn))
    let sum := (treeFold .add .f32 7 (p.map (BitVec.ofNat 64))).val.toNat
    let pb := p.map (fun y => bf16.val (fp32.convert bf16 .rne false y).1)
    (mn, addE (mulE l a) sum, (o.zip x.cols).map (fun c => addE (mulE c.1 a) (dotE (pb.zip c.2))))

/-- The job after a block. -/
def Job.consume (j : Job) (b : List Byte) : Job :=
  let x := BlockRead.ofBytes j.h b
  let rows := (List.range j.nq).map (fun (i : Nat) =>
    attendRow x j.scale.toNat (fun k => x.ntok ≤ k || (j.causal && j.qpos + (i : Int) < x.kpos + (k : Int))) (bf16s j.q (2 * j.h * i) j.h)
      (j.m.getD i 0).toNat (j.l.getD i 0).toNat ((List.range j.h).map (fun c => (j.o.getD (j.h * i + c) 0).toNat)))
  { j with
    m := rows.map (fun r => BitVec.ofNat 32 r.1), l := rows.map (fun r => BitVec.ofNat 32 r.2.1)
    o := rows.flatMap (fun r => r.2.2.map (BitVec.ofNat 32)), done := j.done + 1 }

/-- The output rows of a finished job. -/
def Job.output (j : Job) : List Byte :=
  (List.range j.nq).flatMap (fun i =>
    let l := (j.l.getD i 0).toNat
    (List.range j.h).flatMap (fun c => leBytes 4 (if l = 0 then 0 else divE (j.o.getD (j.h * i + c) 0).toNat l)))
def Job.statistics (j : Job) : List Byte :=
  (List.range j.nq).flatMap (fun i => leBytes 4 (j.m.getD i 0).toNat ++ leBytes 4 (j.l.getD i 0).toNat)

/-! ### Jobs and their records -/

/-- Write bytes at a scratch address of a team, whatever its windows lack. -/
def State.pokeTeam (s : State) (team cluster va : Nat) (bs : List Byte) : State :=
  match s.teamRange team cluster va bs.length with
  | some at_ => s.pokeScratch at_ 0 bs
  | none => s

/-- Write done, code and state of a job record (21 R380). -/
def State.putJob (s : State) (team cluster addr done code state : Nat) : State :=
  s.pokeTeam team cluster (addr + 0x18) (leBytes 4 done ++ leBytes 4 (code * 2 ^ 24 + state))

/-- The engine of a ring's attending cluster, when it holds the ring's job. -/
def State.ringJob (s : State) (i : Nat) (r : Ring) : Option Job := (s.cluster (r.core / 32)).job.filter (fun j => j.ring = i)
def State.setJob (s : State) (cluster : Nat) (j : Option Job) : State := s.setCluster cluster { s.cluster cluster with job := j }

/-! ### Ends and failures (21 R384, R386, 23 R407) -/

/-- Every wave of the ring's team has retired. -/
def State.teamOver (s : State) (team : Nat) : Bool :=
  match Store.find? s.teams team with
  | none => true
  | some t => t.members ≤ t.retired

/-- The ring is Ended: its ranges return to the team, and a team that waited for it ends. -/
def State.endRing (s : State) (i : Nat) : State :=
  match s.ring? i with
  | none => s
  | some r =>
    if r.state = .ended then s
    else
      let s := s.returnRanges r.team (r.slotRanges ++ (if r.jobState = 2 then [] else r.jobRanges))
      let s := if (s.ringJob i r).isSome then s.setJob (r.core / 32) none else s
      let s := (s.modRing i (fun r => { r with state := .ended })).modTeam r.team (fun t => { t with pins := t.pins - 1 })
      let s := if ((s.obj? i).map (·.refs)).getD 1 = 0 then { s with objects := Store.erase s.objects i } else s
      match Store.find? s.teams r.team with
      | some t => if t.pins = 0 && t.members ≤ t.retired then s.endTeam r.team t else s
      | none => s

/-- With every wave of its team gone, a ring that has failed, or whose work is over, ends. -/
def State.settleRing (s : State) (i : Nat) : State :=
  match s.ring? i with
  | none => s
  | some r => if s.teamOver r.team && (r.state = .failed || r.over) then s.endRing i else s

/-- The ring fails here, its job with it, and every other member is told. (DEDUCED, log 59) -/
def State.failRing (s : State) (i : Nat) (code : Byte) (mismatch : Bool) : State :=
  match s.ring? i with
  | none => s
  | some r =>
    if r.state = .failed || r.state = .ended then s
    else
      let s := match s.ringJob i r with
        | some j => (s.putJob j.team (r.core / 32) j.recAddr.toNat j.done code.toNat 3).setJob (r.core / 32) none
        | none => s
      let s := s.modRing i (fun r => { r with
        state := .failed, failed := true, failCode := code, mismatch := if mismatch then some s.serial else none, jobState := if r.jobState = 1 then 3 else r.jobState })
      ((r.chips.filter (· ≠ s.chip)).foldl (fun (s : State) c => s.sendPacket c 3 none 0 (.ringFail r.ringid code)) s).settleRing i

/-! ### Blocks (23 R397, R398) -/

/-- The local slot of an index. -/
def Ring.slotAt (r : Ring) (i : Nat) : Nat × Nat :=
  match r.slotRanges[i % 4]? with
  | some x => (x.1, x.2.1)
  | none => (0, 0)

/-- Send every packet that stands whole in the slot to the receivers that have reserved it. -/
def State.forwardIndex (s : State) (i j : Nat) : State :=
  match s.ring? i with
  | none => s
  | some r =>
    if r.state ≠ .running then s
    else (r.owes j).foldl (fun (s : State) f =>
      match s.ring? i with
      | none => s
      | some r =>
        let x := r.index j
        if !x.want f.1 then s
        else
          let (c, o) := r.slotAt j
          let ready := x.got.filter (fun n => !(x.out f.1).contains n)
          let s := ready.foldl (fun (s : State) n =>
            s.sendPacket (r.neighbour s.chip f.1) 3 none 0 (.ringBlock r.ringid f.2 { number := n, bytes := s.peekN 0 (.scratch c) (o + 4096 * n) (r.packetBytes n) })) s
          s.modRing i (fun r => r.setIndex j (x.addOut f.1 ready))) s

/-- Packets of a block land in its slot, these bytes from the first one's place on. -/
def State.landPackets (s : State) (i j : Nat) (ns : List Nat) (bs : List Byte) : State :=
  match s.ring? i with
  | none => s
  | some r =>
    let x := r.index j
    let s := s.pokeScratch (r.slotAt j) (4096 * ns.headD 0) bs
    let got := x.got ++ ns
    (s.modRing i (fun r => r.setIndex j { x with got, present := r.whole got })).forwardIndex i j

/-- A whole block lands in its slot. -/
def State.landBlock (s : State) (i j : Nat) (bs : List Byte) : State :=
  match s.ring? i with
  | none => s
  | some r => s.landPackets i j (List.range r.packets) bs

/-- The freeing signal: a reservation of an index goes to the neighbour that delivers its block. -/
def State.reserveIndex (s : State) (i j : Nat) : State :=
  match s.ring? i with
  | none => s
  | some r =>
    if j < r.total && j % r.size ≠ 0 then s.sendPacket (r.neighbour s.chip (!(r.source j).1)) 3 none 0 (.ringReserve r.ringid j) else s

/-- Every member has joined: the ring runs, and the first reservations go out. -/
def State.startRing (s : State) (i : Nat) : State :=
  (List.range 4).foldl (fun (s : State) j => s.reserveIndex i j) (s.modRing i (fun r => { r with state := .running }))

/-- Judge the marks of an Armed ring that this chip has marked (21 R379). (DEDUCED, log 59) -/
def State.judgeRing (s : State) (i : Nat) : State :=
  match s.ring? i with
  | none => s
  | some r =>
    if r.state ≠ .armed || !r.ready then s
    else if r.marks.any (fun m => m ≠ r.mark m.chip) then s.failRing i 0 true
    else if (r.chips.filter (· ≠ s.chip)).all (fun c => r.marks.any (fun m => m.chip = c)) then s.startRing i
    else s

/-- A member's mark: matched with this chip's ring of the ringid, or held until one is armed. (DEDUCED, log 59) -/
def State.receiveMark (s : State) (m : ReadyMark) : State :=
  match s.ringNamed m.ringid with
  | none => { s with heldMarks := s.heldMarks ++ [m] }
  | some i => (s.modRing i (fun r => { r with marks := r.marks ++ [m] })).judgeRing i

/-- A receiver's reservation of its index k (23 R397): ignored by a ring that has failed or ended. -/
def State.receiveReservation (s : State) (i k : Nat) : State :=
  match s.ring? i with
  | none => s
  | some r =>
    if (r.state = .armed || r.state = .running) && k < r.total && k % r.size ≠ 0 then
      let (forward, j) := r.source k
      (s.modRing i (fun r => r.setIndex j ((r.index j).setWant forward))).forwardIndex i j
    else s

/-- A packet of a block, in whatever order they come: written only into a slot reserved for its index, while the ring runs. -/
def State.receiveBlock (s : State) (i j : Nat) (p : RingPacket) : State :=
  match s.ring? i with
  | none => s
  | some r =>
    if r.state = .running && j < r.total && j % r.size ≠ 0 && r.slotFree j && p.number < r.packets
        && p.bytes.length = r.packetBytes p.number && !(r.index j).got.contains p.number then s.landPackets i j [p.number] p.bytes
    else s

/-- A peer has written a packet of a block into its slot for index k. -/
def State.blockAcked (s : State) (ringid : W32) (k n : Nat) : State :=
  match s.ringNamed ringid with
  | none => s
  | some i => s.modRing i (fun r =>
      let (forward, j) := r.source k
      r.setIndex j ((r.index j).addAck forward n))

/-- A failure notice: the ring fails, and relays it; marks held for a ring that is no more are void (21 R379). -/
def State.receiveFailure (s : State) (ringid : W32) (code : Byte) : State :=
  match s.ringNamed ringid with
  | some i => s.failRing i code false
  | none => { s with heldMarks := s.heldMarks.filter (fun m => m.ringid ≠ ringid) }

/-! ### The five instructions: checks (21 R375, R377, R381) -/

/-- A ring record, its fields in rule, and its slots as scratch ranges. (DEDUCED, log 59) -/
def State.readRing (s : State) (x : Wave) (core a : Nat) : Except Trap Ring :=
  let bad : Trap := { code := 0x03, lanes := 0 }
  let cl := core / 32
  if a % 64 ≠ 0 then .error bad
  else match s.recordAt x core a 64 with
    | .error t => .error t
    | .ok (p, o) =>
      let b := s.peekN 0 p o 64
      let w4 := word32 b 4
      let mm1 := w4 / 2 ^ 24 % 16
      let members := word64 b 8
      let sbase := word32 b 0x10
      let ssize := word32 b 0x14
      let w18 := word32 b 0x18
      let sbase2 := word32 b 0x1C
      let ltab := word64 b 0x20
      let chips := (List.range (mm1 + 1)).map (fun p => members / 16 ^ p % 16)
      let nloc := w4 / 256 % 256
      if word32 b 0 = 0 || w4 / 2 ^ 28 ≠ 0 || w4 / 2 ^ 18 % 64 ≠ 0 || w4 % 256 ≠ 0 || w18 / 4 ≠ 0 || (b.drop 0x28).any (· ≠ 0) || mm1 = 0
          || w4 / 2 ^ 16 % 4 = 3 || w18 % 4 = 3 || nloc = 0 || 64 < nloc || ssize % 4096 ≠ 0 || 262144 < ssize
          || ssize < roundUp (blockLength (headSize (w18 % 4))) 4096 || sbase % 4096 ≠ 0 || members / 16 ^ (mm1 + 1) ≠ 0
          || !chips.contains s.chip || chips.eraseDups.length ≠ chips.length || !canonical ltab || ltab % 8 ≠ 0
          || (sbase2 ≠ 0 && sbase2 % 4096 ≠ 0) then .error bad
      else
        let parts := if sbase2 = 0 then [(sbase, 4 * ssize)] else [(sbase, 2 * ssize), (sbase2, 2 * ssize)]
        let slots := if sbase2 = 0 then (List.range 4).map (fun i => sbase + i * ssize)
          else [sbase, sbase + ssize, sbase2, sbase2 + ssize]
        match parts.findSome? (fun r => match s.recordAt x core r.1 r.2 with
            | .error t => some t
            | .ok _ => none) with
        | some t => .error t
        | none =>
          if sbase2 ≠ 0 && sbase < sbase2 + 2 * ssize && sbase2 < sbase + 2 * ssize then
            .error { code := 0x08, lanes := 0, addr := BitVec.ofNat 64 (max sbase sbase2) }
          else .ok
            { ringid := BitVec.ofNat 32 (word32 b 0), mm1, dir := w4 / 2 ^ 16 % 4, nloc, members := BitVec.ofNat 64 members
              sbase := BitVec.ofNat 64 sbase, ssize := BitVec.ofNat 32 ssize, hcode := w18 % 4, sbase2 := BitVec.ofNat 64 sbase2
              ltab := BitVec.ofNat 64 ltab, team := x.team, core
              slotRanges := slots.filterMap (fun v => (s.teamRange x.team cl v ssize).map (fun r => (r.1, r.2, ssize))) }

/-- A job record: the job it asks for, but for its starting values, and the ranges of Q, output and statistics. -/
def State.readJob (s : State) (x : Wave) (core ring h a : Nat) : Except Trap (Job × List (Nat × Nat)) :=
  let bad : Trap := { code := 0x03, lanes := 0 }
  if a % 64 ≠ 0 then .error bad
  else match s.recordAt x core a 64 with
    | .error t => .error t
    | .ok (p, o) =>
      let b := s.peekN 0 p o 64
      let qaddr := word32 b 0
      let oaddr := word32 b 4
      let saddr := word32 b 8
      let scale := word32 b 0xC
      let w := word32 b 0x14
      let qt := w / 256 % 256
      if w / 2 ^ 16 ≠ 0 || w / 4 % 64 ≠ 0 || w % 2 ≠ 0 || (b.drop 0x20).any (· ≠ 0) || qt = 0 || 8 < qt || qaddr % 64 ≠ 0 || oaddr % 64 ≠ 0
          || saddr % 8 ≠ 0 || scale / 2 ^ 23 % 256 = 255 then .error bad
      else
        let nq := 16 * qt
        let rs := [(qaddr, nq * 2 * h), (oaddr, nq * 4 * h), (saddr, nq * 8)]
        match rs.findSome? (fun r => match s.recordAt x core r.1 r.2 with
            | .error t => some t
            | .ok _ => none) with
        | some t => .error t
        | none => .ok
          ({ ring, recAddr := BitVec.ofNat 64 a, team := x.team, core, h, nq, scale := BitVec.ofNat 32 scale
             qpos := (BitVec.ofNat 32 (word32 b 0x10)).toInt, causal := w.testBit 1, oaddr := BitVec.ofNat 64 oaddr
             saddr := BitVec.ofNat 64 saddr, q := [], m := [], l := [], o := [], done := 0 }, rs)

/-- The ring handle of an instruction. -/
def ringHandle : KernelOp → Option W32
  | .rotjoin h _ _ | .aearm h _ _ | .aewait h _ _ _ | .rotend h _ => some h
  | _ => none

/-- The ring that an instruction of a wave names. -/
def State.ringOf (s : State) (x : Wave) (op : KernelOp) : Option (Nat × Ring) :=
  ((ringHandle op).bind (s.handleObj x.process)).bind (fun i => (s.ring? i).map (fun r => (i, r)))

/-- Every check of a ring instruction, in the order of 09 R178. -/
def State.rotationTrap (s : State) (x : Wave) (core : Nat) (op : KernelOp) : Option Trap :=
  match s.handleTrap x.process op with
  | some t => some t
  | none =>
    match op, s.ringOf x op with
    | .rotarm a, _ => match s.readRing x core a.toNat with
      | .error t => some t
      | .ok _ => none
    | .aearm h a _, some (i, r) =>
      if r.team ≠ x.team then some { code := 0x31, lanes := 0, aux := h }
      else match s.readJob x core i (headSize r.hcode) a.toNat with
        | .error t => some t
        | .ok _ => none
    | _, some (_, r) => if r.team ≠ x.team then some { code := 0x31, lanes := 0, aux := (ringHandle op).getD 0 } else none
    | _, none => none

/-! ### The five instructions: their beginning -/

/-- ROTARM (21 R377, 23 R395). -/
def tryRotarm (s : State) (w : SliceRef) (x : Wave) (a : W32) : Begun :=
  match s.readRing x w.core a.toNat with
  | .error t => .trap t
  | .ok r =>
    if 64 ≤ s.liveRings then .status 5 s
    else
      let mine := s.heldMarks.filter (fun m => m.ringid = r.ringid)
      match s.create w.core x.process (.ring { r with marks := mine }) 0x7F with
      | .error s => .status 5 s
      | .ok (h, s) =>
        let s := { s with heldMarks := s.heldMarks.filter (fun m => m.ringid ≠ r.ringid) }
        .done h 0 ((s.removeRanges x.team r.slotRanges).modTeam x.team (fun t => { t with pins := t.pins + 1 }))

/-- ROTJOIN marks this chip ready when it issues, if a job is armed (21 R379). -/
def State.markReady (s : State) (x : Wave) (op : KernelOp) : State :=
  match op, s.ringOf x op with
  | .rotjoin _ _ _, some (i, r) =>
    if r.state = .armed && r.jobState = 1 && !r.ready then
      let s := s.modRing i (fun r => { r with ready := true })
      ((r.chips.filter (· ≠ s.chip)).foldl (fun (s : State) c => s.sendPacket c 3 none 0 (.mark (r.mark s.chip))) s).judgeRing i
    else s
  | _, _ => s

/-- ROTJOIN; expired says that its timeout has passed. (DEDUCED, log 59) -/
def tryRotjoin (s : State) (x : Wave) (kw : KernelWait) (expired : Bool) : Begun :=
  let s := s.markReady x kw.op
  match s.ringOf x kw.op with
  | none => .trap { code := 0x30, lanes := 0, aux := (ringHandle kw.op).getD 0 }
  | some (_, r) => match r.state with
    | .ended => .status 3 s
    | .failed => .status (if r.mismatch.any (fun n => kw.id < n) then 15 else 16) s
    | .running => .done (BitVec.ofNat 32 (r.position s.chip)) 0 s
    | .armed => if r.jobState = 0 then .status 18 s else if expired then .status 2 s else .wait none s

/-- A job is armed on the engine: Q is a snapshot, and m, l and O start as they are asked to (21 R381). -/
def State.armJob (s : State) (x : Wave) (i : Nat) (j : Job) (rs : List (Nat × Nat)) (load : Bool) : State :=
  let cl := j.core / 32
  let at_ := fun (k : Nat) => ((rs[k]?).bind (fun r => (s.teamRange x.team cl r.1 r.2).map (fun a => (a.1, a.2, r.2)))).getD (0, 0, 0)
  let bytes := fun (k : Nat) => s.peekN 0 (.scratch (at_ k).1) (at_ k).2.1 (at_ k).2.2
  let words := fun (b : List Byte) (n first step : Nat) => (List.range n).map (fun e => (BitVec.ofNat 32 (word32 b (first + step * e)) : W32))
  let j := { j with
    q := bytes 0
    m := if load then words (bytes 2) j.nq 0 8 else List.replicate j.nq (BitVec.ofNat 32 negInf32)
    l := if load then words (bytes 2) j.nq 4 8 else List.replicate j.nq 0
    o := if load then words (bytes 1) (j.nq * j.h) 0 4 else List.replicate (j.nq * j.h) 0 }
  let taken := [at_ 1, at_ 2]
  let s := (s.putJob x.team cl j.recAddr.toNat 0 0 1).setJob cl (some j)
  (s.removeRanges x.team taken).modRing i (fun r => { r with jobState := 1, jobDone := 0, jobRanges := taken })

/-- AEARM. (DEDUCED, log 59) -/
def tryAearm (s : State) (w : SliceRef) (x : Wave) (kw : KernelWait) (a : W32) (load : Bool) : Begun :=
  match s.ringOf x kw.op with
  | none => .trap { code := 0x30, lanes := 0, aux := (ringHandle kw.op).getD 0 }
  | some (i, r) => match r.state with
    | .ended => .status 3 s
    | .failed => .status 16 s
    | _ =>
      if (s.cluster (w.core / 32)).job.isSome then .status 17 s
      else match s.readJob x w.core i (headSize r.hcode) a.toNat with
        | .error t => .trap t
        | .ok (j, rs) => .status 0 (s.armJob x i j rs load)

/-- AEWAIT (21 R375, R383). -/
def tryAewait (s : State) (w : SliceRef) (x : Wave) (kw : KernelWait) (poll expired : Bool) : Begun :=
  match s.ringOf x kw.op with
  | none => .trap { code := 0x30, lanes := 0, aux := (ringHandle kw.op).getD 0 }
  | some (_, r) =>
    let done : W32 := BitVec.ofNat 32 r.jobDone
    let s' := s.acquire w.core w.slot .dv
    if r.jobState = 0 then .status 18 s'
    else if r.jobState = 2 then .done done 0 s'
    else if r.jobState = 3 || r.state = .failed || r.state = .ended then .done done 16 s'
    else if poll then .done done 1 s'
    else if expired then .done done 2 s'
    else .wait none s

/-- ROTEND (21 R384). (DEDUCED, log 59) -/
def tryRotend (s : State) (x : Wave) (kw : KernelWait) (abort : Bool) : Begun :=
  match s.ringOf x kw.op with
  | none => .trap { code := 0x30, lanes := 0, aux := (ringHandle kw.op).getD 0 }
  | some (i, r) =>
    if r.state = .ended then .status (if r.failed then 16 else 0) s
    else if r.state = .failed then .status 16 (s.endRing i)
    else if abort then .status 0 ((s.failRing i 0 false).endRing i)
    else if r.over then .status 0 (s.endRing i)
    else .wait none s

/-- Try to begin a ring instruction. -/
def tryRotation (s : State) (w : SliceRef) (x : Wave) (kw : KernelWait) : Begun :=
  match kw.op with
  | .rotarm a => tryRotarm s w x a
  | .rotjoin _ _ _ => tryRotjoin s x kw false
  | .aearm _ a load => tryAearm s w x kw a load
  | .aewait _ _ poll _ => tryAewait s w x kw poll false
  | .rotend _ abort => tryRotend s x kw abort
  | _ => .wait kw.ask s

def rotationUnit : KernelUnit :=
  { check := State.rotationTrap, early := fun s x op => s.handleTrap x.process op, attempt := tryRotation, issued := State.markReady }

def execRotarm (o : Sys2Proof.K1Op) (s : State) : Done :=
  issueUnit rotationUnit (kernelShape o.g [o.a] [] none (some o.d)) (releaseNeed .tm) (some o.d) (fun _ x sl => .rotarm (x.sreg sl o.a)) s
def execRotjoin (o : Sys2Proof.K2Op) (s : State) : Done :=
  issueUnit rotationUnit (kernelShape o.g [o.a, o.b] [] none (some o.d)) (releaseNeed .dv) (some o.d)
    (fun s x sl => .rotjoin (x.sreg sl o.a) (x.sreg sl o.b) (s.cltime (s.now.core / 32))) s
/-- AEARM reads the record and Q at their home, behind the slice's own stores to scratch (13 R259). -/
def execAearm (o : Sys2Proof.K2Op) (s : State) : Done :=
  issueUnit rotationUnit (kernelShape o.g [o.a, o.b] [] none (some o.d)) (some { loads := false, stores := true, redm := false, scope := .tm })
    (some o.d) (fun _ x sl => .aearm (x.sreg sl o.a) (x.sreg sl o.b) o.flag) s
def execAewait (o : Sys2Proof.K2Op) (s : State) : Done :=
  issueUnit rotationUnit (kernelShape o.g [o.a, o.b] [] none (some o.d)) none (some o.d)
    (fun s x sl => .aewait (x.sreg sl o.a) (x.sreg sl o.b) o.flag (s.cltime (s.now.core / 32))) s
def execRotend (o : Sys2Proof.K1Op) (s : State) : Done :=
  issueUnit rotationUnit (kernelShape o.g [o.a] [] none (some o.d)) none (some o.d) (fun _ x sl => .rotend (x.sreg sl o.a) o.flag) s

/-! ### Events -/

/-- Kernel and ring instructions alike. -/
def isRingOp : KernelOp → Bool
  | .rotarm _ | .rotjoin _ _ _ | .aearm _ _ _ | .aewait _ _ _ _ | .rotend _ _ => true
  | _ => false
def anyUnit : KernelUnit :=
  { check := fun s x core op => if isRingOp op then s.rotationTrap x core op else s.kernelTrap x core op
    early := fun s x op => if isRingOp op then s.handleTrap x.process op else s.valueTrap x op
    attempt := fun s w x kw => if isRingOp kw.op then tryRotation s w x kw else tryKernel s w x kw
    issued := State.markReady }

/-- Try to begin in every slice of the gang that waits with this one. -/
def State.beginMates (u : KernelUnit) (w : SliceRef) (s : State) : State :=
  (s.mates w).foldl (fun (s : State) k => s.tryBegin u { w with slice := k }) s

/-- KERNEL_OP_BEGIN (17 R311). -/
def execKernelOpBegin (w : SliceRef) (s : State) : Done := .next (s.beginMates anyUnit w)

/-- The timeout of an instruction issued at start has passed. -/
def State.timedOut (s : State) (core : Nat) (timeout : W32) (start : Nat) : Bool :=
  timeout ≠ 0 && timeout.toNat ≤ s.cltime (core / 32) - start

/-- ROTJOIN_TIMEOUT (21 R379). -/
def execRotjoinTimeout (w : SliceRef) (s : State) : Done :=
  .next (s.beginMates { rotationUnit with attempt := fun s w x kw => match kw.op with
    | .rotjoin _ timeout start => tryRotjoin s x kw (s.timedOut w.core timeout start)
    | _ => .wait kw.ask s } w)

/-- AEWAIT_TIMEOUT (21 R383). -/
def execAewaitTimeout (w : SliceRef) (s : State) : Done :=
  .next (s.beginMates { rotationUnit with attempt := fun s w x kw => match kw.op with
    | .aewait _ timeout poll start => tryAewait s w x kw poll (s.timedOut w.core timeout start)
    | _ => .wait kw.ask s } w)

/-- ROTEND_COMPLETE (21 R384): a waiting ROTEND ends the ring; so does the end of the team's last wave. -/
def execRotendComplete (w : SliceRef) (s : State) : Done :=
  .next (s.beginMates { rotationUnit with attempt := fun s _ x kw => match kw.op with
    | .rotend _ abort => tryRotend s x kw abort
    | _ => .wait kw.ask s } w)

/-- RING_READY_MARK_RECEIVE (21 R379). -/
def execRingReadyMarkReceive (m : ReadyMark) (s : State) : Done := .next (s.receiveMark m)

/-- A local block and its header, or the code of a failure (21 R378, R386). -/
def State.localBlock (s : State) (process : Nat) (r : Ring) (k : Nat) : Except Byte (List Byte) :=
  let q := s.processAsker process (r.core / 32)
  match s.readVirtual q ((r.ltab.toNat + 8 * k) % 2 ^ 64) 8 with
  | .error c => .error c
  | .ok e =>
    let a := ofLeBytes e
    if a % 64 ≠ 0 then .error 0x03
    else match s.readVirtual q a r.bytes with
      | .error c => .error c
      | .ok b =>
        let w := word32 b 4
        if w = 0 || 128 < w || ((b.take 64).drop 16).any (· ≠ 0) then .error 0x03 else .ok b

/-- RING_BLOCK_INJECT (23 R397): an own block is copied into its free slot. -/
def execRingBlockInject (ring index : Nat) (s : State) : Done :=
  match s.obj? ring, s.ring? ring with
  | some o, some r =>
    if r.state = .running && index < r.total && index % r.size = 0 && r.slotFree index && (r.index index).got = [] then
      match s.localBlock (objIndex o.owner) r (index / r.size) with
      | .error code => .next (s.failRing ring code false)
      | .ok b => .next (s.landBlock ring index b)
    else .next s
  | _, _ => .next s

/-- RING_RESERVATION_RECEIVE (23 R398). -/
def execRingReservationReceive (ring index : Nat) (s : State) : Done := .next (s.receiveReservation ring index)

/-- RING_BLOCK_PACKET_RECEIVE (23 R398). -/
def execRingBlockPacketReceive (ring index : Nat) (data : RingPacket) (s : State) : Done := .next (s.receiveBlock ring index data)

/-- RING_INDEX_FREE (23 R398): consumed and forwarded; then index + 4 is reserved, or may be injected. -/
def execRingIndexFree (ring index : Nat) (s : State) : Done :=
  match s.ring? ring with
  | none => .next s
  | some r =>
    let x := r.index index
    if r.state = .running && index < r.total && x.present && x.consumed && !x.freed && r.forwarded index then
      let s := s.modRing ring (fun r => r.setIndex index { x with freed := true })
      .next ((s.reserveIndex ring (index + 4)).settleRing ring)
    else .next s

/-- The job is complete: output and statistics are written, their ranges return, and state is 2 (21 R382). -/
def State.finishJob (s : State) (i : Nat) (j : Job) : State :=
  let cl := j.core / 32
  let s := (s.pokeTeam j.team cl j.oaddr.toNat j.output).pokeTeam j.team cl j.saddr.toNat j.statistics
  let s := ((s.putJob j.team cl j.recAddr.toNat j.done 0 2).setJob cl none).modRing i (fun r => { r with jobState := 2 })
  (s.returnRanges j.team (((s.ring? i).map (·.jobRanges)).getD [])).settleRing i

/-- AE_BLOCK_CONSUME (21 R382, 23 R396). -/
def execAeBlockConsume (cluster : Nat) (s : State) : Done :=
  match (s.cluster cluster).job with
  | none => .next s
  | some j =>
    match s.ring? j.ring with
    | none => .next s
    | some r =>
      let i := r.next
      let x := r.index i
      if r.state = .running && i < r.total && x.present && !x.consumed then
        let (c, o) := r.slotAt i
        let j := j.consume (s.peekN 0 (.scratch c) o r.bytes)
        let s := (s.putJob j.team cluster j.recAddr.toNat j.done 0 1).setJob cluster (some j)
        let s := s.modRing j.ring (fun r => { r.setIndex i { x with consumed := true } with jobDone := j.done })
        .next (if i + 1 = r.total then s.finishJob j.ring j else s)
      else .next s

/-- RING_FAILURE_NOTICE (23 R407). -/
def execRingFailureNotice (ringid : W32) (code : BitVec 8) (s : State) : Done := .next (s.receiveFailure ringid code)

end Sys2Proof.Machine
end

