-- ==== Sys2Proof/Machine/Fabric.lean ====
section
/-!
DEFINITION. The scale-up fabric (chapter 20): ports and cliques, requests of peers and their streams, this package's own
requests with their retries and responses, degraded links, and access tables.
-/

namespace Sys2Proof.Machine

/-! ### Ports and cliques (20 R356, R357, R365) -/

def portBanks : Nat := 24
def Port.banks (p : Port) : Nat := portBanks - p.retired.length

/-- The channels a port serves with its remaining banks. -/
def Port.serves (p : Port) (vc : Nat) : Bool :=
  let b := p.banks
  p.inService && vc ≤ 5 && (if 16 ≤ b then true else if 9 ≤ b then vc ≠ 4 else if 7 ≤ b then vc = 0 || vc = 3 || vc = 5
    else if 2 ≤ b then vc = 0 || vc = 5 else b = 1 && vc = 0)

/-- Ports of each peer's group. -/
def groupSize (n : Nat) : Nat := 48 / (n - 1)

/-- An assignment of ports to peers that R357 allows: every peer its group, as evenly as possible over the two I/O dies. -/
def portsOk (size chip : Nat) (ports : List (Nat × Nat)) : Bool :=
  (ports.map (·.1)).eraseDups.length = ports.length && ports.all (fun p => p.1 < 48 && p.2 < size && p.2 ≠ chip)
    && ((List.range size).filter (· ≠ chip)).all (fun c =>
      let on := fun (die : Nat) => (ports.filter (fun p => p.2 = c && p.1 / 24 = die)).length
      on 0 + on 1 = groupSize size && on 0 ≤ on 1 + 1 && on 1 ≤ on 0 + 1)

/-- CLIQUE_FORMATION (20 R356): once, by secure firmware at boot. -/
def execCliqueFormation (size chip : Nat) (ports : List (Nat × Nat)) (s : State) : Done :=
  if s.phase = .running && s.cliqueSize = 1 && 8 ≤ size && size ≤ 16 && chip < size && portsOk size chip ports then
    .next { s with
      chip, cliqueSize := size
      ports := ports.foldl (fun (m : Store Port) p => Store.insert m p.1 { inService := true, peer := p.2 }) s.ports }
  else .next s

/-- A bank of a port's receive buffer is retired; with the last one the port leaves service (20 R365). -/
def State.retireBank (s : State) (port bank : Nat) : State :=
  match Store.find? s.ports port with
  | none => s
  | some p =>
    if bank < portBanks && !p.retired.contains bank then
      let p := { p with retired := p.retired ++ [bank] }
      { s with ports := Store.insert s.ports port { p with inService := p.inService && p.banks ≠ 0 } }
    else s

/-- BUFFER_BANK_RETIRE. -/
def execBufferBankRetire (port bank : Nat) (s : State) : Done := .next (s.retireBank port bank)

/-! ### Access tables (20 R366, R367, 19 R353) -/

def grantPlaces : Nat := 16384
def rangePlaces : Nat := 1024

/-- The table has room for an entry of its kind. (DEDUCED, log 60) -/
def State.entryRoom (s : State) (e : AccessEntry) : Bool :=
  (s.accessTable.filter (fun x => x.kind = e.kind)).length < (if e.kind = 1 then grantPlaces else rangePlaces)

def State.peers (s : State) : List Nat := (List.range s.cliqueSize).filter (· ≠ s.chip)

/-- Change the table, and ask every peer's replica to follow. -/
def State.beginUpdate (s : State) (e : AccessEntry) (remove : Bool) (asker : Option (Nat × Nat × Nat)) : State :=
  let s := { s with accessTable := if remove then s.accessTable.erase e else s.accessTable ++ [e] }
  let (ask, s) := s.askPeers 0 0 (s.peers.map (fun c => (c, 5, .replica e remove)))
  { s with updates := s.updates ++ [{ id := ask, entry := e, remove, ask, asker }] }

/-! ### Packets on the links (20 R362, R363, R366) -/

/-- This goes out on a link. -/
def State.putWire (s : State) (o : WireOut) : State := { s with wire := s.wire ++ [o] }

/-- A packet comes in by a port that serves its channel. -/
def State.arrivesOn (s : State) (port : Nat) (p : Packet) : Bool :=
  (match Store.find? s.ports port with
    | some q => q.serves p.vc
    | none => false) && p.src < s.cliqueSize && p.src ≠ s.chip && p.seq < 2 ^ 32

/-- Bytes that an atomic of a type accesses. -/
def AtomTy.bytes (ty : AtomTy) : Nat := if ty.ty.wide then 8 else 4

/-- The bytes of the destination's memory that a request claims, and whether it writes them. -/
def PacketBody.claim : PacketBody → Option (Nat × Nat × Bool)
  | .read a n => some (a, n, false)
  | .write a bs => some (a, bs.length, true)
  | .atomic a _ ty _ _ | .atomicLanes a _ ty _ => some (a, AtomTy.bytes ty, true)
  | .reduce a _ _ _ => some (a, 4, true)
  | _ => none

/-- A bridge's egress to the destination lets the packet pass (20 R366). -/
def State.bridgeAllows (s : State) (p : Packet) : Bool :=
  match PacketBody.claim p.body with
  | some (a, n, write) => s.egressAllows p.dst p.src p.proc a n write
  | none => true

/-- BRIDGE_FORWARD (20 R363): a detour packet is passed on, or denied (R366); one that fails on the way goes on stomped, its
source is told, and its port counts it. -/
def execBridgeForward (port : Nat) (p : Packet) (failed : Bool) (s : State) : Done :=
  if !(s.arrivesOn port p && p.dst < s.cliqueSize && p.dst ≠ s.chip && p.dst ≠ p.src) then .next s
  else if failed then
    .next (({ s with ports := Store.update s.ports port (fun q => { q with stomps := q.stomps + 1 }) }.putWire
      (.forward { p with stomped := true })).putWire (.stompedNotice p.src p.vc p.seq))
  else .next (s.putWire (if s.bridgeAllows p then .forward p else .denial p.src p.vc p.seq))

/-! ### Streams of arriving requests (20 R362, R363) -/

def State.stream (s : State) (src vc : Nat) : InStream := (Store.find? s.streams (streamKey src vc)).getD {}
def State.setStream (s : State) (src vc : Nat) (x : InStream) : State := { s with streams := Store.insert s.streams (streamKey src vc) x }

/-- How far a sequence number lies beyond the base, modulo 2^32. -/
def InStream.ahead (x : InStream) (seq : Nat) : Nat := (seq + 2 ^ 32 - x.base % 2 ^ 32) % 2 ^ 32
/-- The packet has been performed already. -/
def InStream.recorded (x : InStream) (seq : Nat) : Bool :=
  2 ^ 31 ≤ x.ahead seq || x.open_.contains seq || x.performed.any (fun p => p.1 = seq)

/-- The base moves past performed packets, at most n. -/
def InStream.settle (x : InStream) : Nat → InStream
  | 0 => x
  | n + 1 => if x.open_.contains x.base || x.performed.any (fun p => p.1 = x.base) then
      InStream.settle { x with base := (x.base + 1) % 2 ^ 32 } n else x

/-- The window keeps its last 1,024 entries. (DEDUCED, log 60) -/
def InStream.record (x : InStream) (seq : Nat) (r : Option PeerReply) : InStream :=
  let x := match r with
    | some r => { x with performed := (x.performed ++ [(seq, r)]), open_ := x.open_.filter (· ≠ seq) }
    | none => { x with open_ := x.open_ ++ [seq] }
  let x := x.settle 1025
  { x with performed := x.performed.filter (fun p => x.ahead p.1 < 1024 || 2 ^ 32 - 1024 ≤ x.ahead p.1) }

/-- The 128-byte line a request touches. -/
def bodyLine : PacketBody → Option Nat
  | .read a _ | .write a _ | .atomic a _ _ _ _ | .atomicLanes a _ _ _ | .reduce a _ _ _ => some (a / 128)
  | _ => none

/-- A request may be performed: no earlier packet is missing, and none of its line is held. (DEDUCED, log 60) -/
def InStream.mayPerform (x : InStream) (p : Packet) : Bool :=
  match (bodyLine p.body) with
  | none => true
  | some l => (List.range (x.ahead p.seq)).all (fun i =>
      let q := (x.base + i) % 2 ^ 32
      x.recorded q || x.held.any (fun h => h.seq = q && bodyLine h.body ≠ some l))

/-- A peer's access of memory meets a region or a poisoned line: the code of its error response (20 R368, 27 R444). (DEDUCED, log 60) -/
def State.peerDenied (s : State) (a n : Nat) (whole : Bool) : Option Byte :=
  if !s.worldOk false .hbm a || !s.worldOk false .hbm (a + n - 1) then some 0x23
  else if !whole && (s.isPoisoned .hbm a || s.isPoisoned .hbm (a + n - 1)) then some 0x41
  else none

/-- Atomics of a peer, lane by lane; the old values. -/
def State.peerLanes (s : State) (a : Nat) (kind : AtomKind) (ty : AtomTy) : List (W64 × W64) → List Byte × State
  | [] => ([], s)
  | x :: xs =>
    let n := ty.bytes
    let (old, s) := s.homeRmw false { lane := 0, place := .hbm, addr := a, size := n } noAccess (s.fresh + 8192) (fun old => atomNew kind ty old x.1 x.2)
    let (rest, s) := State.peerLanes (s.countHome .hbm a 9) a kind ty xs
    (leBytes n old.toNat ++ rest, s)

/-- Perform a whole packet's request at its home: the reply, or none while it is to come. -/
def State.performRequest (s : State) (p : Packet) : Option PeerReply × State :=
  let ok := fun (s : State) => ((some .done : Option PeerReply), s)
  match p.body with
  | .read a n => match s.peerDenied a n false with
    | some c => (some (.error c), if c = 0x41 then s.checkLine .hbm a else s)
    | none => (some (.data (s.homeRead (primaryDie a) .hbm a n (s.fresh + 8192))), s)
  | .write a bs => match s.peerDenied a bs.length (a % 128 = 0 && bs.length % 128 = 0) with
    | some c => (some (.error c), if c = 0x41 then s.checkLine .hbm a else s)
    | none => ok (s.homePut .hbm a bs false)
  | .atomic a kind ty x y => match s.peerDenied a ty.bytes false with
    | some c => (some (.error c), if c = 0x41 then s.checkLine .hbm a else s)
    | none => let (bs, s) := s.peerLanes a kind ty [(x, y)]; (some (.data bs), s)
  | .atomicLanes a kind ty xs => match s.peerDenied a ty.bytes false with
    | some c => (some (.error c), if c = 0x41 then s.checkLine .hbm a else s)
    | none => let (bs, s) := s.peerLanes a kind ty xs; (some (.data bs), s)
  | .reduce a kind ty x => match s.peerDenied a 4 false with
    | some c => (some (.error c), if c = 0x41 then s.checkLine .hbm a else s)
    | none =>
      let (_, s) := s.homeRmw false { lane := 0, place := .hbm, addr := a, size := 4 } noAccess (s.fresh + 8192)
        (fun old => (treeNode kind.tree ty old (x.setWidth 64)).val)
      ok (s.countHome .hbm a 10)
  | .reserve port key plen => let (r, s) := s.reservePlace port (p.src, key) plen (s.sendersWait port); (some (.status r), s)
  | .withdraw port key => ok (s.withdrawPlace port (p.src, key))
  | .ship port key m => ok (s.fillPlace port (p.src, key) m)
  | .note port v => ok (s.notifyPort port v)
  | .portInfo port => match s.port? port with
    | some q => (some (.data (leBytes 4 (q.queue.filter (·.ready)).length ++ leBytes 4 q.notify.toNat)), s)
    | none => (some (.data (leBytes 8 0)), s)
  | .giveBack g => ok (s.giveBack g)
  | .bind name port process => let (r, s) := s.bindName name p.src port process; (some (.status r), s)
  | .unbind name process => let (r, s) := s.unbindName name p.src process; (some (.status r), s)
  | .look name => match s.lookName name with
    | some (chip, port) => (some (.data (leBytes 4 chip ++ leBytes 4 port)), if chip = s.chip then s.modPort port (fun q => { q with away := true }) else s)
    | none => (some (.status 4), s)
  | .entryAdd e =>
    if s.entryRoom e then (none, s.beginUpdate e false (some (p.src, p.vc, p.seq))) else (some (.status 1), s)
  | .entryRemove e =>
    if s.accessTable.contains e then (none, s.beginUpdate e true (some (p.src, p.vc, p.seq))) else ok s
  | .replica e remove =>
    let l := (Store.find? s.replicas p.src).getD []
    ok { s with replicas := Store.insert s.replicas p.src (if remove then l.erase e else l ++ [e]) }
  | .mark m => ok (s.receiveMark m)
  | .ringReserve ringid i => ok (match s.ringNamed ringid with
    | some r => s.receiveReservation r i
    | none => s)
  | .ringBlock ringid i data => ok (match s.ringNamed ringid with
    | some r => s.receiveBlock r i data
    | none => s)
  | .ringFail ringid code => ok (s.receiveFailure ringid code)

/-- A packet may be performed: its stream's order allows it, and no copy engine owns its line (10 R218). -/
def State.mayPerform (s : State) (x : InStream) (p : Packet) : Bool :=
  x.mayPerform p && (match bodyLine p.body with
    | some l => !s.ownedLine .hbm (128 * l) 1
    | none => true)

/-- The answer to a request goes out, once there is one. -/
def State.answerPacket (s : State) (p : Packet) (r : Option PeerReply) : State :=
  match r with
  | some r => s.putWire (.response p.src p.vc p.seq r)
  | none => s

/-- Perform a packet, record it and answer it. -/
def State.performPacket (s : State) (p : Packet) : State :=
  let (r, s) := s.performRequest p
  (s.setStream p.src p.vc ((s.stream p.src p.vc).record p.seq r)).answerPacket p r

/-- The response that the window holds for a repeated packet (20 R362). -/
def InStream.recordedReply (x : InStream) (seq : Nat) : Option PeerReply := (x.performed.find? (fun p => p.1 = seq)).map (·.2)

/-- Perform held packets whose turn has come, at most n. -/
def State.drainStream (s : State) (src vc : Nat) : Nat → State
  | 0 => s
  | n + 1 =>
    let x := s.stream src vc
    match x.held.find? (s.mayPerform x) with
    | none => s
    | some p => State.drainStream ((s.setStream src vc { x with held := x.held.erase p }).performPacket p) src vc n

/-- Every held packet that no longer has to wait is performed. -/
def State.drainHeld (s : State) : State :=
  s.streams.foldl (fun (s : State) e =>
    e.2.held.foldl (fun (s : State) p => s.drainStream p.src p.vc 1) s) s

/-- The stream without the requests its source has given up and that never arrived. -/
def InStream.forgive (x : InStream) (seqs : List Nat) : InStream :=
  seqs.foldl (fun (x : InStream) q =>
    if x.recorded q || 1024 ≤ x.ahead q || x.held.any (fun h => h.seq = q) then x else x.record q (some (.error 0x41))) x

/-- What a whole packet says of the requests given up before it: nothing is held for them any longer. (DEDUCED, log 60) -/
def State.heed (s : State) (p : Packet) : State :=
  if p.givenUp.isEmpty then s
  else (s.setStream p.src p.vc ((s.stream p.src p.vc).forgive p.givenUp)).drainStream p.src p.vc 1024

/-- PACKET_RECEIVE (20 R362, R363): a stomped packet is discarded whole, and so is one that fails its check, whose source
is told; a recorded one is answered again. -/
def execPacketReceive (port : Nat) (p : Packet) (s : State) : Done :=
  if !(s.arrivesOn port p && p.dst = s.chip) || p.stomped then .next s
  else if !p.checkOk then .next (s.putWire (.nack p.src p.vc p.seq))
  else
  let s := s.heed p
  let x := s.stream p.src p.vc
  if x.recorded p.seq || 1024 ≤ x.ahead p.seq then .next (s.answerPacket p (x.recordedReply p.seq))
  else if x.held.any (fun h => h.seq = p.seq) then .next s
  else if s.mayPerform x p then .next ((s.performPacket p).drainStream p.src p.vc 1024)
  else .next (s.setStream p.src p.vc { x with held := x.held ++ [p] })

/-- The answer to a request that waited for its table update. -/
def State.answerAsker (s : State) (asker : Option (Nat × Nat × Nat)) : State :=
  match asker with
  | some (src, vc, seq) => (s.setStream src vc ((s.stream src vc).record seq (some .done))).putWire (.response src vc seq .done)
  | none => s

/-- Every replica has acknowledged an update; the peers that could not be reached are asked again. -/
def State.replicasDone (s : State) (u : TableUpdate) : Bool × State :=
  match s.answers u.ask with
  | none => (false, s)
  | some rs =>
    let failed := (s.peers.zip rs).filter (fun r => (PeerReply.failed r.2))
    if failed.isEmpty then (true, { s with inflight := Store.erase s.inflight u.ask })
    else
      let s := { s with inflight := Store.erase s.inflight u.ask }
      let (ask, s) := s.askPeers 0 0 (s.peers.map (fun c => (c, 5, .replica u.entry u.remove)))
      (false, { s with updates := s.updates.map (fun v => if v.id = u.id then { v with ask } else v) })

/-- ACCESS_TABLE_UPDATE (20 R366): this package's secure world writes or takes out a range entry; or an update is complete,
every replica having acknowledged it. (DESIGN CHOICE, log 85) -/
def execAccessTableUpdate (id : TableWork) (s : State) : Done :=
  match id with
  | .write e remove =>
    .next (if e.kind = 2 && (if remove then s.accessTable.contains e else s.entryRoom e) then s.beginUpdate e remove none else s)
  | .complete id => match s.updates.find? (fun u => u.id = id) with
    | none => .next s
    | some u =>
      if u.remove && u.entry.kind = 1 then .next s
      else match s.replicasDone u with
        | (false, s) => .next s
        | (true, s) => .next ({ s with updates := s.updates.erase u }.answerAsker u.asker)

/-- A request admitted under an entry has not been performed. -/
def State.admitted (s : State) (e : AccessEntry) : Bool :=
  s.streams.any (fun x => x.2.held.any (fun p => p.src = e.srcchip && (match (bodyLine p.body) with
    | some l => e.base * 32 ≤ l && l < (e.base + e.pages + 1) * 32
    | none => false)))

/-- GRANT_ENTRY_REMOVE_ACK (19 R353). -/
def execGrantEntryRemoveAck (id : Nat) (s : State) : Done :=
  match s.updates.find? (fun u => u.id = id) with
  | none => .next s
  | some u =>
    if !(u.remove && u.entry.kind = 1) || s.admitted u.entry then .next s
    else match s.replicasDone u with
      | (false, s) => .next s
      | (true, s) => .next ({ s with updates := s.updates.erase u }.answerAsker u.asker)

/-! ### This package's own requests (20 R364, R369, R370) -/

def State.sentAt (s : State) (dst vc seq : Nat) : Option Sent := s.sent.find? (fun p => p.dst = dst && p.vc = vc && p.seq = seq)

/-- The requests of a stream that its source has not had acknowledged, oldest first. -/
def State.unacked (s : State) (dst vc : Nat) : List Sent := s.sent.filter (fun p => p.dst = dst && p.vc = vc)

/-- The request has room in its stream: at most 1,024 are unacknowledged, and a later one waits for its room (20 R362).
(DEDUCED, log 60) -/
def State.hasRoom (s : State) (p : Sent) : Bool := ((s.unacked p.dst p.vc).take 1024).contains p

/-- An acknowledged request leaves its stream, and the first that waits for room goes out now. -/
def State.acknowledge (s : State) (p : Sent) : State :=
  let next := if s.hasRoom p then (s.unacked p.dst p.vc)[1024]? else none
  { s with sent := (s.sent.erase p).map (fun q => if some q = next then { q with since := s.time } else q) }

/-- An answer for the parts of an access that a request carries: its own, and for an atomic those of its location. -/
def Access.answer (a : Access) (i : Nat) (r : PeerReply) : Access :=
  match a.parts[i]? with
  | none => a
  | some p =>
    let shares := fun (q : Part) => (match a.kind with | .atom _ _ _ _ => true | _ => false) && q.place == p.place && q.addr = p.addr
    { a with parts := a.parts.zipIdx.map (fun q => if q.2 = i || shares q.1 then { q.1 with got := some r } else q.1) }

/-- An access whose peers have all answered returns, if it is due; a copy engine looks at the answers to its own writes. -/
def State.completePeer (s : State) (id : Nat) : State :=
  match Store.find? s.inflight id with
  | none => s
  | some a =>
    if !a.parts.all (fun p => !p.place.isPeer || p.got.isSome) then s
    else match a.kind with
      | .load _ _ _ _ _ => s.completeLoadStore id
      | .store => if 64 ≤ a.slot then s else s.completeLoadStore id
      | .atom _ _ _ _ | .redm _ _ => s.completeAtom id
      | .counted => s

/-- The answer to a question that nobody awaits any more: a place it took is given up (17 R311). -/
def State.unasked (s : State) (id : Nat) (p : Sent) : State :=
  match Store.find? s.inflight id, p.body with
  | some a, .reserve _ key _ => if a.cancelled && a.slot = 64 then s.withdrawAsked id key else s
  | some a, _ => if a.cancelled && a.slot = 64 then s.withdrawAsked id 0 else s
  | none, _ => s

/-- A request is over, with this answer. -/
def State.respondTo (s : State) (p : Sent) (r : PeerReply) : State :=
  let s := s.acknowledge p
  match p.access with
  | some id => ({ s with inflight := Store.update s.inflight id (fun a => a.answer p.part r) }.completePeer id).unasked id p
  | none => match p.body, PeerReply.failed r with
    | .ringBlock ringid i data, false => s.blockAcked ringid i data.number
    | .ringBlock ringid _ _, true | .ringReserve ringid _, true => match s.ringNamed ringid with
      | some i => s.failRing i 0x41 false
      | none => s
    | .mark m, true => match s.ringNamed m.ringid with
      | some i => s.failRing i 0x41 false
      | none => s
    | _, _ => s

/-- FABRIC_RESPONSE_RECEIVE (20 R370). -/
def execFabricResponseReceive (dst vc seq : Nat) (r : PeerReply) (s : State) : Done :=
  match s.sentAt dst vc seq with
  | some p => .next (if s.hasRoom p then s.respondTo p r else s)
  | none => .next s

/-- Another attempt of a request that has gone out, or after the fifth 0x41. (DEDUCED, log 60) -/
def State.resend (s : State) (p : Sent) : State :=
  if !s.hasRoom p then s
  else if p.attempts < 5 then
    { s with sent := s.sent.map (fun q => if q = p then { p with attempts := p.attempts + 1, since := s.time } else q) }
  else s.respondTo p (.error 0x41)

/-- STOMPED_NOTICE_RECEIVE (20 R364). -/
def execStompedNoticeReceive (dst vc seq : Nat) (s : State) : Done :=
  match s.sentAt dst vc seq with
  | some p => .next (s.resend p)
  | none => .next s

/-- NACK_RECEIVE (20 R364). -/
def execNackReceive (dst vc seq : Nat) (s : State) : Done :=
  match s.sentAt dst vc seq with
  | some p => .next (s.resend p)
  | none => .next s

/-- RESEND_TIMEOUT (20 R364): 8 µs without a response. -/
def execResendTimeout (dst vc seq : Nat) (s : State) : Done :=
  match s.sentAt dst vc seq with
  | some p => .next (if 8000 ≤ s.time - p.since then s.resend p else s)
  | none => .next s

end Sys2Proof.Machine
end

