-- ==== Sys2Proof/Machine/Boot.lean ====
section
/-!
DEFINITION. Reset, boot and recovery (27 R445, R446, R455 to R457, 29 R477, R478), and uncorrectable errors (29 R475).
-/

namespace Sys2Proof.Machine

/-! ### The firmware image (27 R455) -/

/-- The count of a thermometer code: 1 bits from bit 0 upwards. -/
def thermometer (n : Nat) (w : W64) : Nat := ((List.range n).takeWhile (fun i => w.getLsbD i)).length

/-- Fields of an image: bytes as one list, header first. -/
structure BootImage where
  magic : Nat
  version : Nat
  length : Nat
  entry : Pc
  key : List Byte
  header : List Byte
  signature : List Byte
  body : List Byte

/-- An image whose byte at an offset is f's. -/
def BootImage.ofBytes (f : Nat → Byte) : BootImage :=
  let at_ := fun (o n : Nat) => (List.range n).map (fun i => f (o + i))
  let num := fun (o n : Nat) => ofLeBytes (at_ o n)
  let length := num 0x10 8
  { magic := num 0 4, version := num 8 4, length, entry := Pc.ofBits (BitVec.ofNat 21 (num 0x18 8)), key := at_ 0x20 64
    header := at_ 0 256, signature := at_ 0x100 29792, body := if length ≤ 2 ^ 28 then at_ 0x8000 length else [] }

/-- The key is the fused one. -/
def Security.keyMatches (z : Security) (i : BootImage) : Bool :=
  shake256 i.key = (List.range 8).flatMap (fun k => leBytes 8 (Store.get z.sensed 0 (8 + k)).toNat)

/-- The reason for which the boot ROM rejects an image, 0 when every check passes. -/
def Security.imageReason (z : Security) (i : BootImage) : Nat :=
  if i.magic ≠ 0x4B564649 then 1
  else if 64 ≤ i.version || i.version < thermometer 64 (Store.get z.sensed 0 3) then 2
  else if i.length % 4096 ≠ 0 || 2 ^ 28 < i.length then 3
  else if z.lcstate ≠ 1 && !z.keyMatches i then 4
  else if !Config.verifies i.key (i.header ++ shake256 i.body) i.signature then 5
  else 0

/-- The record the measurement is extended by: that of the image, or in MFG an unmatched key's hash (27 R446, R457). -/
def Security.bootRecord (z : Security) (i : BootImage) : List Byte :=
  if z.lcstate = 1 && !z.keyMatches i then shake256 i.key else shake256 (i.header ++ i.body)

/-- The region entry that makes the image's pages secure, under key 0. -/
def imageRegion (n : Nat) : List (Nat × W64) :=
  let first := Config.imageBase / 4096 % 2 ^ 40
  let last := (Config.imageBase + n - 1) / 4096 % 2 ^ 40
  [(0, BitVec.ofNat 64 (first % 2 ^ 12 * 2 ^ 52 + last * 2 ^ 12)), (1, BitVec.ofNat 64 (3 * 2 ^ 62 + first / 2 ^ 12))]

/-- A segment of the image's body, as the instruction store holds it. -/
def imageSegment (i : BootImage) (seg : BitVec 12) : Segment :=
  { process := 0, code := Config.imageCode, seg, words := some (segmentWords ((i.body.drop (4096 * seg.toNat)).take 4096))
    entered := 0, user := false, lastSeg := i.length / 4096 - 1 }

/-- The image is accepted: it stands in a secure region, the measurement is extended, and the supervisor wave of cluster 0,
core 0 issues at its entry, in the secure world's system process.  Slot 63 of every other core holds its supervisor wave too
(06 R152); no rule says where those begin, and here they enter the image as the first does. (DESIGN CHOICE, log 37) -/
def State.acceptImage (s : State) (i : BootImage) : State :=
  let z := s.security
  let z := (z.extend (z.bootRecord i))
  let sys : Obj := { supervisorProcess with body := match supervisorProcess.body with
    | .process p => .process { p with root := Config.bootRoot false }
    | b => b }
  { s with
    phase := .running
    hbm := Memory.write s.hbm Config.imageBase i.body
    systemRoot := Config.bootRoot true
    security := { z with fwVersion := i.version, recovery := none, regions := imageRegion i.body.length }
    objects := Store.insert (Store.insert s.objects 0 sys) 1 controlPort
    objectTable := some Config.objectTable
    cores := (List.range 384).map (fun c => (c,
      ({ istore := if c = 0 then [imageSegment i i.entry.seg] else []
         waves := [(63, { supervisorWave 0 Config.imageCode i.entry with lastSeg := i.length / 4096 - 1 })] } : Core))) }

/-! ### Reset (27 R448, R455, 29 R478) -/

/-- 32 bytes of key from the entropy source. -/
def freshKey (fresh : Nat) : W256 :=
  Config.entropy (fresh + 3) ++ Config.entropy (fresh + 2) ++ Config.entropy (fresh + 1) ++ Config.entropy fresh

/-- The fuses are sensed and key 0 is generated. (DEDUCED, log 55) -/
def State.senseFuses (s : State) : State :=
  let z := s.security
  { s with security := { z with
      sensed := z.fuses, lcstate := thermometer 4 (Store.get z.fuses 0 2)
      keys := Store.insert z.keys 0 { xts1 := freshKey s.fresh, xts2 := freshKey (s.fresh + 4), kmac := freshKey (s.fresh + 8) } } }

/-- RESET_RELEASE: sensing, then the boot of the flash image; in BLANK, and with an image that fails a check, recovery. -/
def execResetRelease (s : State) : Done :=
  if s.phase ≠ .reset then .next s
  else
    let s := s.senseFuses
    let i := BootImage.ofBytes (Memory.get s.security.flash)
    .next (if s.security.lcstate ≠ 0 && s.security.imageReason i = 0 then s.acceptImage i
      else { s with phase := .recovery, security := { s.security with recovery := some {} } })

/-- RECOVERY_GO: in states 1 and 5 a fetch starts (27 R456). -/
def execRecoveryGo (addr len : W64) (s : State) : Done :=
  match s.security.recovery with
  | none => .next s
  | some r =>
    if r.state = 1 || r.state = 5 then
      .next { s with security := { s.security with recovery := some { state := 2, reason := 0, addr, len } } }
    else .next s

/-- Recovery ends in state 5 with a reason. -/
def State.rejectImage (s : State) (r : Recovery) (reason : Nat) : State :=
  { s with security := { s.security with recovery := some { r with state := 5, reason } } }

/-- RECOVERY_FETCH_COMPLETE: a failed fetch has reason 6; what has been read from the host's memory is checked like a flash
image, and its length against the one the host gave. -/
def execRecoveryFetchComplete (failed : Bool) (s : State) : Done :=
  match s.security.recovery with
  | none => .next s
  | some r =>
    if r.state ≠ 2 then .next s
    else if failed then .next (s.rejectImage r 6)
    else
      let f := fun (o : Nat) => if o < r.len.toNat then Memory.get s.host (r.addr.toNat + o) else 0
      let i := BootImage.ofBytes f
      let reason := s.security.imageReason i
      .next (if reason ≠ 0 && reason ≤ 3 then s.rejectImage r reason
        else if r.len.toNat ≠ 0x8000 + i.length then s.rejectImage r 3
        else if reason ≠ 0 then s.rejectImage r reason
        else s.acceptImage i)

/-- What a reset leaves: the fuses and the flash, and the host's own memory; every counter starts at 0 again (02 R85). -/
def State.cleared (s : State) (phase : Phase) : State :=
  { phase, schedule := s.schedule, fresh := s.fresh, serial := s.serial, host := s.host
    security := { fuses := s.security.fuses, flash := s.security.flash } }

/-- POWER_FAULT_HOLD (29 R477): nothing in the device survives. (DESIGN CHOICE, log 70) -/
def execPowerFaultHold (s : State) : Done := .next (s.cleared .held)

/-- HOST_CLEAR_CONDITION (29 R477): the package leaves the hold, and its reset is released next. (DESIGN CHOICE, log 70) -/
def execHostClearCondition (s : State) : Done :=
  .next (if s.phase = .held then s.cleared .reset else s)

/-! ### Uncorrectable errors (29 R475) -/

/-- SRAM_UNCORRECTABLE_ERROR, by the structure that holds the word; the rule's table gives nothing for the others (log 39). -/
def execSramUncorrectableError (site : SramSite) (s : State) : Done :=
  match site with
  | .llc line => .next (s.poison line)
  | .linkBuffer port bank => .next (s.retireBank port bank)
  | .coreSram core index => .next (s.writeFatal core { kind := 1, wave := waveId core 63, addr := BitVec.ofNat 64 index })
  | .keyTable | .pegbox _ | .other _ => .next s

end Sys2Proof.Machine
end

