-- ==== Sys2Proof/Machine/Dual.lean ====
section
/-!
DEFINITION. Dual words (01 R24, R37): the effect of each dual opcode on one lane, and the word's two halves issued as one,
with every operand and guard read before either half writes (R34).
-/

namespace Sys2Proof.Machine

/-- The type a half's type field names. -/
def halfTy (f : HalfFields) : Sys2Proof.Ty :=
  match f.tym.toNat with
  | 0 => .n32 | 1 => .s32 | 2 => .n64 | 3 => .s64 | 4 => .f32 | 5 => .f16x2 | 6 => .bf16x2 | 7 => .f64
  | 8 => .n16x2 | 9 => .s16x2 | 10 => .n8x4 | 11 => .s8x4 | 12 => .e4m3x4 | 13 => .e5m2x4 | _ => .b32

/-- The register of a dual field. -/
def halfReg (x : BitVec 7) : Reg := if x.getLsbD 6 then .s (x.setWidth 6) else .v (x &&& 63#7)

def halfGuard (f : HalfFields) : Option Guard :=
  if f.pred = 0 then none else some { pred := f.pred.setWidth 6, neg := f.neg }

/-- imm7 as a 32-bit value. -/
def halfImm (f : HalfFields) : W64 := (f.second.signExtend 32).setWidth 64

/-- Operands of a half: the second field first in the list, then the first field when it is read. -/
def halfShape (op : DualOp) (f : HalfFields) : Shape :=
  let b : OpSrc := { reg := halfReg f.second, last := f.last }
  let a : OpSrc := { reg := halfReg f.first }
  let fp := match op with
    | .fadd | .fsub | .fmul | .fmin | .fmax | .fabs | .fneg | .fcmpLt => true
    | _ => false
  match op.use with
  | .nop | .pred _ => { g := halfGuard f, srcs := [] }
  | .arith rd _ => { g := halfGuard f, srcs := if rd then [b, a] else [b], d := some (halfReg f.first, false), fp }
  | .imm rd _ _ => { g := halfGuard f, srcs := if rd then [a] else [], d := some (halfReg f.first, false) }
  | .cmp => { g := halfGuard f, srcs := [b, a], fp }

/-- A half that combines its two fields, the first as left operand. -/
def halfInt (f : IntFn) (h : HalfFields) (x : LaneIn) : LaneOut := { val := intVal f (halfTy h) false x.b x.a 0 }
def halfFloat (f : FloatFn) (h : HalfFields) (x : LaneIn) : LaneOut := floatVal f (halfTy h) x.b x.a 0
def halfLogic (f : W64 → W64 → W64) (x : LaneIn) : LaneOut := { val := f x.b x.a }
/-- A compare: predicate k of the type field. -/
def halfCmp (c : Cond) (t : Sys2Proof.Ty) (h : HalfFields) (x : LaneIn) : LaneOut :=
  { preds := [(h.tym.toNat, condHolds c (elemInt t x.b 0) (elemInt t x.a 0))] }
/-- A predicate operation on the fields' predicates. -/
def halfPred (f : Bool → Bool → Bool) (h : HalfFields) (x : LaneIn) : LaneOut :=
  { preds := [(h.first.toNat % 64, f (x.pred (h.first.toNat % 64)) (x.pred (h.second.toNat % 64)))] }

/-- The effect of a half on one lane (01 R37). -/
def halfEffect (op : DualOp) (h : HalfFields) (x : LaneIn) : LaneOut :=
  match op with
  | .nop => {}
  | .iadd => halfInt intAdd h x
  | .isub => halfInt intSub h x
  | .imul => halfInt intMul h x
  | .imin => halfInt intMinOf h x
  | .imax => halfInt intMaxOf h x
  | .and => halfLogic andVal x
  | .or => halfLogic orVal x
  | .xor => halfLogic xorVal x
  | .andn => halfLogic andnVal x
  | .shl => { val := shlVal 32 false x.b (x.a.toNat % 32) }
  | .shr => { val := shrVal 32 (halfTy h).isSigned x.b (x.a.toNat % 32) }
  | .mov => { val := x.a }
  | .iaddi => { val := intVal intAdd (halfTy h) false x.a (halfImm h) 0 }
  | .movi => { val := halfImm h }
  | .shli => { val := shlVal 32 false x.a h.second.toNat }
  | .shri => { val := shrVal 32 (halfTy h).isSigned x.a h.second.toNat }
  | .icmpEq => halfCmp .eq .s32 h x
  | .icmpNe => halfCmp .ne .s32 h x
  | .icmpLtS => halfCmp .lt .s32 h x
  | .icmpLtN => halfCmp .lt .n32 h x
  | .icmpLeS => halfCmp .le .s32 h x
  | .icmpLeN => halfCmp .le .n32 h x
  | .pand => halfPred (fun a b => a && b) h x
  | .por => halfPred (fun a b => a || b) h x
  | .pxor => halfPred (fun a b => a ^^ b) h x
  | .pnot => halfPred (fun _ b => !b) h x
  | .pmov => halfPred (fun _ b => b) h x
  | .fadd => halfFloat (fAdd .rne false) h x
  | .fsub => halfFloat (fSub .rne false) h x
  | .fmul => halfFloat (fMul .rne false) h x
  | .fmin => halfFloat fMin h x
  | .fmax => halfFloat fMax h x
  | .fabs => floatVal fAbs (halfTy h) x.a 0 0
  | .fneg => floatVal fNeg (halfTy h) x.a 0 0
  | .popc => { val := (popcVal (x.a.setWidth 32)).setWidth 64 }
  | .clz => { val := (clzVal (x.a.setWidth 32)).setWidth 64 }
  | .brev => { val := (brevVal (x.a.setWidth 32)).setWidth 64 }
  | .iabs => { val := intVal intAbs .s32 false x.a 0 0 }
  | .fcmpLt =>
    let r := fcmpVal fp32 .lt (elemNat 32 x.b 0) (elemNat 32 x.a 0)
    { preds := [(h.tym.toNat, r.1)], flags := r.2 }

def halfLane (h : DualHalf) : LaneOp := { sh := halfShape h.op h.f, f := halfEffect h.op h.f }

/-- Issue a dual word whose half X has this opcode. -/
def issueDual (op : DualOp) (x : HalfFields) (y : DualHalf) (s : State) : Done :=
  .next (issueOps [halfLane { op, f := x }, halfLane y] s)

def execDualNop (x : HalfFields) (y : DualHalf) (s : State) : Done := issueDual .nop x y s
def execDualIadd (x : HalfFields) (y : DualHalf) (s : State) : Done := issueDual .iadd x y s
def execDualIsub (x : HalfFields) (y : DualHalf) (s : State) : Done := issueDual .isub x y s
def execDualImul (x : HalfFields) (y : DualHalf) (s : State) : Done := issueDual .imul x y s
def execDualImin (x : HalfFields) (y : DualHalf) (s : State) : Done := issueDual .imin x y s
def execDualImax (x : HalfFields) (y : DualHalf) (s : State) : Done := issueDual .imax x y s
def execDualAnd (x : HalfFields) (y : DualHalf) (s : State) : Done := issueDual .and x y s
def execDualOr (x : HalfFields) (y : DualHalf) (s : State) : Done := issueDual .or x y s
def execDualXor (x : HalfFields) (y : DualHalf) (s : State) : Done := issueDual .xor x y s
def execDualAndn (x : HalfFields) (y : DualHalf) (s : State) : Done := issueDual .andn x y s
def execDualShl (x : HalfFields) (y : DualHalf) (s : State) : Done := issueDual .shl x y s
def execDualShr (x : HalfFields) (y : DualHalf) (s : State) : Done := issueDual .shr x y s
def execDualMov (x : HalfFields) (y : DualHalf) (s : State) : Done := issueDual .mov x y s
def execIaddi (x : HalfFields) (y : DualHalf) (s : State) : Done := issueDual .iaddi x y s
def execMovi (x : HalfFields) (y : DualHalf) (s : State) : Done := issueDual .movi x y s
def execShli (x : HalfFields) (y : DualHalf) (s : State) : Done := issueDual .shli x y s
def execShri (x : HalfFields) (y : DualHalf) (s : State) : Done := issueDual .shri x y s
def execDualIcmpEq (x : HalfFields) (y : DualHalf) (s : State) : Done := issueDual .icmpEq x y s
def execDualIcmpNe (x : HalfFields) (y : DualHalf) (s : State) : Done := issueDual .icmpNe x y s
def execDualIcmpLtS32 (x : HalfFields) (y : DualHalf) (s : State) : Done := issueDual .icmpLtS x y s
def execDualIcmpLtN32 (x : HalfFields) (y : DualHalf) (s : State) : Done := issueDual .icmpLtN x y s
def execDualIcmpLeS32 (x : HalfFields) (y : DualHalf) (s : State) : Done := issueDual .icmpLeS x y s
def execDualIcmpLeN32 (x : HalfFields) (y : DualHalf) (s : State) : Done := issueDual .icmpLeN x y s
def execPand (x : HalfFields) (y : DualHalf) (s : State) : Done := issueDual .pand x y s
def execPor (x : HalfFields) (y : DualHalf) (s : State) : Done := issueDual .por x y s
def execPxor (x : HalfFields) (y : DualHalf) (s : State) : Done := issueDual .pxor x y s
def execPnot (x : HalfFields) (y : DualHalf) (s : State) : Done := issueDual .pnot x y s
def execPmov (x : HalfFields) (y : DualHalf) (s : State) : Done := issueDual .pmov x y s
def execDualFadd (x : HalfFields) (y : DualHalf) (s : State) : Done := issueDual .fadd x y s
def execDualFsub (x : HalfFields) (y : DualHalf) (s : State) : Done := issueDual .fsub x y s
def execDualFmul (x : HalfFields) (y : DualHalf) (s : State) : Done := issueDual .fmul x y s
def execDualFmin (x : HalfFields) (y : DualHalf) (s : State) : Done := issueDual .fmin x y s
def execDualFmax (x : HalfFields) (y : DualHalf) (s : State) : Done := issueDual .fmax x y s
def execDualFabs (x : HalfFields) (y : DualHalf) (s : State) : Done := issueDual .fabs x y s
def execDualFneg (x : HalfFields) (y : DualHalf) (s : State) : Done := issueDual .fneg x y s
def execDualPopc (x : HalfFields) (y : DualHalf) (s : State) : Done := issueDual .popc x y s
def execDualClz (x : HalfFields) (y : DualHalf) (s : State) : Done := issueDual .clz x y s
def execDualBrev (x : HalfFields) (y : DualHalf) (s : State) : Done := issueDual .brev x y s
def execDualIabs (x : HalfFields) (y : DualHalf) (s : State) : Done := issueDual .iabs x y s
def execDualFcmpLtF32 (x : HalfFields) (y : DualHalf) (s : State) : Done := issueDual .fcmpLt x y s

end Sys2Proof.Machine
end

