-- ==== Sys2Proof/Machine/Profile.lean ====
section
/-!
DEFINITION. The retirement of waves with what it ends (06 R150, R151, 21 R384), the counting windows of waves, their stall
reasons and samples (28 R463 to R468, 26 R437), and the boost of gangs (25 R424).
-/

namespace Sys2Proof.Machine

/-! ### Retirement (06 R150, R151, 14 R277) -/

/-- The team's last wave has retired with this ring not Ended (21 R384): Armed, it ends as by an abort; Failed, it ends;
Running, once its work is over. -/
def State.closeTeamRing (s : State) (i : Nat) : State :=
  match s.ring? i with
  | none => s
  | some r => match r.state with
    | .armed => (s.failRing i 0 false).endRing i
    | .failed => s.endRing i
    | .running => s.settleRing i
    | .ended => s

/-- The rings a team has not ended. -/
def State.teamRings (s : State) (team : Nat) : List Nat :=
  s.objects.filterMap (fun o => match o.2.body with
    | .ring r => if r.team = team && r.state ≠ .ended then some o.1 else none
    | _ => none)

/-- The samples of a wave that its sample records have not taken yet. -/
def State.flushSamples (s : State) (core slot : Nat) (x : Wave) : State :=
  match Store.find? s.teams x.team with
  | none => s
  | some t =>
    let tag := ((Store.find? s.launches t.launch).map (·.tag)).getD 0
    if x.count.batch.isEmpty then s else s.beginRecord (core / 32) (sampleRecord (waveId core slot) t.teamid tag x.count.batch)

/-- WAVE_RETIRE. -/
def execWaveRetire (core slot : Nat) (s : State) : Done :=
  match s.wave? core slot with
  | none => .next s
  | some x =>
    if !s.canRetire core slot then .next s
    else
      let s := ((s.core core).shared.filter (fun h => h.slotA = slot || h.slotB = slot)).foldl
        (fun (s : State) h => s.unmapShared core h) s
      let s := s.flushSamples core slot x
      let k := s.core core
      let mine := fun (a : Access) => a.core = core && a.slot = slot && a.gen = s.gen core slot
      let s := { s with inflight := s.inflight.map (fun (a : Nat × Access) =>
        if mine a.2 && a.2.kind.isRead && a.2.path.isNone && queueAgent 0 ≤ a.2.slice then (a.1, { a.2 with cancelled := true }) else a) }
      let s := s.setCore core { k with
        waves := Store.erase k.waves slot, gens := Store.set k.gens 0 slot (Store.get k.gens 0 slot + 1), compacting := none
        passes := k.passes.filter (fun p => p.slot ≠ slot) }
      let s := (s.removeWave x).leaveTeam x.team (waveId core slot) x
      .next ((s.teamRings x.team).foldl (fun (s : State) i => if s.teamOver x.team then s.closeTeamRing i else s) s).queueTeams

/-! ### Stall reasons (28 R463) -/

/-- The reason a wait counts under. (DEDUCED, log 43) -/
def Wait.reason : Wait → Nat
  | .waitc _ _ => 3
  | .fence _ => 12
  | .monitor _ => 5
  | .bwait _ _ _ _ => 4
  | .regang _ | .meeting _ | .shmap _ _ _ | .fullEmpty => 9
  | .kernel | .mailbox | .action | .reply _ | .mbwait => 14
  | .delivery _ | .segment _ => 8
  | .token => 7
  | .storage | .commit => 13
  | .queue => 6
  | .copyPlace | .entropy | .counter | .park => 15
  | .peerLoad _ | .acquire _ | .walker => 0
  | .operand (some { by_ := .memory, .. }) => 0
  | .operand (some { by_ := .kernel, .. }) => 14
  | .operand none => 15

/-- A wait that no longer holds: the awaited write has landed, the access has returned, the segment has come. -/
def State.waitOver (s : State) (core : Nat) (x : Wave) (sl : Slice) : Wait → Bool
  | .operand (some o) => !sl.out.contains o
  | .operand none => true
  | .acquire id => (Store.find? s.inflight id).isNone
  | .segment seg => (s.core core).hasSegment x.image seg
  | .mbwait => !(s.core core).mailbox.isEmpty
  | .mailbox => (s.core core).mailbox.length < mailboxSize
  | _ => false

/-- The reasons that hold for a slice. -/
def State.sliceReasons (s : State) (core : Nat) (x : Wave) (sl : Slice) : List Nat :=
  (match sl.wait with
    | some w => if s.waitOver core x sl w then [] else [w.reason]
    | none => []) ++ (if sl.stopped || x.hold.isSome then [15] else [])

/-- The lowest-numbered reason that holds for a gang; none when it is ready. (DEDUCED, log 43) -/
def State.gangReason (s : State) (core : Nat) (x : Wave) (g : Gang) : Option Nat :=
  (g.slices.flatMap (fun k => s.sliceReasons core x (x.slice k))).foldl (fun (best : Option Nat) r => match best with
    | none => some r
    | some b => some (min b r)) none

/-- The lowest-numbered slice of a gang. -/
def Gang.low (g : Gang) : Nat := g.slices.foldl min 64

/-- The gang with the lowest-numbered slice among those that satisfy a condition. -/
def Wave.lowGang (x : Wave) (ok : Gang → Bool) : Option Gang :=
  (x.gangs.filter ok).foldl (fun (best : Option Gang) g => match best with
    | none => some g
    | some b => if g.low < b.low then some g else some b) none

/-- The class in which a wave arbitrates: the supervisor's is that of the head record, and 3 with none (25 R424). -/
def State.issueClass (s : State) (core slot : Nat) (x : Wave) : Nat :=
  if slot = 63 then (((s.core core).mailbox.head?).map (·.cls)).getD 3 else x.prio.toNat

/-- The reason of a cycle in which no gang of the wave issues, and the gang it is of.  A ready gang loses only to the gang
that the same scheduler issued. -/
def State.stallReason (s : State) (core slot : Nat) (x : Wave) : Option (Nat × Gang) :=
  match x.lowGang (fun g => (s.gangReason core x g).isNone) with
  | some g =>
    match s.wave? s.now.core s.now.slot with
    | some y =>
      if s.now.core = core && s.now.slot ≠ slot && s.now.slot % 2 = slot % 2 then
        some (if s.issueClass core s.now.slot y < s.issueClass core slot x then 10 else 11, g)
      else none
    | none => none
  | none => (x.lowGang (fun _ => true)).bind (fun g => (s.gangReason core x g).map (fun r => (r, g)))

/-- The producer PC of a sample (28 R467). -/
def State.producerPc (s : State) (core slot : Nat) (x : Wave) (k : Nat) (reason : Nat) : Pc :=
  let sl := x.slice k
  let gen := s.gen core slot
  let at_ := fun (id : Nat) => ((Store.find? s.inflight id).map (·.pc)).getD sl.pc
  match reason, sl.wait with
  | 0, some (.operand (some o)) => o.pc
  | 0, some (.peerLoad id) => at_ id
  | 0, some (.acquire id) => at_ id
  | 3, some (.waitc path _) => (((s.counted core slot gen path).head?).map (fun a => a.2.pc)).getD sl.pc
  | 12, some (.fence n) => ((List.find? (fun (a : Nat × Access) => s.fenceAwaits x (s.l1Dom core slot) n a.2) (s.pendingOf core slot k gen)).map (fun a => a.2.pc)).getD sl.pc
  | _, _ => sl.pc

/-! ### Counting windows and samples (28 R463 to R466) -/

/-- The window is open: it runs from the first issue to the EXIT that ends the last slice. -/
def Count.running (n : Count) : Bool := n.opened && !n.closed

/-- A sample is due in this cycle of the window. -/
def State.sampleDue (s : State) (n : Count) : Bool :=
  s.security.dbgctl.getLsbD 2 && n.running && (n.due || (n.span ≠ 0 && n.span % 32 = 0))
    && !(n.held ++ n.batch).any (fun m => m.cycle = n.span)

/-- Take the sample: the wave's first two are held back, the others go to sample records of seven. -/
def State.takeSample (s : State) (core slot : Nat) (x : Wave) (m : Sample) : State :=
  let n := { x.count with due := false }
  if n.held.length < 2 then s.setWave core slot { x with count := { n with held := n.held ++ [m] } }
  else if n.batch.length < 6 then s.setWave core slot { x with count := { n with batch := n.batch ++ [m] } }
  else
    (s.flushSamples core slot { x with count := { n with batch := n.batch ++ [m] } }).setWave core slot { x with count := { n with batch := [] } }

/-- The sample of a wave as it stands. -/
def State.sampleNow (s : State) (core slot : Nat) (x : Wave) (r : Nat × Gang) : Sample :=
  let k := r.2.low
  { cycle := x.count.span, reason := r.1, waiting := (x.slice k).pc, producer := s.producerPc core slot x k r.1, rtop := (x.slice k).rtop }

/-- A sample that is due is taken. -/
def State.trySample (s : State) (core slot : Nat) : State :=
  match s.wave? core slot with
  | none => s
  | some x => match s.stallReason core slot x with
    | none => s
    | some r => if s.sampleDue x.count then s.takeSample core slot x (s.sampleNow core slot x r) else s

/-- SAMPLE_TAKE. (DEDUCED, log 43) -/
def execSampleTake (core slot : Nat) (s : State) : Done := .next (s.trySample core slot)

/-- STALL_CYCLE: one cycle of the window passes, and one stall counter counts it. (DEDUCED, log 43) -/
def execStallCycle (core slot : Nat) (s : State) : Done :=
  match s.wave? core slot with
  | none => .next s
  | some x => match s.stallReason core slot x with
    | none => .next s
    | some r =>
      let s := s.bump (core / 32) 3 1
      .next ((s.trySample core slot).modWave core slot (fun x =>
        if x.count.running then
          { x with count := { x.count with span := x.count.span + 1, stalls := Store.set x.count.stalls 0 r.1 (Store.get x.count.stalls 0 r.1 + 1) } }
        else x))

/-- The instruction has issued in the slice, or its attempt came to nothing. -/
def Wait.before : Wait → Bool
  | .waitc _ _ | .fence _ | .regang _ | .meeting _ | .shmap _ _ _ => true
  | w => w.retries
def Slice.hasIssued (sl : Slice) : Bool := sl.ended || !(sl.wait.any Wait.before)

/-- A gang of these slices has issued: issue cycles, the opening and the closing of its window, and its gang's boost. (DEDUCED, log 43) -/
def State.countIssue (s : State) (core slot : Nat) (ks : List Nat) : State :=
  match s.wave? core slot with
  | none => s
  | some x =>
    if !ks.any (fun k => (x.slice k).hasIssued) then s
    else
      let n := if 8 < ks.length then 2 else 1
      let s := s.bump (core / 32) 1 n
      let s := if s.issueClass core slot x = 0 then s.bump (core / 32) 2 n else s
      let sampling := s.security.dbgctl.getLsbD 2
      let c := x.count
      let gone := x.slices.all (fun sl => sl.2.ended)
      let top := (((sortNat ks).find? (fun k => (x.slice k).ended)).map (fun k => (x.slice k).rtop)).getD 0
      let due := sampling && (List.range n).any (fun i => c.span + i ≠ 0 && (c.span + i) % 32 = 0)
      let count := if c.closed then c
        else { c with opened := true, span := c.span + n, issued := c.issued + n, due := c.due || due, closed := gone
                      endTop := if gone then top else c.endTop }
      let gangs := x.gangs.map (fun g => if g.slices.any ks.contains then { g with boosted := false, since := s.cycles } else g)
      let s := s.setWave core slot { x with count, gangs }
      s.modTeam x.team (fun t => if x.supervisor then t else
        let t := if t.sum.opened then t else { t with sum := { t.sum with opened := true, recorded := sampling } }
        if gone && !c.closed then { t with sum := { t.sum with endTop := top } } else t)

/-! ### Boost (25 R424) -/

/-- GANG_BOOST: the gang is ready and has not issued for 256 cycles. (DEDUCED, log 43) -/
def execGangBoost (core slot slice : Nat) (s : State) : Done :=
  .next (s.modWave core slot (fun x => { x with gangs := x.gangs.map (fun g =>
    if g.slices.contains slice && (s.gangReason core x g).isNone && 256 ≤ s.cycles - g.since then { g with boosted := true } else g) }))

end Sys2Proof.Machine
end

