-- ==== Sys2Proof/Machine/Dispatch.lean ====
section
/-!
DEFINITION. The meaning of every instruction and event: one arm per constructor of Instr, each one direct call.
-/

namespace Sys2Proof.Machine

def exec (i : Instr) (s : State) : Host.Outcome State Fault Refusal :=
  match i with
  | .iadd o => Sys2Proof.Machine.execIadd o s
  | .iaddImm o => Sys2Proof.Machine.execIaddImm o s
  | .isub o => Sys2Proof.Machine.execIsub o s
  | .isubImm o => Sys2Proof.Machine.execIsubImm o s
  | .imul o => Sys2Proof.Machine.execImul o s
  | .imulImm o => Sys2Proof.Machine.execImulImm o s
  | .imulh o => Sys2Proof.Machine.execImulh o s
  | .imad o => Sys2Proof.Machine.execImad o s
  | .idiv o => Sys2Proof.Machine.execIdiv o s
  | .irem o => Sys2Proof.Machine.execIrem o s
  | .imin o => Sys2Proof.Machine.execImin o s
  | .iminImm o => Sys2Proof.Machine.execIminImm o s
  | .imax o => Sys2Proof.Machine.execImax o s
  | .imaxImm o => Sys2Proof.Machine.execImaxImm o s
  | .iabs o => Sys2Proof.Machine.execIabs o s
  | .and o => Sys2Proof.Machine.execAnd o s
  | .andImm o => Sys2Proof.Machine.execAndImm o s
  | .or o => Sys2Proof.Machine.execOr o s
  | .orImm o => Sys2Proof.Machine.execOrImm o s
  | .xor o => Sys2Proof.Machine.execXor o s
  | .xorImm o => Sys2Proof.Machine.execXorImm o s
  | .andn o => Sys2Proof.Machine.execAndn o s
  | .andnImm o => Sys2Proof.Machine.execAndnImm o s
  | .shl o => Sys2Proof.Machine.execShl o s
  | .shlImm o => Sys2Proof.Machine.execShlImm o s
  | .shr o => Sys2Proof.Machine.execShr o s
  | .shrImm o => Sys2Proof.Machine.execShrImm o s
  | .rot o => Sys2Proof.Machine.execRot o s
  | .rotImm o => Sys2Proof.Machine.execRotImm o s
  | .bfe o => Sys2Proof.Machine.execBfe o s
  | .bfi o => Sys2Proof.Machine.execBfi o s
  | .popc o => Sys2Proof.Machine.execPopc o s
  | .clz o => Sys2Proof.Machine.execClz o s
  | .brev o => Sys2Proof.Machine.execBrev o s
  | .icmp o => Sys2Proof.Machine.execIcmp o s
  | .pick o => Sys2Proof.Machine.execPick o s
  | .mov o => Sys2Proof.Machine.execMov o s
  | .movImm o => Sys2Proof.Machine.execMovImm o s
  | .movx o => Sys2Proof.Machine.execMovx o s
  | .shmap o => Sys2Proof.Machine.execShmap o s
  | .qcfg o => Sys2Proof.Machine.execQcfg o s
  | .lea o => Sys2Proof.Machine.execLea o s
  | .bsel o => Sys2Proof.Machine.execBsel o s
  | .fadd o => Sys2Proof.Machine.execFadd o s
  | .faddImm o => Sys2Proof.Machine.execFaddImm o s
  | .fsub o => Sys2Proof.Machine.execFsub o s
  | .fsubImm o => Sys2Proof.Machine.execFsubImm o s
  | .fmul o => Sys2Proof.Machine.execFmul o s
  | .fmulImm o => Sys2Proof.Machine.execFmulImm o s
  | .ffma o => Sys2Proof.Machine.execFfma o s
  | .fmin o => Sys2Proof.Machine.execFmin o s
  | .fminImm o => Sys2Proof.Machine.execFminImm o s
  | .fmax o => Sys2Proof.Machine.execFmax o s
  | .fmaxImm o => Sys2Proof.Machine.execFmaxImm o s
  | .fcmp o => Sys2Proof.Machine.execFcmp o s
  | .fclass o => Sys2Proof.Machine.execFclass o s
  | .fabs o => Sys2Proof.Machine.execFabs o s
  | .fneg o => Sys2Proof.Machine.execFneg o s
  | .fdot2 o => Sys2Proof.Machine.execFdot2 o s
  | .fdot4 o => Sys2Proof.Machine.execFdot4 o s
  | .fcpys o => Sys2Proof.Machine.execFcpys o s
  | .frnd o => Sys2Proof.Machine.execFrnd o s
  | .fscale o => Sys2Proof.Machine.execFscale o s
  | .fexp o => Sys2Proof.Machine.execFexp o s
  | .cvt o => Sys2Proof.Machine.execCvt o s
  | .rcp o => Sys2Proof.Machine.execRcp o s
  | .rsq o => Sys2Proof.Machine.execRsq o s
  | .sqrt o => Sys2Proof.Machine.execSqrt o s
  | .ex2 o => Sys2Proof.Machine.execEx2 o s
  | .lg2 o => Sys2Proof.Machine.execLg2 o s
  | .sin o => Sys2Proof.Machine.execSin o s
  | .cos o => Sys2Proof.Machine.execCos o s
  | .tanh o => Sys2Proof.Machine.execTanh o s
  | .shfl o => Sys2Proof.Machine.execShfl o s
  | .shflx o => Sys2Proof.Machine.execShflx o s
  | .shflup o => Sys2Proof.Machine.execShflup o s
  | .shfldn o => Sys2Proof.Machine.execShfldn o s
  | .vote o => Sys2Proof.Machine.execVote o s
  | .ballot o => Sys2Proof.Machine.execBallot o s
  | .redl o => Sys2Proof.Machine.execRedl o s
  | .scanl o => Sys2Proof.Machine.execScanl o s
  | .rdlane o => Sys2Proof.Machine.execRdlane o s
  | .pcomb o => Sys2Proof.Machine.execPcomb o s
  | .p2s o => Sys2Proof.Machine.execP2s o s
  | .s2p o => Sys2Proof.Machine.execS2p o s
  | .bra o => Sys2Proof.Machine.execBra o s
  | .brx o => Sys2Proof.Machine.execBrx o s
  | .call o => Sys2Proof.Machine.execCall o s
  | .ret o => Sys2Proof.Machine.execRet o s
  | .regang o => Sys2Proof.Machine.execRegang o s
  | .jmpf o => Sys2Proof.Machine.execJmpf o s
  | .cfetch o => Sys2Proof.Machine.execCfetch o s
  | .exit g => Sys2Proof.Machine.execExit g s
  | .fret index => Sys2Proof.Machine.execFret index s
  | .enter o => Sys2Proof.Machine.execEnter o s
  | .leave g => Sys2Proof.Machine.execLeave g s
  | .svc o => Sys2Proof.Machine.execSvc o s
  | .rsr o => Sys2Proof.Machine.execRsr o s
  | .wsr o => Sys2Proof.Machine.execWsr o s
  | .brk o => Sys2Proof.Machine.execBrk o s
  | .nop g => Sys2Proof.Machine.execNop g s
  | .yield g => Sys2Proof.Machine.execYield g s
  | .ldGN8 o => Sys2Proof.Machine.execLdGN8 o s
  | .ldGS8 o => Sys2Proof.Machine.execLdGS8 o s
  | .ldGN16 o => Sys2Proof.Machine.execLdGN16 o s
  | .ldGS16 o => Sys2Proof.Machine.execLdGS16 o s
  | .ldGB32 o => Sys2Proof.Machine.execLdGB32 o s
  | .ldGB64 o => Sys2Proof.Machine.execLdGB64 o s
  | .ldSN8 o => Sys2Proof.Machine.execLdSN8 o s
  | .ldSS8 o => Sys2Proof.Machine.execLdSS8 o s
  | .ldSN16 o => Sys2Proof.Machine.execLdSN16 o s
  | .ldSS16 o => Sys2Proof.Machine.execLdSS16 o s
  | .ldSB32 o => Sys2Proof.Machine.execLdSB32 o s
  | .ldSB64 o => Sys2Proof.Machine.execLdSB64 o s
  | .ldPB32 o => Sys2Proof.Machine.execLdPB32 o s
  | .stGB8 o => Sys2Proof.Machine.execStGB8 o s
  | .stGB16 o => Sys2Proof.Machine.execStGB16 o s
  | .stGB32 o => Sys2Proof.Machine.execStGB32 o s
  | .stGB64 o => Sys2Proof.Machine.execStGB64 o s
  | .stSB8 o => Sys2Proof.Machine.execStSB8 o s
  | .stSB16 o => Sys2Proof.Machine.execStSB16 o s
  | .stSB32 o => Sys2Proof.Machine.execStSB32 o s
  | .stSB64 o => Sys2Proof.Machine.execStSB64 o s
  | .atom o => Sys2Proof.Machine.execAtom o s
  | .redM o => Sys2Proof.Machine.execRedM o s
  | .fence o => Sys2Proof.Machine.execFence o s
  | .fenceM o => Sys2Proof.Machine.execFenceM o s
  | .waitcmp o => Sys2Proof.Machine.execWaitcmp o s
  | .waitc o => Sys2Proof.Machine.execWaitc o s
  | .pref o => Sys2Proof.Machine.execPref o s
  | .binit o => Sys2Proof.Machine.execBinit o s
  | .barv o => Sys2Proof.Machine.execBarv o s
  | .bwait o => Sys2Proof.Machine.execBwait o s
  | .obres o => Sys2Proof.Machine.execObres o s
  | .obrel o => Sys2Proof.Machine.execObrel o s
  | .wld o => Sys2Proof.Machine.execWld o s
  | .mma o => Sys2Proof.Machine.execMma o s
  | .macq o => Sys2Proof.Machine.execMacq o s
  | .mrel o => Sys2Proof.Machine.execMrel o s
  | .mrd o => Sys2Proof.Machine.execMrd o s
  | .mwr o => Sys2Proof.Machine.execMwr o s
  | .mdrain o => Sys2Proof.Machine.execMdrain o s
  | .mzero o => Sys2Proof.Machine.execMzero o s
  | .winv o => Sys2Proof.Machine.execWinv o s
  | .mstat o => Sys2Proof.Machine.execMstat o s
  | .xkick o => Sys2Proof.Machine.execXkick o s
  | .xsusp o => Sys2Proof.Machine.execXsusp o s
  | .xstat o => Sys2Proof.Machine.execXstat o s
  | .wcreate o => Sys2Proof.Machine.execWcreate o s
  | .psend o => Sys2Proof.Machine.execPsend o s
  | .precv o => Sys2Proof.Machine.execPrecv o s
  | .pnote o => Sys2Proof.Machine.execPnote o s
  | .wsadd o => Sys2Proof.Machine.execWsadd o s
  | .wsdel o => Sys2Proof.Machine.execWsdel o s
  | .wswait o => Sys2Proof.Machine.execWswait o s
  | .tarm o => Sys2Proof.Machine.execTarm o s
  | .tcan o => Sys2Proof.Machine.execTcan o s
  | .oclose o => Sys2Proof.Machine.execOclose o s
  | .odup o => Sys2Proof.Machine.execOdup o s
  | .nslook o => Sys2Proof.Machine.execNslook o s
  | .nsbind o => Sys2Proof.Machine.execNsbind o s
  | .glaunch o => Sys2Proof.Machine.execGlaunch o s
  | .gcond o => Sys2Proof.Machine.execGcond o s
  | .hint o => Sys2Proof.Machine.execHint o s
  | .launch o => Sys2Proof.Machine.execLaunch o s
  | .oinfo o => Sys2Proof.Machine.execOinfo o s
  | .rotarm o => Sys2Proof.Machine.execRotarm o s
  | .rotjoin o => Sys2Proof.Machine.execRotjoin o s
  | .aearm o => Sys2Proof.Machine.execAearm o s
  | .aewait o => Sys2Proof.Machine.execAewait o s
  | .rotend o => Sys2Proof.Machine.execRotend o s
  | .dualNop x y => Sys2Proof.Machine.execDualNop x y s
  | .dualIadd x y => Sys2Proof.Machine.execDualIadd x y s
  | .dualIsub x y => Sys2Proof.Machine.execDualIsub x y s
  | .dualImul x y => Sys2Proof.Machine.execDualImul x y s
  | .dualImin x y => Sys2Proof.Machine.execDualImin x y s
  | .dualImax x y => Sys2Proof.Machine.execDualImax x y s
  | .dualAnd x y => Sys2Proof.Machine.execDualAnd x y s
  | .dualOr x y => Sys2Proof.Machine.execDualOr x y s
  | .dualXor x y => Sys2Proof.Machine.execDualXor x y s
  | .dualAndn x y => Sys2Proof.Machine.execDualAndn x y s
  | .dualShl x y => Sys2Proof.Machine.execDualShl x y s
  | .dualShr x y => Sys2Proof.Machine.execDualShr x y s
  | .dualMov x y => Sys2Proof.Machine.execDualMov x y s
  | .iaddi x y => Sys2Proof.Machine.execIaddi x y s
  | .movi x y => Sys2Proof.Machine.execMovi x y s
  | .shli x y => Sys2Proof.Machine.execShli x y s
  | .shri x y => Sys2Proof.Machine.execShri x y s
  | .dualIcmpEq x y => Sys2Proof.Machine.execDualIcmpEq x y s
  | .dualIcmpNe x y => Sys2Proof.Machine.execDualIcmpNe x y s
  | .dualIcmpLtS32 x y => Sys2Proof.Machine.execDualIcmpLtS32 x y s
  | .dualIcmpLtN32 x y => Sys2Proof.Machine.execDualIcmpLtN32 x y s
  | .dualIcmpLeS32 x y => Sys2Proof.Machine.execDualIcmpLeS32 x y s
  | .dualIcmpLeN32 x y => Sys2Proof.Machine.execDualIcmpLeN32 x y s
  | .pand x y => Sys2Proof.Machine.execPand x y s
  | .por x y => Sys2Proof.Machine.execPor x y s
  | .pxor x y => Sys2Proof.Machine.execPxor x y s
  | .pnot x y => Sys2Proof.Machine.execPnot x y s
  | .pmov x y => Sys2Proof.Machine.execPmov x y s
  | .dualFadd x y => Sys2Proof.Machine.execDualFadd x y s
  | .dualFsub x y => Sys2Proof.Machine.execDualFsub x y s
  | .dualFmul x y => Sys2Proof.Machine.execDualFmul x y s
  | .dualFmin x y => Sys2Proof.Machine.execDualFmin x y s
  | .dualFmax x y => Sys2Proof.Machine.execDualFmax x y s
  | .dualFabs x y => Sys2Proof.Machine.execDualFabs x y s
  | .dualFneg x y => Sys2Proof.Machine.execDualFneg x y s
  | .dualPopc x y => Sys2Proof.Machine.execDualPopc x y s
  | .dualClz x y => Sys2Proof.Machine.execDualClz x y s
  | .dualBrev x y => Sys2Proof.Machine.execDualBrev x y s
  | .dualIabs x y => Sys2Proof.Machine.execDualIabs x y s
  | .dualFcmpLtF32 x y => Sys2Proof.Machine.execDualFcmpLtF32 x y s
  | .nonceRead o => Sys2Proof.Machine.execNonceRead o s
  | .entropyRead o => Sys2Proof.Machine.execEntropyRead o s
  | .keywipeWrite o => Sys2Proof.Machine.execKeywipeWrite o s
  | .dbgctlWrite o => Sys2Proof.Machine.execDbgctlWrite o s
  | .measureWrite o => Sys2Proof.Machine.execMeasureWrite o s
  | .mbwaitRead o => Sys2Proof.Machine.execMbwaitRead o s
  | .dropWrite o => Sys2Proof.Machine.execDropWrite o s
  | .reprioWrite o => Sys2Proof.Machine.execReprioWrite o s
  | .illegalOpcode word code => Sys2Proof.Machine.execIllegalOpcode word code s
  | .segmentFetchComplete core index => Sys2Proof.Machine.execSegmentFetchComplete core index s
  | .launchQueueHandoff cluster => Sys2Proof.Machine.execLaunchQueueHandoff cluster s
  | .launchRecordAccept cluster => Sys2Proof.Machine.execLaunchRecordAccept cluster s
  | .teamPlacement cluster core slots => Sys2Proof.Machine.execTeamPlacement cluster core slots s
  | .waveRetire core slot => Sys2Proof.Machine.execWaveRetire core slot s
  | .regangRelease w => Sys2Proof.Machine.execRegangRelease w s
  | .segmentMeetingRelease w => Sys2Proof.Machine.execSegmentMeetingRelease w s
  | .shmapPairing w => Sys2Proof.Machine.execShmapPairing w s
  | .bwaitRelease w => Sys2Proof.Machine.execBwaitRelease w s
  | .waitcmpMonitorRead w => Sys2Proof.Machine.execWaitcmpMonitorRead w s
  | .kernelOpBegin w => Sys2Proof.Machine.execKernelOpBegin w s
  | .mmaPassEnter core => Sys2Proof.Machine.execMmaPassEnter core s
  | .mmaCommit core => Sys2Proof.Machine.execMmaCommit core s
  | .copyQueueReadRecord cluster => Sys2Proof.Machine.execCopyQueueReadRecord cluster s
  | .copyGranule cluster engine => Sys2Proof.Machine.execCopyGranule cluster engine s
  | .queueLoadRowFetch core slot q => Sys2Proof.Machine.execQueueLoadRowFetch core slot q s
  | .queueStoreRowPerform core slot q => Sys2Proof.Machine.execQueueStoreRowPerform core slot q s
  | .userTrapDelivery w => Sys2Proof.Machine.execUserTrapDelivery w s
  | .launchCompletionReport launch => Sys2Proof.Machine.execLaunchCompletionReport launch s
  | .waitcRelease w => Sys2Proof.Machine.execWaitcRelease w s
  | .fenceDrainComplete w => Sys2Proof.Machine.execFenceDrainComplete w s
  | .mbactRetry core => Sys2Proof.Machine.execMbactRetry core s
  | .mbactSkip core => Sys2Proof.Machine.execMbactSkip core s
  | .mbactEndSlice core => Sys2Proof.Machine.execMbactEndSlice core s
  | .mbactForward core => Sys2Proof.Machine.execMbactForward core s
  | .mbactReply core => Sys2Proof.Machine.execMbactReply core s
  | .mbactEndWave core => Sys2Proof.Machine.execMbactEndWave core s
  | .mbactDismiss core => Sys2Proof.Machine.execMbactDismiss core s
  | .mbactUnassigned core => Sys2Proof.Machine.execMbactUnassigned core s
  | .memread src => Sys2Proof.Machine.execMemread src s
  | .memwrite src => Sys2Proof.Machine.execMemwrite src s
  | .regread src => Sys2Proof.Machine.execRegread src s
  | .regwrite src => Sys2Proof.Machine.execRegwrite src s
  | .srread src => Sys2Proof.Machine.execSrread src s
  | .srwrite src => Sys2Proof.Machine.execSrwrite src s
  | .fuseread src => Sys2Proof.Machine.execFuseread src s
  | .fuseblow src => Sys2Proof.Machine.execFuseblow src s
  | .gensecret src => Sys2Proof.Machine.execGensecret src s
  | .cmdport src => Sys2Proof.Machine.execCmdport src s
  | .extest dr => Sys2Proof.Machine.execExtest dr s
  | .samplePreload pins dr => Sys2Proof.Machine.execSamplePreload pins dr s
  | .dbgreq dr => Sys2Proof.Machine.execDbgreq dr s
  | .bypass code => Sys2Proof.Machine.execBypass code s
  | .recoveryGo addr len => Sys2Proof.Machine.execRecoveryGo addr len s
  | .recoveryFetchComplete failed => Sys2Proof.Machine.execRecoveryFetchComplete failed s
  | .hostTailSnoop queue writes => Sys2Proof.Machine.execHostTailSnoop queue writes s
  | .hostQueueRecordHandoff queue => Sys2Proof.Machine.execHostQueueRecordHandoff queue s
  | .hostRequestRecord queue => Sys2Proof.Machine.execHostRequestRecord queue s
  | .placementAgeBlock cluster => Sys2Proof.Machine.execPlacementAgeBlock cluster s
  | .waveDrop core slot => Sys2Proof.Machine.execWaveDrop core slot s
  | .compactionCopy core slot => Sys2Proof.Machine.execCompactionCopy core slot s
  | .compactionHoldTimeout core slot => Sys2Proof.Machine.execCompactionHoldTimeout core slot s
  | .waveRestart core entry slot => Sys2Proof.Machine.execWaveRestart core entry slot s
  | .loadReturn id => Sys2Proof.Machine.execLoadReturn id s
  | .storePerformed id => Sys2Proof.Machine.execStorePerformed id s
  | .pageWalkComplete cluster => Sys2Proof.Machine.execPageWalkComplete cluster s
  | .shootdownReceipt cluster id => Sys2Proof.Machine.execShootdownReceipt cluster id s
  | .shootdownAck cluster id => Sys2Proof.Machine.execShootdownAck cluster id s
  | .atomHomePerform id => Sys2Proof.Machine.execAtomHomePerform id s
  | .redmApply id => Sys2Proof.Machine.execRedmApply id s
  | .replicaUpdate die => Sys2Proof.Machine.execReplicaUpdate die s
  | .hostMemoryAccess a => Sys2Proof.Machine.execHostMemoryAccess a s
  | .waitcmpTimeout w => Sys2Proof.Machine.execWaitcmpTimeout w s
  | .fullEmptyProceed w => Sys2Proof.Machine.execFullEmptyProceed w s
  | .mailboxAppend core => Sys2Proof.Machine.execMailboxAppend core s
  | .sramUncorrectableError site => Sys2Proof.Machine.execSramUncorrectableError site s
  | .kernelResultReturn w => Sys2Proof.Machine.execKernelResultReturn w s
  | .timerExpiry cluster index => Sys2Proof.Machine.execTimerExpiry cluster index s
  | .wswaitTimeout w => Sys2Proof.Machine.execWswaitTimeout w s
  | .waitSetMemberReady set => Sys2Proof.Machine.execWaitSetMemberReady set s
  | .graphNodeComplete launch => Sys2Proof.Machine.execGraphNodeComplete launch s
  | .coalescerHoldExpiry vector => Sys2Proof.Machine.execCoalescerHoldExpiry vector s
  | .copyDisplace cluster engine => Sys2Proof.Machine.execCopyDisplace cluster engine s
  | .wldLoadComplete core slot w => Sys2Proof.Machine.execWldLoadComplete core slot w s
  | .gangBoost core slot slice => Sys2Proof.Machine.execGangBoost core slot slice s
  | .sampleTake core slot => Sys2Proof.Machine.execSampleTake core slot s
  | .packetReceive port p => Sys2Proof.Machine.execPacketReceive port p s
  | .bridgeForward port p failed => Sys2Proof.Machine.execBridgeForward port p failed s
  | .stompedNoticeReceive dst vc seq => Sys2Proof.Machine.execStompedNoticeReceive dst vc seq s
  | .nackReceive dst vc seq => Sys2Proof.Machine.execNackReceive dst vc seq s
  | .resendTimeout dst vc seq => Sys2Proof.Machine.execResendTimeout dst vc seq s
  | .fabricResponseReceive dst vc seq r => Sys2Proof.Machine.execFabricResponseReceive dst vc seq r s
  | .bufferBankRetire port bank => Sys2Proof.Machine.execBufferBankRetire port bank s
  | .accessTableUpdate id => Sys2Proof.Machine.execAccessTableUpdate id s
  | .grantEntryRemoveAck id => Sys2Proof.Machine.execGrantEntryRemoveAck id s
  | .ringReadyMarkReceive m => Sys2Proof.Machine.execRingReadyMarkReceive m s
  | .rotjoinTimeout w => Sys2Proof.Machine.execRotjoinTimeout w s
  | .ringBlockInject ring index => Sys2Proof.Machine.execRingBlockInject ring index s
  | .ringReservationReceive ring index => Sys2Proof.Machine.execRingReservationReceive ring index s
  | .ringBlockPacketReceive ring index data => Sys2Proof.Machine.execRingBlockPacketReceive ring index data s
  | .ringIndexFree ring index => Sys2Proof.Machine.execRingIndexFree ring index s
  | .aeBlockConsume cluster => Sys2Proof.Machine.execAeBlockConsume cluster s
  | .aewaitTimeout w => Sys2Proof.Machine.execAewaitTimeout w s
  | .rotendComplete w => Sys2Proof.Machine.execRotendComplete w s
  | .ringFailureNotice ringid code => Sys2Proof.Machine.execRingFailureNotice ringid code s
  | .xkickQueuePlace w => Sys2Proof.Machine.execXkickQueuePlace w s
  | .cliqueFormation size chip ports => Sys2Proof.Machine.execCliqueFormation size chip ports s
  | .cxlHostLinkBringup base bytes => Sys2Proof.Machine.execCxlHostLinkBringup base bytes s
  | .debugDoorbellWrite req => Sys2Proof.Machine.execDebugDoorbellWrite req s
  | .cxlCacheSnoop line => Sys2Proof.Machine.execCxlCacheSnoop line s
  | .stallCycle core slot => Sys2Proof.Machine.execStallCycle core slot s
  | .tret => Sys2Proof.Machine.execTret s
  | .keywipeComplete => Sys2Proof.Machine.execKeywipeComplete s
  | .cmdShootdown => Sys2Proof.Machine.execCmdShootdown s
  | .cmdSetHandleTable => Sys2Proof.Machine.execCmdSetHandleTable s
  | .cmdCreateProcess => Sys2Proof.Machine.execCmdCreateProcess s
  | .cmdEndProcess => Sys2Proof.Machine.execCmdEndProcess s
  | .cmdSetHostQueue => Sys2Proof.Machine.execCmdSetHostQueue s
  | .cmdSetVector => Sys2Proof.Machine.execCmdSetVector s
  | .cmdInstallKey => Sys2Proof.Machine.execCmdInstallKey s
  | .cmdAttest => Sys2Proof.Machine.execCmdAttest s
  | .cmdTraceRing => Sys2Proof.Machine.execCmdTraceRing s
  | .cmdSetStops => Sys2Proof.Machine.execCmdSetStops s
  | .cmdResume => Sys2Proof.Machine.execCmdResume s
  | .cmdCounterSnapshot => Sys2Proof.Machine.execCmdCounterSnapshot s
  | .cmdFuseblow => Sys2Proof.Machine.execCmdFuseblow s
  | .cmdGensecret => Sys2Proof.Machine.execCmdGensecret s
  | .cmdEventRing => Sys2Proof.Machine.execCmdEventRing s
  | .fuseBlowComplete => Sys2Proof.Machine.execFuseBlowComplete s
  | .idcode => Sys2Proof.Machine.execIdcode s
  | .dbgrsp => Sys2Proof.Machine.execDbgrsp s
  | .testLogicReset => Sys2Proof.Machine.execTestLogicReset s
  | .resetRelease => Sys2Proof.Machine.execResetRelease s
  | .powerFaultHold => Sys2Proof.Machine.execPowerFaultHold s
  | .hostClearCondition => Sys2Proof.Machine.execHostClearCondition s
  | .entropyHealthFail => Sys2Proof.Machine.execEntropyHealthFail s

end Sys2Proof.Machine
end

