-- ==== Sys2Proof/Machine/Turns.lean ====
section
/-!
DEFINITION. What a step is made of beside the instruction itself (log 1): the arbitration of gangs (25 R424), the package's
own work when nothing is scheduled, the standard supervisor (05 R132, 09 R184), and what every step does at its end.
-/

namespace Sys2Proof.Machine

/-! ### Arbitration (25 R424) -/

/-- A gang that may be chosen. -/
structure Candidate where
  slot : Nat
  cls : Nat
  gang : Gang

/-- a comes before b: class, boost, age, then the lower slice of one wave, the lower slot of two. -/
def Candidate.before (a b : Candidate) : Bool :=
  if a.cls ≠ b.cls then a.cls < b.cls
  else if a.gang.boosted ≠ b.gang.boosted then a.gang.boosted
  else if a.gang.age ≠ b.gang.age then a.gang.age < b.gang.age
  else if a.slot = b.slot then a.gang.low < b.gang.low
  else a.slot < b.slot

/-- The ready gangs of one of a core's two schedulers. -/
def State.readyGangs (s : State) (core sched : Nat) : List Candidate :=
  ((s.core core).waves.filter (fun w => w.1 % 2 = sched)).flatMap (fun w =>
    let x := w.2.settle
    if s.waveIssues core w.1 x then
      (x.gangs.filter (fun g => (s.gangReason core x g).isNone && g.slices.all (fun k => (x.slice k).canIssue))).map
        (fun g => { slot := w.1, cls := s.issueClass core w.1 x, gang := g })
    else [])

/-- The gang a scheduler issues. -/
def State.chosenGang (s : State) (core sched : Nat) : Option Candidate :=
  (s.readyGangs core sched).foldl (fun (best : Option Candidate) c => match best with
    | none => some c
    | some b => if c.before b then some c else some b) none

/-- What the schedulers of all cores would issue. -/
def State.chosenGangs (s : State) : List Turn :=
  s.cores.keys.flatMap (fun c => [0, 1].filterMap (fun h =>
    (s.chosenGang c h).map (fun g => Turn.issue c g.slot g.gang.low true)))

/-! ### The package's own work -/

/-- One thing the package may do by itself: a gang's turn, or an event. -/
inductive Work where
  | turn (t : Turn)
  | event (f : State → Done)

/-- What may come to a slice that waits. -/
def sliceWork (w : SliceRef) (sl : Slice) : List Work :=
  (match sl.wait with
    | some (.waitc _ _) => [.event (execWaitcRelease w)]
    | some (.fence _) => [.event (execFenceDrainComplete w)]
    | some (.monitor _) => [.event (execWaitcmpMonitorRead w), .event (execWaitcmpTimeout w)]
    | some (.bwait _ _ _ _) => [.event (execBwaitRelease w)]
    | some (.regang _) => [.event (execRegangRelease w)]
    | some (.meeting _) => [.event (execSegmentMeetingRelease w)]
    | some (.shmap _ _ _) => [.event (execShmapPairing w)]
    | some (.delivery _) => [.event (execUserTrapDelivery w)]
    | some .kernel => [.event (execKernelOpBegin w), .event (execWswaitTimeout w), .event (execRotjoinTimeout w),
        .event (execAewaitTimeout w), .event (execRotendComplete w)]
    | some x => if x.retries then [.turn (.issue w.core w.slot w.slice true)] else []
    | none => []) ++ (if sl.kret.isSome then [.event (execKernelResultReturn w)] else [])

/-- Work of a wave: its slices, queue engines, weight loads, boosts, compaction and retirement. -/
def waveWork (s : State) (core slot : Nat) (x : Wave) : List Work :=
  x.slices.flatMap (fun sl => sliceWork { core, slot, slice := sl.1 } sl.2)
    ++ x.queues.keys.flatMap (fun q => [.event (execQueueLoadRowFetch core slot q), .event (execQueueStoreRowPerform core slot q)])
    ++ (x.slots.filter (fun (z : Nat × WeightSlot) => !z.2.loaded)).map (fun z => .event (execWldLoadComplete core slot z.1))
    ++ x.gangs.map (fun g => .event (execGangBoost core slot g.low))
    ++ (if x.hold.isSome then [.event (execCompactionCopy core slot), .event (execCompactionHoldTimeout core slot)] else [])
    ++ (if s.canRetire core slot then [.event (execWaveRetire core slot)] else [])

/-- The first free user slot. -/
def Core.firstFree (k : Core) : Nat := ((List.range 63).find? k.slotFree).getD 62

/-- Work of a core. -/
def coreWork (s : State) (c : Nat) (k : Core) : List Work :=
  (k.istore.zipIdx.filter (fun e => e.1.words.isNone)).map (fun e => .event (execSegmentFetchComplete c e.2))
    ++ k.waves.flatMap (fun w => waveWork s c w.1 w.2)
    ++ (if k.passes.isEmpty then [] else [.event (execMmaPassEnter c), .event (execMmaCommit c)])
    ++ (if k.heldMail.isEmpty then [] else [.event (execMailboxAppend c)])
    ++ k.parked.map (fun p => .event (execWaveRestart c p.1 k.firstFree))
    ++ ((s.compactSize c).bind k.candidate).toList.flatMap (fun a =>
        (k.occupants a ((s.compactSize c).getD 0)).map (fun w => .event (execCompactionCopy c w.1)))
    ++ ((List.range 63).filter (s.isVictim c)).map (fun w => .event (execWaveDrop c w))

/-- Slots for a team's waves at a core: of the free slots, any of which may be taken, the lowest of each core; a scheduled
placement names others. (DESIGN CHOICE, log 75) -/
def State.slotsFor (s : State) (l : Launch) (core : Nat) : List Nat :=
  let free := fun (c : Nat) => (List.range 63).filter (s.core c).slotFree
  (teamMembers l.roles).map (fun m =>
    if l.pair then (free (core + m.index % 2)).getD (m.index / 2) 62 else (free core).getD m.index 62)

/-- The placement the controller of a cluster may make. -/
def placeWork (s : State) (cluster : Nat) : List Work :=
  match s.nextTeam cluster with
  | none => []
  | some e => match Store.find? s.launches e.2.1 with
    | none => []
    | some l => ((clusterCores cluster).filter (s.placeable ((s.teamOrder cluster).takeWhile (· ≠ e)) e)).map (fun c =>
        .event (execTeamPlacement cluster c (s.slotsFor l c)))

/-- Work of a cluster. -/
def clusterWork (s : State) (c : Nat) (k : Cluster) : List Work :=
  (if k.runq.isEmpty then [] else placeWork s c ++ [.event (execPlacementAgeBlock c)])
    ++ (if k.copyQueue.isEmpty then [] else [.event (execCopyQueueReadRecord c)])
    ++ (List.range 4).flatMap (fun e => if k.copies.isEmpty && (Store.find? k.engines e).isNone then []
        else [.event (execCopyGranule c e), .event (execCopyDisplace c e)])
    ++ (if k.walks.isEmpty then [] else [.event (execPageWalkComplete c)])
    ++ k.shootdowns.map (fun d => .event (if d.received then execShootdownAck c d.id else execShootdownReceipt c d.id))
    ++ (if k.job.isSome then [.event (execAeBlockConsume c)] else [])

/-- What returns to an access in flight. -/
def accessWork (id : Nat) (a : Access) : List Work :=
  if a.returned then []
  else match a.kind with
    | .load _ _ _ _ _ => [.event (execLoadReturn id)]
    | .store => [.event (execStorePerformed id)]
    | .atom _ _ _ _ => [.event (execAtomHomePerform id)]
    | .redm _ _ => [.event (execRedmApply id)]
    | .counted => []

/-- Work on an object. -/
def objectWork (i : Nat) (o : Obj) : List Work :=
  match o.body with
  | .timer t => if t.armed then [.event (execTimerExpiry t.cluster i)] else []
  | .waitSet _ _ => [.event (execWaitSetMemberReady i)]
  | .ring r => if r.state = .running then (List.range (r.total)).flatMap (fun j =>
      [.event (execRingBlockInject i j), .event (execRingIndexFree i j)]) else []
  | _ => []

/-- The command at the head of the unit's list. -/
def commandWork (c : Command) : List Work :=
  (match c.code.toNat with
    | 1 => [execCmdShootdown]
    | 2 => [execCmdSetHandleTable]
    | 3 => [execCmdCreateProcess]
    | 4 => [execCmdEndProcess]
    | 5 => [execCmdSetHostQueue]
    | 6 => [execCmdSetVector]
    | 7 => [execCmdInstallKey]
    | 8 => [execCmdAttest]
    | 9 => [execCmdTraceRing]
    | 10 => [execCmdSetStops]
    | 11 => [execCmdResume]
    | 12 => [execCmdCounterSnapshot]
    | 13 => [execCmdFuseblow, execCmdGensecret]
    | 14 => [execCmdEventRing]
    | _ => []).map Work.event

/-- The debug request of a source. -/
def debugWork (s : State) (src : DebugSource) : List Work :=
  (match (s.servedRequest src).map (fun (r : DebugReq) => r.cmd) with
    | some 1 => [execMemread src]
    | some 2 => [execMemwrite src]
    | some 3 => [execRegread src]
    | some 4 => [execRegwrite src]
    | some 5 => [execSrread src]
    | some 6 => [execSrwrite src]
    | some 7 => [execFuseread src]
    | some 8 => [execFuseblow src]
    | some 9 => [execGensecret src]
    | some 10 => [execCmdport src]
    | _ => []).map Work.event

/-- Work of the package's launches, host queues, fabric, memory and security blocks. -/
def packageWork (s : State) : List Work :=
  (if s.launchQueue.isEmpty then [] else (List.range 12).map (fun c => .event (execLaunchQueueHandoff c)))
    ++ s.handed.map (fun h => .event (execLaunchRecordAccept h.1))
    ++ s.launches.flatMap (fun l => match l.2.reported, l.2.source with
        | true, .graph _ _ => [.event (execGraphNodeComplete l.1)]
        | true, _ => []
        | false, _ => if l.2.status ≠ 0 then [.event (execLaunchCompletionReport l.1)] else [])
    ++ s.queues.flatMap (fun q => if q.2.head < q.2.seen then
        [.event (if q.2.request then execHostRequestRecord q.1 else execHostQueueRecordHandoff q.1)] else [])
    ++ s.vectors.flatMap (fun v => if v.2.hold ≠ 0 && v.2.count ≠ 0 then [.event (execCoalescerHoldExpiry v.1)] else [])
    ++ s.sent.map (fun p => .event (execResendTimeout p.dst p.vc p.seq))
    ++ s.updates.flatMap (fun u => [.event (execAccessTableUpdate (.complete u.id)), .event (execGrantEntryRemoveAck u.id)])
    ++ (if s.replicaWrites.isEmpty then [] else [.event (execReplicaUpdate 0), .event (execReplicaUpdate 1)])
    ++ (s.commands.take 1).flatMap commandWork
    ++ debugWork s .tap ++ debugWork s .window
    ++ (if s.security.wiping then [.event execKeywipeComplete] else [])
    ++ (if s.security.blowing.isSome then [.event execFuseBlowComplete] else [])

/-- Everything the package may do by itself beside issuing a ready gang. -/
def State.work (s : State) : List Work :=
  s.inflight.flatMap (fun a => accessWork a.1 a.2) ++ s.cores.flatMap (fun c => coreWork s c.1 c.2)
    ++ s.clusters.flatMap (fun c => clusterWork s c.1 c.2) ++ s.objects.flatMap (fun o => objectWork o.1 o.2) ++ packageWork s

/-- Member n of a list, counted round. -/
def pickOne {α : Type} (l : List α) (n : Nat) : Option α := l[n % l.length]?

/-- The oldest access in flight that can go on now, so that each write comes home in time (13 R261, R275). -/
def State.oldestAccess (s : State) : Option Work :=
  (s.inflight.flatMap (fun a => accessWork a.1 a.2)).find? (fun w => match w with
    | .event f => (match f s with
      | .next t => t ≠ s
      | _ => false)
    | .turn _ => false)

/-- The gang whose scheduler comes next at or after a number of the round of all 768. -/
def State.roundGang (s : State) (n : Nat) : Option Work :=
  let gs := s.cores.keys.flatMap (fun c => [0, 1].map (fun h => (2 * c + h, c, h)))
  let n := n % 768
  ((gs.filter (fun g => n ≤ g.1)) ++ gs.filter (fun g => g.1 < n)).findSome? (fun g =>
    (s.chosenGang g.2.1 g.2.2).map (fun b => Work.turn (.issue g.2.1 b.slot b.gang.low true)))

/-- What may come to the waiting slice that comes next at or after a number of the round of all slices and their events. -/
def State.roundSlice (s : State) (n : Nat) : Option Work :=
  let ws := s.cores.flatMap (fun c => c.2.waves.flatMap (fun w => w.2.slices.flatMap (fun sl =>
    (sliceWork { core := c.1, slot := w.1, slice := sl.1 } sl.2).zipIdx.map (fun v =>
      (((c.1 * 64 + w.1) * 16 + sl.1) * 8 + v.2, v.1)))))
  let n := n % (384 * 64 * 16 * 8)
  (((ws.find? (fun w => n ≤ w.1)).or ws.head?)).map (·.2)

/-- What the package does when nothing is scheduled (log 1): out of reset first; then, by turns, a ready gang of some
scheduler, each of the other things that may happen, the oldest access that can go on, and each waiting slice. -/
def State.ownWork (s : State) : Option Work :=
  match s.phase with
  | .reset => some (.event execResetRelease)
  | .held | .recovery => pickOne (packageWork s) (s.fresh / freshStep)
  | .running =>
    let n := s.fresh / freshStep
    let gang := (pickOne s.chosenGangs (n / 2)).map Work.turn
    let other := pickOne s.work (n / 2)
    match n % 8 with
    | 0 | 4 => gang.or other
    | 2 => (s.roundGang (n / 8)).or other
    | 3 => (s.oldestAccess.or other).or gang
    | 6 => ((s.roundSlice (n / 8)).or other).or gang
    | _ => other.or gang

/-! ### The standard supervisor (05 R132, 09 R184) -/

/-- Codes it forwards when the process has a handler. -/
def forwarded (code : Byte) : Bool :=
  let c := code.toNat
  (1 ≤ c && c ≤ 8) || (0x21 ≤ c && c ≤ 0x23) || (0x30 ≤ c && c ≤ 0x32) || c = 0x40 || c = 0x41

/-- The record goes to the launch's fault log. -/
def State.logTrap (s : State) (c : Nat) (r : MailRecord) : State :=
  let team := match s.recordSlice c r with
    | .resident x => some x.team
    | .parked _ p => some p.wave.team
    | .gone => none
  match team.bind (Store.find? s.teams) with
  | none => s
  | some t => { s with launches := Store.update s.launches t.launch (fun l => { l with log := l.log ++ [r] }) }

/-- The wave of a record's slice, and the segment that a trap 0x05 of it misses: the one its JMPF or TRET goes to, or that of
its own PC. -/
def State.missedSegment (s : State) (c : Nat) (r : MailRecord) : Option (Wave × BitVec 12) :=
  match s.recordSlice c r with
  | .resident x => some (x, match decode r.word with
    | .instr (.jmpf o) => o.seg
    | .instr .tret => (x.slice r.slice).tpc.seg
    | _ => r.pc.seg)
  | _ => none

/-- The service of trap 0x05 (12 R245): the segment is fetched, once, and the instruction retried; none when it lies beyond the
image or its fetch faults. -/
def State.serveSegment (s : State) (c : Nat) (r : MailRecord) : Option State :=
  match s.missedSegment c r with
  | none => none
  | some (x, seg) =>
    if (s.core c).hasSegment x.image seg then some (s.mbact c 0)
    else if ((s.core c).segment? x.image seg).isSome then some s
    else if (s.segmentsDue c x [seg]).isEmpty then none
    else some (s.startFetch c x seg)

/-- The standard supervisor serves the head record of a core's mailbox (05 R132, 09 R184): it fetches an absent segment, forwards
a trap of a process with a handler, dismisses requests, and else logs the record and ends the slice.  No page here is mapped
on demand (log 40). -/
def State.serve (s : State) (c : Nat) : State :=
  match (s.core c).fatal, (s.core c).mailbox with
  | none, r :: _ =>
    if r.kind = 5 || r.kind = 6 then s.mbact c 6
    else if let some t := (if (r.kind = 1 || r.kind = 3) && r.code = 0x05 then s.serveSegment c r else none) then t
    else if r.kind = 1 && forwarded r.code && ((s.process? (objIndex r.proc.toNat)).bind (·.handler?)).isSome then s.mbact c 3
    else (s.logTrap c r).mbact c 2
  | _, _ => s

/-! ### The end of a step -/

/-- The slice whose wait an event may end by letting its instruction issue. (DEDUCED, log 42) -/
def releaseOf : Instr → Option SliceRef
  | .waitcRelease w | .regangRelease w | .shmapPairing w => some w
  | _ => none

/-- An instruction that had waited to issue has issued in this event. -/
def State.countRelease (s before : State) (i : Instr) : State :=
  match releaseOf i with
  | none => s
  | some w => match before.slice? w.core w.slot w.slice, s.slice? w.core w.slot w.slice with
    | some a, some b => if (a.wait.any Wait.before) && b.wait.isNone then s.countIssue w.core w.slot (before.mates w) else s
    | _, _ => s

/-- A gang's turn is over: its issue is counted. -/
def State.afterTurn (s : State) : State := s.countIssue s.now.core s.now.slot s.now.slices

/-- Records that clusters have begun, device events and the tables of the kernel object unit are written; free choices, time and the serial number move on. -/
def State.endStep (s : State) : State :=
  let s := s.drainHeld
  let s := (s.clusters.filter (fun (c : Nat × Cluster) => !c.2.begun.isEmpty)).foldl (fun (s : State) c => s.flushTrace c.1) s
  let s := (if s.eventRing.isSome && !s.events.isEmpty then s.flushEvents else s).judgeIdle.writeTables
  { s with
    fresh := s.fresh + freshStep
    time := s.time + Config.elapse (s.fresh / freshStep)
    cycles := s.cycles + Config.cyclesPassed (s.fresh / freshStep)
    clocks := s.clocks.mapIdx (fun c t => t + Config.clockDrift (12 * (s.fresh / freshStep) + c))
    serial := s.serial + 1 }

end Sys2Proof.Machine
end

