-- ==== Sys2Proof/Machine/Step.lean ====
section
/-!
DEFINITION. One step: the next turn of the schedule or, with none scheduled, of the package's own work; then the end of
the step.
-/

namespace Sys2Proof.Machine

/-- A next state with more done to it. -/
def thenDo (r : Host.Outcome State Fault Refusal) (f : State → State) : Host.Outcome State Fault Refusal :=
  match r with
  | .next s => .next (f s)
  | r => r

/-- A turn: a gang fetches and issues its instruction, an event comes, or a standard supervisor serves its mailbox. -/
def State.turn (s : State) (t : Turn) : Host.Outcome State Fault Refusal :=
  match t with
  | .issue c w k prompt =>
    match s.fetch c w k prompt with
    | .idle s => .next s
    | .run i s => thenDo (exec i s) State.afterTurn
  | .event e => thenDo (exec e s) (fun t => t.countRelease s e)
  | .serve c => .next (s.serve c)

/-- What a step does before its end. -/
def State.act1 (s : State) : Host.Outcome State Fault Refusal :=
  match s.schedule with
  | t :: rest => State.turn { s with schedule := rest } t
  | [] =>
    match s.ownWork with
    | none => .next s
    | some (.turn t) => s.turn t
    | some (.event f) => f s

/-- One step of the machine. -/
def step (s : State) : Host.Outcome State Fault Refusal := thenDo s.act1 State.endStep

/-- The state whose next step issues this instruction word (the instructions of this hardware have one length, 64 bits). -/
def State.withFetchWord (s : State) (nbits w : Nat) : State := s.placeWord (BitVec.ofNat 64 (w % 2 ^ nbits))

end Sys2Proof.Machine
end

