-- ==== Sys2Proof/Safety.lean ====
section
/-!
DEFINITION. The terms in which claims about the machine are stated: what counts as a safe outcome, when a gang is free to
issue, and what an instruction over lanes leaves behind.
-/

namespace Sys2Proof

/-- The outcome is a next state. -/
def Safe (o : Host.Outcome Machine.State Machine.Fault Machine.Refusal) : Prop := ∃ t, o = .next t

end Sys2Proof

namespace Sys2Proof.Machine

/-! ### Memory -/

/-- Every memory of the machine has its canonical form: addresses strictly rising, no byte equal to what an unlisted one reads
as. -/
structure State.Canonical (s : State) : Prop where
  hbm : Memory.wf s.hbm
  tier2 : Memory.wf s.tier2
  host : Memory.wf s.host
  scratch : ∀ c, Memory.wf (s.core c).scratch

/-- Places whose bytes a write changes and a read gives back. -/
def Place.plain : Place → Prop
  | .hbm | .tier2 | .host | .scratch _ => True
  | _ => False

/-! ### A gang free to issue -/

/-- The slice awaits no register write, no lookahead window is open in it, and no committed last-read mark has made a register
of it unpredictable: every register reads as it is stored. -/
structure Slice.Quiet (sl : Slice) : Prop where
  out : sl.out = []
  windows : sl.windows = []
  dead : sl.dead = []

/-- The wave x stands in the slot whose gang issues; its slices of that gang are quiet; the core shares no registers; no
exception is enabled as a trap. -/
structure Ready (s : State) (x : Wave) : Prop where
  wave : s.wave? s.now.core s.now.slot = some x
  gang : s.now.slices ≠ []
  nodup : s.now.slices.Nodup
  slices : ∀ k ∈ s.now.slices, ∃ sl, Store.find? x.slices k = some sl ∧ sl.Quiet
  shared : (s.core s.now.core).shared = []
  tmask : x.tmask = 0

/-- Fields (a register, and whether it is a pair) that name no queue register, and vector registers of the allotment only
(02 R40). -/
def Wave.Fields (x : Wave) (fs : List (Reg × Bool)) : Prop :=
  ∀ f ∈ fs, qNum? f.1 = none ∧ ∀ n ∈ vNums f.1 f.2, n < x.allot

/-- A field read in a lane from the slice's own registers: 32 bits zero-extended, or a pair with the odd register high. -/
def Slice.field (sl : Slice) (r : Reg) (wide : Bool) (l : Nat) : W64 :=
  match r with
  | .v n => if wide then sl.raw (.v (n.toNat + 1) l) ++ sl.raw (.v n.toNat l) else (sl.raw (.v n.toNat l)).setWidth 64
  | .s n => if wide then sl.raw (.s (n.toNat + 1)) ++ sl.raw (.s n.toNat) else (sl.raw (.s n.toNat)).setWidth 64
  | .q _ => 0

/-- The same, of slice k of a wave. -/
def Wave.src (x : Wave) (k : Nat) (o : Src) (wide : Bool) (l : Nat) : W64 := (x.slice k).field o.reg wide l

/-- The lanes of a slice that an instruction works on: those with exec(L), the lowest of them when the destination is an s
register (02 R40). -/
def Slice.worked (sl : Slice) (g : Option Guard) (d : Option (Reg × Bool)) : List Nat :=
  match d with
  | some (.s _, _) => (lanesOf (sl.exec g)).take 1
  | _ => lanesOf (sl.exec g)

/-- An instruction over lanes, or one half of a dual word: its destination and whether that is a pair, the lanes of slice k it
works on, and what lane l of slice k answers. -/
structure LanePart where
  d : Option (Reg × Bool)
  lanes : Nat → List Nat
  out : Nat → Nat → LaneOut

/-- A part with a guard, on the wave x. -/
def Wave.part (x : Wave) (g : Option Guard) (d : Option (Reg × Bool)) (out : Nat → Nat → LaneOut) : LanePart :=
  { d, lanes := fun k => (x.slice k).worked g d, out }

/-- Register writes and predicate writes of a part in slice k. -/
def LanePart.writes (p : LanePart) (k : Nat) : List (Loc × W32) :=
  match p.d with
  | some (r, wide) => (p.lanes k).flatMap (fun l => destWrites r wide l (p.out k l).val)
  | none => []
def LanePart.preds (p : LanePart) (k : Nat) : List (Nat × Nat × Bool) :=
  (p.lanes k).flatMap (fun l => (p.out k l).preds.map (fun b => (b.1, l, b.2)))
/-- The exceptions its lanes raise. -/
def LanePart.raised (p : LanePart) (k : Nat) : List (Nat × FFlags) := (p.lanes k).map (fun l => (l, (p.out k l).flags))

/-- Slice k with the results of every part, all worked out from the slice as it stood. -/
def Slice.put (sl : Slice) (k : Nat) (ps : List LanePart) : Slice :=
  let sl1 := (ps.flatMap (fun p => p.writes k)).foldl (fun sl w => Slice.setRaw sl w.1 w.2) sl
  (ps.flatMap (fun p => p.preds k)).foldl (fun sl b => Slice.setPredLane sl b.1 b.2.1 b.2.2) sl1

/-- An instruction over lanes has run in the whole gang: the state is the one before with the wave x changed, and of the wave
only the gang's slices and its sticky exception flags (02 R85).  Each slice k of the gang holds what the lanes of its parts ps k answer,
stands at the next word and waits for nothing; its last-read marks and windows may have changed. -/
def Ran (s t : State) (x : Wave) (ps : Nat → List LanePart) : Prop :=
  ∃ x' : Wave,
    t = s.setWave s.now.core s.now.slot x' ∧
    x' = { x with slices := x'.slices, fflags := x'.fflags } ∧
    x'.fflags = s.now.slices.foldl (fun e k => e ||| allFlags ((ps k).flatMap (fun p => p.raised k))) x.fflags ∧
    (∀ k, k ∉ s.now.slices → Store.find? x'.slices k = Store.find? x.slices k) ∧
    ∀ k ∈ s.now.slices, ∃ marks windows,
      Store.find? x'.slices k = some { (x.slice k).put k (ps k) with pc := (x.slice k).pc.next, wait := none, marks, windows }

/-- The instruction completes over the lanes of the gang with these parts. -/
def Runs (s : State) (x : Wave) (i : Instr) (ps : List LanePart) : Prop := ∃ t, exec i s = .next t ∧ Ran s t x (fun _ => ps)

/-- What lane l of slice k reads for a shape, from the slice's own registers. -/
def Wave.laneRead (x : Wave) (sh : Shape) (k l : Nat) : LaneIn :=
  { lane := l, src := sh.srcs.map (fun o => (x.slice k).field o.reg o.wide l), pred := fun n => ((x.slice k).pred n).getLsbD l }

/-- A lane operation as a part, from the registers as they stand. -/
def LaneOp.plain (o : LaneOp) (x : Wave) : LanePart :=
  { d := o.sh.d, lanes := fun k => o.lanes (x.slice k), out := fun k l => o.f (x.laneRead o.sh k l) }

/-- A v register, a predicate and exec(L) in a lane of the wave, and the lanes of the wave with exec(L). -/
def Wave.vlane (x : Wave) (n : BitVec 7) (wide : Bool) (lane : Nat) : W64 := (x.slice (lane / 4)).field (.v n) wide (lane % 4)
def Wave.plane (x : Wave) (p lane : Nat) : Bool := ((x.slice (lane / 4)).pred p).getLsbD (lane % 4)
def Wave.elane (x : Wave) (g : Option Guard) (lane : Nat) : Bool := ((x.slice (lane / 4)).exec g).getLsbD (lane % 4)
def Wave.execLanes (x : Wave) (g : Option Guard) : List Nat := (List.range x.width).filter (x.elane g)

/-- Every slice of each member's segment of w lanes that has not ended issues with the gang (04 R123). -/
def Together (s : State) (x : Wave) (w : Nat) : Prop := ∀ k ∈ s.now.slices, ∀ j ∈ x.meets w k, j ∈ s.now.slices

/-- The fields of a shape. -/
def Shape.fields (sh : Shape) : List (Reg × Bool) := sh.d.toList ++ sh.srcs.map (fun o => (o.reg, o.wide))

/-! ### Instructions that act slice by slice -/

/-- The instruction completes with this effect in every slice of the gang, one after the other, ascending. -/
def Acts (s : State) (i : Instr) (f : Nat → State → State) : Prop :=
  exec i s = .next (s.now.slices.foldl (fun t k => f k t) s)

/-- Every deferred error of the gang's slices has been delivered and every pass of theirs has committed, so that a region edge
waits for nothing (09 R186, R197). -/
def Edged (s : State) (x : Wave) : Prop :=
  ∀ k ∈ s.now.slices, (x.slice k).deferred = [] ∧ (s.core s.now.core).uncommitted s.now.slot k = false

/-- The slice goes on: it waits for nothing and no window is open in it. -/
def Slice.goOn (sl : Slice) : Slice := { sl with windows := [], wait := none }
/-- At the next word. -/
def Slice.passOn (sl : Slice) : Slice := { sl.goOn with pc := sl.pc.next }

/-- The lanes of slice k with exec(L), and the mask of them. -/
def Wave.lanes (x : Wave) (g : Option Guard) (k : Nat) : List Nat := lanesOf ((x.slice k).exec g)

end Sys2Proof.Machine
end

