-- ==== Sys2Proof/Certificates/Slice0/Obligations.lean ====
section
/-!
DEFINITION. The statements for the provers, from the numbered rules of the spec.
-/


/-! ### Terms of the statements: what the forms of an instruction over lanes read and write -/

namespace Sys2Proof.Claim

open Machine

/-- Full A with one, two or three sources; w and bw: is the destination a pair, is b. -/
def alu1 (x : Wave) (o : Alu1) (w : Bool) (f : W64 → LaneOut) : LanePart :=
  x.part o.g (some (o.d, w)) (fun k l => f (x.src k o.a o.ty.wide l))
def alu2 (x : Wave) (o : Alu2) (bw : Bool) (f : W64 → W64 → LaneOut) : LanePart :=
  x.part o.g (some (o.d, o.ty.wide)) (fun k l => f (x.src k o.a o.ty.wide l) (x.src k o.b bw l))
def alu3 (x : Wave) (o : Alu3) (f : W64 → W64 → W64 → LaneOut) : LanePart :=
  x.part o.g (some (o.d, o.ty.wide)) (fun k l => f (x.src k o.a o.ty.wide l) (x.src k o.b o.ty.wide l) (x.src k o.c o.ty.wide l))
/-- Full B: the immediate is in f. -/
def aluI (x : Wave) (o : AluI) (f : W64 → LaneOut) : LanePart :=
  x.part o.g (some (o.d, false)) (fun k l => f ((x.slice k).field o.a false l))

/-- The fields of the forms can be used by the wave. -/
def ok1 (x : Wave) (o : Alu1) (w : Bool) : Prop := x.Fields [(o.d, w), (o.a.reg, o.ty.wide)]
def ok2 (x : Wave) (o : Alu2) (bw : Bool) : Prop := x.Fields [(o.d, o.ty.wide), (o.a.reg, o.ty.wide), (o.b.reg, bw)]
def ok3 (x : Wave) (o : Alu3) : Prop :=
  x.Fields [(o.d, o.ty.wide), (o.a.reg, o.ty.wide), (o.b.reg, o.ty.wide), (o.c.reg, o.ty.wide)]
def okI (x : Wave) (o : AluI) : Prop := x.Fields [(o.d, false), (o.a, false)]

/-- A value, and a 32-bit value in a 32-bit destination. -/
def val (v : W64) : LaneOut := { val := v }
def word (v : W32) : LaneOut := { val := v.setWidth 64 }
def low (v : W64) : W32 := v.setWidth 32

/-- A dual word by the opcode of its half X. -/
def dualWords (f : HalfFields) (y : DualHalf) : List (Instr × DualOp) :=
  [(.dualNop f y, .nop), (.dualIadd f y, .iadd), (.dualIsub f y, .isub), (.dualImul f y, .imul),
   (.dualImin f y, .imin), (.dualImax f y, .imax), (.dualAnd f y, .and), (.dualOr f y, .or),
   (.dualXor f y, .xor), (.dualAndn f y, .andn), (.dualShl f y, .shl), (.dualShr f y, .shr),
   (.dualMov f y, .mov), (.iaddi f y, .iaddi), (.movi f y, .movi), (.shli f y, .shli),
   (.shri f y, .shri), (.dualIcmpEq f y, .icmpEq), (.dualIcmpNe f y, .icmpNe), (.dualIcmpLtS32 f y, .icmpLtS),
   (.dualIcmpLtN32 f y, .icmpLtN), (.dualIcmpLeS32 f y, .icmpLeS), (.dualIcmpLeN32 f y, .icmpLeN), (.pand f y, .pand),
   (.por f y, .por), (.pxor f y, .pxor), (.pnot f y, .pnot), (.pmov f y, .pmov),
   (.dualFadd f y, .fadd), (.dualFsub f y, .fsub), (.dualFmul f y, .fmul), (.dualFmin f y, .fmin),
   (.dualFmax f y, .fmax), (.dualFabs f y, .fabs), (.dualFneg f y, .fneg), (.dualPopc f y, .popc),
   (.dualClz f y, .clz), (.dualBrev f y, .brev), (.dualIabs f y, .iabs), (.dualFcmpLtF32 f y, .fcmpLt)]

/-- The plain loads and stores with what each moves (02 R59 to R61). -/
def memForms (o : MemOp) : List (Instr × MemForm) :=
  [(.ldGN8 o, { load := true, space := .hbm, bytes := 1 }), (.ldGS8 o, { load := true, space := .hbm, bytes := 1, signed := true }),
   (.ldGN16 o, { load := true, space := .hbm, bytes := 2 }), (.ldGS16 o, { load := true, space := .hbm, bytes := 2, signed := true }),
   (.ldGB32 o, { load := true, space := .hbm, bytes := 4 }), (.ldGB64 o, { load := true, space := .hbm, bytes := 8 }),
   (.ldSN8 o, { load := true, space := .scratch 0, bytes := 1 }), (.ldSS8 o, { load := true, space := .scratch 0, bytes := 1, signed := true }),
   (.ldSN16 o, { load := true, space := .scratch 0, bytes := 2 }), (.ldSS16 o, { load := true, space := .scratch 0, bytes := 2, signed := true }),
   (.ldSB32 o, { load := true, space := .scratch 0, bytes := 4 }), (.ldSB64 o, { load := true, space := .scratch 0, bytes := 8 }),
   (.ldPB32 o, { load := true, space := .params 0, bytes := 4 }), (.stGB8 o, { load := false, space := .hbm, bytes := 1 }),
   (.stGB16 o, { load := false, space := .hbm, bytes := 2 }), (.stGB32 o, { load := false, space := .hbm, bytes := 4 }),
   (.stGB64 o, { load := false, space := .hbm, bytes := 8 }), (.stSB8 o, { load := false, space := .scratch 0, bytes := 1 }),
   (.stSB16 o, { load := false, space := .scratch 0, bytes := 2 }), (.stSB32 o, { load := false, space := .scratch 0, bytes := 4 }),
   (.stSB64 o, { load := false, space := .scratch 0, bytes := 8 })]

/-- The address an executing lane names. -/
def memAddr (x : Wave) (k : Nat) (o : MemOp) (m : MemForm) (l : Nat) : Nat :=
  laneAddr m.space ((x.slice k).field o.base (match m.space with | .scratch _ | .params _ => false | _ => true) l) o.off

end Sys2Proof.Claim

open Sys2Proof Sys2Proof.Machine Sys2Proof.Claim


/-! ### Integer, logical and shift instructions -/

/-- The integer arithmetic instructions complete in every slice of the gang, for every lane with exec(L) (02 R40, R45, R46). -/
def Obligations.IntegerArithmeticCompletes : Prop :=
  ∀ (s : State) (x : Wave), Ready s x →
    (∀ o : Alu2, ok2 x o o.ty.wide →
      Runs s x (.iadd o) [alu2 x o o.ty.wide (fun a b => val (intVal intAdd o.ty o.sat a b 0))]
      ∧ Runs s x (.isub o) [alu2 x o o.ty.wide (fun a b => val (intVal intSub o.ty o.sat a b 0))]
      ∧ Runs s x (.imul o) [alu2 x o o.ty.wide (fun a b => val (intVal intMul o.ty o.sat a b 0))]
      ∧ Runs s x (.imulh o) [alu2 x o o.ty.wide (fun a b => val (intVal intMulHigh o.ty o.sat a b 0))]
      ∧ Runs s x (.idiv o) [alu2 x o o.ty.wide (fun a b => val (intVal intDiv o.ty o.sat a b 0))]
      ∧ Runs s x (.irem o) [alu2 x o o.ty.wide (fun a b => val (intVal intRem o.ty o.sat a b 0))]
      ∧ Runs s x (.imin o) [alu2 x o o.ty.wide (fun a b => val (intVal intMinOf o.ty o.sat a b 0))]
      ∧ Runs s x (.imax o) [alu2 x o o.ty.wide (fun a b => val (intVal intMaxOf o.ty o.sat a b 0))])
    ∧ (∀ o : Alu3, ok3 x o → Runs s x (.imad o) [alu3 x o (fun a b c => val (intVal intMad o.ty o.sat a b c))])
    ∧ (∀ o : Alu1, ok1 x o o.ty.wide → Runs s x (.iabs o) [alu1 x o o.ty.wide (fun a => val (intVal intAbs o.ty o.sat a 0 0))])
    ∧ ∀ o : AluI, okI x o →
      Runs s x (.iaddImm o) [aluI x o (fun a => val (intVal intAdd .s32 false a o.signed 0))]
      ∧ Runs s x (.isubImm o) [aluI x o (fun a => val (intVal intSub .s32 false a o.signed 0))]
      ∧ Runs s x (.imulImm o) [aluI x o (fun a => val (intVal intMul .s32 false a o.signed 0))]
      ∧ Runs s x (.iminImm o) [aluI x o (fun a => val (intVal intMinOf .s32 false a o.signed 0))]
      ∧ Runs s x (.imaxImm o) [aluI x o (fun a => val (intVal intMaxOf .s32 false a o.signed 0))]

/-- The logical, shift, count and bit-field instructions, BSEL and LEA complete (02 R47 to R50). -/
def Obligations.LogicAndShiftCompletes : Prop :=
  ∀ (s : State) (x : Wave), Ready s x →
    (∀ o : Alu2, ok2 x o o.ty.wide →
      Runs s x (.and o) [alu2 x o o.ty.wide (fun a b => val (a &&& b))]
      ∧ Runs s x (.or o) [alu2 x o o.ty.wide (fun a b => val (a ||| b))]
      ∧ Runs s x (.xor o) [alu2 x o o.ty.wide (fun a b => val (a ^^^ b))]
      ∧ Runs s x (.andn o) [alu2 x o o.ty.wide (fun a b => val (a &&& ~~~b))])
    ∧ (∀ o : Alu2, ok2 x o false →
      Runs s x (.shl o) [alu2 x o false (fun a b => val (shlVal o.ty.elemBits o.ty.isSigned a (low b).toNat))]
      ∧ Runs s x (.shr o) [alu2 x o false (fun a b => val (shrVal o.ty.elemBits o.ty.isSigned a (low b).toNat))]
      ∧ Runs s x (.rot o) [alu2 x o false (fun a b => val (rotVal o.ty.elemBits o.ty.isSigned a (low b).toNat))])
    ∧ (∀ o : AluI, okI x o →
      Runs s x (.andImm o) [aluI x o (fun a => val (a &&& o.imm.setWidth 64))]
      ∧ Runs s x (.orImm o) [aluI x o (fun a => val (a ||| o.imm.setWidth 64))]
      ∧ Runs s x (.xorImm o) [aluI x o (fun a => val (a ^^^ o.imm.setWidth 64))]
      ∧ Runs s x (.andnImm o) [aluI x o (fun a => val (a &&& ~~~(o.imm.setWidth 64)))]
      ∧ Runs s x (.shlImm o) [aluI x o (fun a => val (shlVal 32 false a o.imm.toNat))]
      ∧ Runs s x (.shrImm o) [aluI x o (fun a => val (shrVal 32 false a o.imm.toNat))]
      ∧ Runs s x (.rotImm o) [aluI x o (fun a => val (rotVal 32 false a o.imm.toNat))])
    ∧ (∀ o : Alu1, ok1 x o o.ty.wide →
      Runs s x (.popc o) [alu1 x o o.ty.wide (fun a => word (popcVal (low a)))]
      ∧ Runs s x (.clz o) [alu1 x o o.ty.wide (fun a => word (clzVal (low a)))]
      ∧ Runs s x (.brev o) [alu1 x o o.ty.wide (fun a => word (brevVal (low a)))])
    ∧ (∀ o : BfeOp, x.Fields [(o.d, false), (o.a.reg, false), (o.b.reg, false)] →
      Runs s x (.bfe o) [x.part o.g (some (o.d, false)) (fun k l =>
        word (bfeVal o.signed (low (x.src k o.a false l)) (low (x.src k o.b false l))))])
    ∧ (∀ o : Bits3Op, x.Fields [(o.d, false), (o.a.reg, false), (o.b.reg, false), (o.c.reg, false)] →
      Runs s x (.bfi o) [x.part o.g (some (o.d, false)) (fun k l =>
        word (bfiVal (low (x.src k o.a false l)) (low (x.src k o.b false l)) (low (x.src k o.c false l))))]
      ∧ Runs s x (.bsel o) [x.part o.g (some (o.d, false)) (fun k l =>
        word (bselVal (low (x.src k o.a false l)) (low (x.src k o.b false l)) (low (x.src k o.c false l))))])
    ∧ ∀ o : LeaOp, x.Fields [(o.d, true), (o.a.reg, true), (o.b.reg, false)] →
      Runs s x (.lea o) [x.part o.g (some (o.d, true)) (fun k l =>
        val (leaVal o.signed o.sh.toNat (x.src k o.a true l) (low (x.src k o.b false l))))]

/-- The compares, PICK, the predicate instructions and the moves complete; MOVX where every executing lane's index names a
register of the allotment: the read form gives each lane the register its index names, the write form writes it (02 R51 to R56). -/
def Obligations.CompareAndMoveCompletes : Prop :=
  (∀ (s : State) (x : Wave), Ready s x →
    (∀ o : IcmpOp, x.Fields [(o.a.reg, o.ty.wide), (o.b.reg, o.ty.wide)] →
      Runs s x (.icmp o) [x.part o.g none (fun k l =>
        let a := elemInt o.ty (x.src k o.a o.ty.wide l) 0
        let b := elemInt o.ty (x.src k o.b o.ty.wide l) 0
        { preds := [(o.d.toNat, condHolds o.cond a b)] })])
    ∧ (∀ o : PickOp, x.Fields [(o.d, o.ty.wide), (o.a.reg, o.ty.wide), (o.b.reg, o.ty.wide)] →
      Runs s x (.pick o) [x.part o.g (some (o.d, o.ty.wide)) (fun k l =>
        val (if ((x.slice k).pred o.c.toNat).getLsbD l then x.src k o.a o.ty.wide l else x.src k o.b o.ty.wide l))])
    ∧ (∀ o : PcombOp, Runs s x (.pcomb o) [x.part o.g none (fun k l =>
        { preds := [(o.d.toNat, pcombVal o (fun n => ((x.slice k).pred n).getLsbD l))] })])
    ∧ (∀ o : P2sOp, x.Fields [(.v o.d, false)] →
      Runs s x (.p2s o) [x.part o.g (some (.v o.d, false)) (fun k l =>
        val (packElems 1 32 (fun j => (((x.slice k).pred ((if o.high then 32 else 0) + j)).getLsbD l).toNat)))])
    ∧ (∀ o : S2pOp, x.Fields [(o.a, false)] →
      Runs s x (.s2p o) [x.part o.g none (fun k l =>
        let first := if o.high then 32 else 0
        { preds := (List.range 32).map (fun j => (first + j, ((x.slice k).field o.a false l).getLsbD j)) })])
    ∧ (∀ o : Alu1, ok1 x o o.ty.wide → Runs s x (.mov o) [alu1 x o o.ty.wide val])
    ∧ (∀ o : MovI, x.Fields [(o.d, false)] →
      Runs s x (.movImm o) [x.part o.g (some (o.d, false)) (fun _ _ => word (o.imm.signExtend 32))])
    ∧ (∀ o : FcmpOp, x.Fields [(o.a.reg, o.ty.wide), (o.b.reg, o.ty.wide)] →
      Runs s x (.fcmp o) [x.part o.g none (fun k l =>
        let r := fcmpVal o.ty.fmt o.cond (elemNat o.ty.elemBits (x.src k o.a o.ty.wide l) 0)
          (elemNat o.ty.elemBits (x.src k o.b o.ty.wide l) 0)
        { preds := [(o.d.toNat, r.1)], flags := r.2 })])
    ∧ ∀ o : FclassOp, x.Fields [(o.a.reg, o.ty.wide), (o.b.reg, false)] →
      Runs s x (.fclass o) [x.part o.g none (fun k l =>
        let n := o.ty.fmt.classOf (elemNat o.ty.elemBits (x.src k o.a o.ty.wide l) 0)
        { preds := [(o.d.toNat, (x.src k o.b false l).getLsbD n)] })])
  ∧ ∀ (s : State) (x : Wave), Ready s x → ∀ (o : MovxOp) (i : Nat → Nat → Nat),
    qNum? o.idx = none → (∀ n ∈ vNums o.idx false, n < x.allot) →
    (∀ k ∈ s.now.slices, ∀ l ∈ x.lanes o.g k, i k l < 128 ∧ i k l < x.allot
      ∧ (low ((x.slice k).field o.idx false l)).toInt + o.off.toInt = i k l) →
    (match o.dir with
      | .read d => d.toNat < x.allot
      | .write a => qNum? a = none ∧ ∀ n ∈ vNums a false, n < x.allot) →
    ∃ t, exec (.movx o) s = .next t ∧ Ran s t x (fun k => (x.lanes o.g k).map (fun l =>
      match o.dir with
      | .read d => ⟨some (.v d, false), fun _ => [l], fun _ _ => word ((x.slice k).raw (.v (i k l) l))⟩
      | .write a => ⟨some (.v (BitVec.ofNat 7 (i k l)), false), fun _ => [l], fun _ _ => val ((x.slice k).field a false l)⟩))

/-! ### Floating point, conversions and special functions -/

/-- The floating-point instructions complete and raise their flags (04 R106 to R117). -/
def Obligations.FloatCompletes : Prop :=
  ∀ (s : State) (x : Wave), Ready s x →
    (∀ o : Alu2, ok2 x o o.ty.wide →
      Runs s x (.fadd o) [alu2 x o o.ty.wide (fun a b => floatVal (fAdd o.rnd o.sat) o.ty a b 0)]
      ∧ Runs s x (.fsub o) [alu2 x o o.ty.wide (fun a b => floatVal (fSub o.rnd o.sat) o.ty a b 0)]
      ∧ Runs s x (.fmul o) [alu2 x o o.ty.wide (fun a b => floatVal (fMul o.rnd o.sat) o.ty a b 0)]
      ∧ Runs s x (.fmin o) [alu2 x o o.ty.wide (fun a b => floatVal fMin o.ty a b 0)]
      ∧ Runs s x (.fmax o) [alu2 x o o.ty.wide (fun a b => floatVal fMax o.ty a b 0)]
      ∧ Runs s x (.fcpys o) [alu2 x o o.ty.wide (fun a b => floatVal fCopySign o.ty a b 0)])
    ∧ (∀ o : AluI, okI x o →
      Runs s x (.faddImm o) [aluI x o (fun a => floatVal (fAdd .rne false) .f32 a o.float 0)]
      ∧ Runs s x (.fsubImm o) [aluI x o (fun a => floatVal (fSub .rne false) .f32 a o.float 0)]
      ∧ Runs s x (.fmulImm o) [aluI x o (fun a => floatVal (fMul .rne false) .f32 a o.float 0)]
      ∧ Runs s x (.fminImm o) [aluI x o (fun a => floatVal fMin .f32 a o.float 0)]
      ∧ Runs s x (.fmaxImm o) [aluI x o (fun a => floatVal fMax .f32 a o.float 0)])
    ∧ (∀ o : Alu3, ok3 x o →
      Runs s x (.ffma o) [alu3 x o (fun a b c => floatVal (fFma o.rnd o.sat) o.ty a b c)]
      ∧ Runs s x (.fdot2 o) [alu3 x o (fun a b c => dotVal o.ty o.rnd o.sat a b c)]
      ∧ Runs s x (.fdot4 o) [alu3 x o (fun a b c => dotVal o.ty o.rnd o.sat a b c)])
    ∧ (∀ o : Alu1, ok1 x o o.ty.wide →
      Runs s x (.fabs o) [alu1 x o o.ty.wide (fun a => floatVal fAbs o.ty a 0 0)]
      ∧ Runs s x (.fneg o) [alu1 x o o.ty.wide (fun a => floatVal fNeg o.ty a 0 0)])
    ∧ (∀ o : FrndOp, x.Fields [(o.d, o.ty.wide), (o.a.reg, o.ty.wide)] →
      Runs s x (.frnd o) [x.part o.g (some (o.d, o.ty.wide)) (fun k l =>
        floatVal (fun f a _ _ => f.frnd o.rnd o.exact a) o.ty (x.src k o.a o.ty.wide l) 0 0)])
    ∧ (∀ o : Alu2, ok2 x o false →
      Runs s x (.fscale o) [alu2 x o false (fun a b => floatVal (fun f a _ _ => f.fscale o.rnd o.sat a (low b).toInt) o.ty a 0 0)])
    ∧ (∀ o : Alu1, ok1 x o false →
      Runs s x (.fexp o) [alu1 x o false (fun a =>
        let r := o.ty.fmt.fexp (elemNat o.ty.elemBits a 0)
        { val := (BitVec.ofInt 32 r.1).setWidth 64, flags := r.2 })])
    ∧ ∀ o : CvtOp, x.Fields (cvtShape o).fields →
      Runs s x (.cvt o) [x.part o.g (some (o.d, (cvtSpec o.code.toNat).dst.width = 64)) (fun k l =>
        let r := x.laneRead (cvtShape o) k l
        cvtVal o.code.toNat o.rnd o.sat r.a r.b r.c)]

/-- The special functions complete (04 R118). -/
def Obligations.SpecialFunctionCompletes : Prop :=
  ∀ (s : State) (x : Wave), Ready s x → ∀ o : Alu1, ok1 x o o.ty.wide →
    let part := fun (fn : SpecFn) => [alu1 x o o.ty.wide (fun a => floatVal (fun f a _ _ => f.special fn o.rnd a) o.ty a 0 0)]
    Runs s x (.rcp o) (part .rcp) ∧ Runs s x (.rsq o) (part .rsq) ∧ Runs s x (.sqrt o) (part .sqrt)
    ∧ Runs s x (.ex2 o) (part .ex2) ∧ Runs s x (.lg2 o) (part .lg2) ∧ Runs s x (.sin o) (part .sin)
    ∧ Runs s x (.cos o) (part .cos) ∧ Runs s x (.tanh o) (part .tanh)

/-! ### Cross-lane instructions and dual words -/

/-- With every slice of each member's segment in the gang, the cross-lane instructions complete, and lane L answers from the
registers of the whole wave as they stood (04 R123 to R128). -/
def Obligations.CrossLaneCompletes : Prop :=
  ∀ (s : State) (x : Wave), Ready s x → (∀ k, (x.slice k).Quiet) →
    (∀ o : ShflOp, x.Fields [(.v o.d, o.ty.wide), (.v o.a, o.ty.wide), (o.b.reg, false)] → Together s x (4 * 2 ^ o.seg.toNat) →
      let w := min (4 * 2 ^ o.seg.toNat) x.width
      let from_ := fun (f : Nat → Nat → Nat) => [x.part o.g (some (.v o.d, o.ty.wide)) (fun k l =>
        let lane := 4 * k + l
        let n := (x.src k o.b false l).toNat % 64
        val (x.vlane o.a o.ty.wide (lane / w * w + f (lane % w) n)))]
      Runs s x (.shfl o) (from_ (fun _ n => n % w))
      ∧ Runs s x (.shflx o) (from_ (fun j n => j ^^^ (n % w)))
      ∧ Runs s x (.shflup o) (from_ (fun j n => if j < n then j else j - n))
      ∧ Runs s x (.shfldn o) (from_ (fun j n => if w ≤ j + n then j else j + n)))
    ∧ (∀ o : VoteOp, Together s x 64 →
      Runs s x (.vote o) [x.part o.g none (fun _ _ =>
        { preds := [(o.d.toNat, voteVal o.mode ((x.execLanes o.g).map (x.plane o.a.toNat)))] })])
    ∧ (∀ o : BallotOp, Together s x 64 →
      Runs s x (.ballot o) [x.part o.g (some (pairReg o.d, true)) (fun _ _ =>
        val ((x.execLanes o.g).foldl (fun m l => if x.plane o.a.toNat l then m ||| (1#64 <<< l) else m) 0))])
    ∧ (∀ o : RdlaneOp, x.Fields ((.s o.d, o.ty.wide) :: (.v o.a, o.ty.wide) :: o.b.toList.map (fun b => (.s b.1, false))) → Together s x 64 →
      Runs s x (.rdlane o) [x.part o.g (some (.s o.d, o.ty.wide)) (fun k l =>
        val (x.vlane o.a o.ty.wide (match o.b with
          | some b => ((x.slice k).field (.s b.1) false l).toNat % x.width
          | none => (x.execLanes o.g).headD 0)))])
    ∧ ∀ o : LaneRedOp, x.Fields [(.v o.d, o.ty.wide), (.v o.a, o.ty.wide)] → Together s x (treeSegment o.seg 64) →
      let w := treeSegment o.seg x.width
      let tree := fun (op : TreeOp) (base : Nat) (taken : Nat → Bool) => treeFold op o.ty (Nat.log2 w) ((List.range w).map (fun p =>
        if taken p then x.vlane o.a o.ty.wide (base + p) else treeIdentity op o.ty))
      Runs s x (.redl o) [x.part o.g (some (.v o.d, o.ty.wide)) (fun k l =>
        let base := (4 * k + l) / w * w
        tree (redlOp o.op.toNat) base (fun p => x.elane o.g (base + p)))]
      ∧ Runs s x (.scanl o) [x.part o.g (some (.v o.d, o.ty.wide)) (fun k l =>
        let base := (4 * k + l) / w * w
        let upTo := fun (j : Nat) =>
          tree (scanlOp o.op.toNat) base (fun p => x.elane o.g (base + p) && (p < j || (p = j && o.op.toNat < 4)))
        { val := (upTo (4 * k + l - base)).val
          flags := if Machine.Ty.isFloat o.ty then
              ((List.range w).filter (fun j => x.elane o.g (base + j))).foldl (fun e j => e ||| (upTo j).flags) 0
            else 0 })]

/-- The dual words complete: both halves answer from the registers as they stood, and both write (01 R34, R37). -/
def Obligations.DualWordCompletes : Prop :=
  ∀ (s : State) (x : Wave), Ready s x → ∀ (f : HalfFields) (y : DualHalf) (op : DualOp) (i : Instr),
    (i, op) ∈ dualWords f y → x.Fields ((halfShape op f).fields ++ (halfShape y.op y.f).fields) →
    let half := fun (op : DualOp) (f : HalfFields) => x.part (halfGuard f) (halfShape op f).d (fun k l =>
      halfEffect op f (x.laneRead (halfShape op f) k l))
    Runs s x i [half op f, half y.op y.f]

/-! ### Control instructions -/

/-- BRA, BRX, CALL and RET complete: each slice takes the branch of 02 R67 on its lanes with exec(L) (02 R70 to R72). -/
def Obligations.BranchesComplete : Prop :=
  ∀ (s : State) (x : Wave), Ready s x →
    (∀ o : BraOp, Acts s (.bra o) (fun k t => t.modNow k (fun sl =>
      sl.goOn.branch (lanesMask (x.lanes o.g k)) { (x.slice k).pc with idx := o.target }
        (if o.valid then some { (x.slice k).pc with idx := o.join } else none) (x.slice k).pc.next)))
    ∧ (∀ o : BrxOp, x.Fields [(o.a.reg, false)] → Acts s (.brx o) (fun k t =>
      ((t.shareNow ((s.ctx x k).shareUses (BrxOp.shape o) (x.lanes o.g k) [])).markNow (BrxOp.shape o) (x.lanes o.g k) k).modNow k (fun sl =>
        brxBranch sl.goOn ((x.lanes o.g k).map (fun l => (l, low (x.src k o.a false l)))))))
    ∧ (∀ o : CallOp, Acts s (.call o) (fun k t => t.modNow k (fun sl =>
      (if x.lanes o.g k = [] then sl.goOn else sl.goOn.write s.fresh (.s o.d.toNat) ((x.slice k).pc.next.idx.setWidth 32)).branch
        (lanesMask (x.lanes o.g k)) { (x.slice k).pc with idx := o.target } (some (x.slice k).pc.next) (x.slice k).pc.next)))
    ∧ ∀ o : S1Op, Acts s (.ret o) (fun k t => (t.markNow (S1Op.shape o) (x.lanes o.g k) k).modNow k (fun sl =>
      sl.goOn.branch (lanesMask (x.lanes o.g k)) { (x.slice k).pc with idx := ((x.slice k).raw (.s o.a.toNat)).setWidth 9 } none
        (x.slice k).pc.next))

/-- The instructions that only mark or move the slice on complete: ENTER, LEAVE, BRK, REGANG and CFETCH
(02 R73, R75, R80, R83). -/
def Obligations.MarkersComplete : Prop :=
  ∀ (s : State) (x : Wave), Ready s x →
    (∀ o : Imm16Op, Acts s (.enter o) (fun k t => t.modNow k (fun sl => { sl.passOn with
        regions := if x.lanes o.g k = [] then sl.regions else (o.imm :: sl.regions).take 8 })))
    ∧ (∀ g, Acts s (.leave g) (fun k t => t.modNow k (fun sl => { sl.passOn with
        regions := if x.lanes g k = [] then sl.regions else sl.regions.drop 1 })))
    ∧ (∀ o : Imm16Op, Acts s (.brk o) (fun k t => t.modNow k (fun sl => { sl.passOn with
        brk := if x.lanes o.g k = [] then sl.brk else some (o.imm, (x.slice k).pc) })))
    ∧ (∀ o : RegangOp, exec (.regang o) s = .next (s.now.slices.foldl (fun t k =>
        if x.lanes o.g k = [] then t.modNow k Slice.passOn
        else
          let named := (o.slices ||| (1#16 <<< k)) &&& BitVec.ofNat 16 (2 ^ (x.width / 4) - 1)
          t.modNow k (fun sl => { sl with windows := [], wait := some (.regang named) })) s).regangNow)
    ∧ ∀ o : CfetchOp, Acts s (.cfetch o) (fun k t =>
        let t := t.modNow k Slice.passOn
        if x.lanes o.g k = [] ∨ x.lastSeg < o.seg.toNat then t else t.startFetch t.now.core x o.seg)

/-- NOP has no effect but that its slices go on to the next word; YIELD with an executing lane also gives its gang the age of this
step, which puts it behind every older gang of its class that is not boosted, and does nothing else.  Neither closes a region
(02 R77). -/
def Obligations.NopAndYield : Prop :=
  (∀ (s : State) (x : Wave), Ready s x → ∀ g,
    Acts s (.nop g) (fun k t => t.modNow k Slice.passOn)
    ∧ Acts s (.yield g) (fun k t =>
        let t := t.modNow k Slice.passOn
        if x.lanes g k = [] then t else t.modNowWave (fun w => { w with gangs := w.gangs.map (fun (h : Gang) =>
          if h.slices.contains k then { h with age := t.serial } else h) })))
  ∧ ∀ (s : State) (a b : Candidate), a.cls = b.cls → a.gang.boosted = false → b.gang.boosted = false → b.gang.age = s.serial →
      a.gang.age < s.serial → a.before b = true ∧ b.before a = false

/-- The region edges and the ends complete: JMPF with its segment in the store, FRET, TRET in a handler whose return segment is
in the store, and EXIT (02 R74, R76, R78, R82). -/
def Obligations.EdgesComplete : Prop :=
  ∀ (s : State) (x : Wave), Ready s x → Edged s x →
    (∀ o : JmpfOp, (s.core s.now.core).hasSegment x.image o.seg = true → Acts s (.jmpf o) (fun k t =>
      let t := t.modNow k (fun sl => { sl.goOn with pc := { seg := o.seg, idx := o.idx } })
      (t.enterSegment t.now.core x.image o.seg).closeRegion t.now.core t.now.slot k (x.slice k).lastLive (x.slice k).pc))
    ∧ (∀ n, Acts s (.fret n) (fun k t =>
      let live := t.liveIn x t.now.core n.toNat
      let t := t.modNow k (fun sl => { sl.passOn with lastLive := live })
      t.closeRegion t.now.core t.now.slot k live (x.slice k).pc))
    ∧ ((∀ k ∈ s.now.slices, (x.slice k).handler.isSome ∧ (s.core s.now.core).hasSegment x.image (x.slice k).tpc.seg = true) →
      Acts s .tret (fun k t =>
        let t := t.modNow k Slice.goOn
        t.trapReturn t.now.core t.now.slot k))
    ∧ ∀ g, Acts s (.exit g) (fun k t =>
      let t := t.modNow k (fun sl =>
        let done := sl.done ||| lanesMask (x.lanes g k)
        Slice.settle { sl.passOn with done, mask := sl.mask &&& ~~~done })
      if ((t.slice? t.now.core t.now.slot k).map (·.ended)).getD false then t.modNowWave (fun w => w.dropFromGang k) else t)

/-! ### System instructions and special registers -/

/-- Where the access is allowed (02 R84), RSR and WSR complete: the pair or the lanes take the register's value, the register
takes the pair's (a write to mbact once the slice it acts on has no register write outstanding, 02 R44), and the access of a register marked E is a region edge (02 R79, R85, 09 R183). -/
def Obligations.SpecialRegisterAccessCompletes : Prop :=
  ∀ (s : State) (x : Wave) (k : Nat), Ready s x → Edged s x → s.now.slices = [k] →
    (∀ o : RsrOp, x.lanes o.g k ≠ [] → s.srFault x o.num.toNat false = none →
      match o.d with
      | .pair p => exec (.rsr o) s = .next ((s.putPair k p (s.readSr s.now.core s.now.slot k x (x.slice k) o.num.toNat)).srDone
          (s.ctx x k) (x.slice k) o.num.toNat (pairLocs p))
      | .lane v => v.toNat < x.allot →
          let ws : List (Loc × W32) := (x.lanes o.g k).map (fun l => (.v v.toNat l, BitVec.ofNat 32 (4 * k + l)))
          exec (.rsr o) s = .next (((s.shareNow ((s.ctx x k).shareUses { g := none, srcs := [] } [] ws)).modNow k (fun sl =>
            sl.writeAll (writeFresh s.fresh k) ws)).srDone (s.ctx x k) (x.slice k) o.num.toNat []))
    ∧ ∀ o : WsrOp, x.lanes o.g k ≠ [] → s.srFault x o.num.toNat true = none →
      let v := (x.slice k).field (pairReg o.a) true 0
      (o.num = 0x04A → s.actReady s.now.core (v.toNat % 8) = true) →
      exec (.wsr o) s = .next ((if o.num = 0x04A then s.mbact s.now.core (v.toNat % 8)
        else s.writeSr s.now.core s.now.slot x.process o.num.toNat v).srDone (s.ctx x k) (x.slice k) o.num.toNat [])

/-- SVC sends its record and waits for the reply, when the mailbox has a place (02 R81, 09 R181, R182); the words that stand for
no instruction take their trap (01 R36). -/
def Obligations.ServiceCallCompletes : Prop :=
  ∀ (s : State) (x : Wave) (k : Nat), Ready s x → s.now.slices = [k] →
    (∀ o : SvcOp, Edged s x → x.lanes o.g k ≠ [] → (s.core s.now.core).mailbox.length < 64 → (s.core s.now.core).heldMail = [] →
      let v := (svcRegs o.a).map (fun n => (x.slice k).raw (.s n))
      let r : MailRecord :=
        { kind := 2, cls := x.prio.toNat, slice := k, wave := waveId s.now.core s.now.slot, pc := (x.slice k).pc, service := o.num
          word := s.now.word, lanes := waveLanes k (lanesMask (x.lanes o.g k)), addr := v.getD 1 0 ++ v.getD 0 0
          proc := v.getD 2 0, aux := v.getD 3 0, args := v.drop 4, gen := s.gen s.now.core s.now.slot }
      exec (.svc o) s = .next (((s.setCore s.now.core { s.core s.now.core with mailbox := (s.core s.now.core).mailbox ++ [r] }).modNow k
        (fun sl => { sl with windows := [], wait := some (.reply (8 * o.a.toNat)) })).modWave s.now.core s.now.slot (·.leaveGang k)))
    ∧ ∀ (word : W64) (code : BitVec 8), exec (.illegalOpcode word code) s
        = .next (s.trapNow k { code, lanes := (x.slice k).active })

/-- The secure and supervisor registers that act complete where their access is allowed (09 R183, 27 R450, R451, R457, R459). -/
def Obligations.ActingRegistersComplete : Prop :=
  ∀ (s : State) (x : Wave) (k : Nat) (o : PairOp), Ready s x → Edged s x → s.now.slices = [k] → x.lanes o.g k ≠ [] →
    let v := (x.slice k).field (pairReg o.p) true 0
    let wrote := fun (num : Nat) (t : State) => t.srDone (s.ctx x k) (x.slice k) num []
    let read := fun (num : Nat) (v : W64) => (s.putPair k o.p v).srDone (s.ctx x k) (x.slice k) num (pairLocs o.p)
    (s.srFault x 0x106 false = none → s.security.entropyFailed = false → s.now.prompt = true →
      let t := read 0x106 (Config.entropy (s.fresh + k))
      exec (.nonceRead o) s = .next { t with security := { t.security with nonce := Config.entropy (t.fresh + k), wipeSinceNonce := false } })
    ∧ (s.srFault x 0x10A false = none → s.security.entropyFailed = false → s.now.prompt = true →
      exec (.entropyRead o) s = .next (read 0x10A (Config.entropy (s.fresh + k))))
    ∧ (s.srFault x 0x041 false = none → (s.core s.now.core).mailbox ≠ [] →
      exec (.mbwaitRead o) s = .next (read 0x041 (BitVec.ofNat 64 (s.core s.now.core).mailbox.length)))
    ∧ (s.srFault x 0x107 true = none →
      exec (.keywipeWrite o) s = .next (wrote 0x107 (if v.getLsbD 0 && !s.security.wiping
        then { s with security := s.security.startWipe } else s)))
    ∧ (s.srFault x 0x108 true = none → s.security.dbgOk (v.setWidth 3) = true →
      exec (.dbgctlWrite o) s = .next (wrote 0x108 (s.setDbgctl (v.setWidth 3))))
    ∧ (s.srFault x 0x109 true = none → ∀ r,
      s.readVirtual (s.asker x s.now.core false) ((v.setWidth 56 : BitVec 56).signExtend 64 : W64).toNat 64 = .ok r →
      exec (.measureWrite o) s = .next (wrote 0x109 { s with security := s.security.extend r }))
    ∧ (s.srFault x 0x050 true = none →
      (waveIdCore (v.toNat % 2 ^ 15) = s.now.core → ∀ y, s.wave? s.now.core (waveIdSlot (v.toNat % 2 ^ 15)) = some y →
        y.supervisor = true ∨ y.prio = 0 ∨ s.canDrop s.now.core (waveIdSlot (v.toNat % 2 ^ 15)) = true) →
      exec (.dropWrite o) s = .next (wrote 0x050 (s.dropByName s.now.core v)))
    ∧ (s.srFault x 0x051 true = none → ∀ t, s.reprioByName s.now.core v = some t →
      exec (.reprioWrite o) s = .next (wrote 0x051 t))

/-- An access of a special register that 02 R84 forbids takes its trap with the slice's executing lanes, and changes nothing
else: 0x23 in the normal world, 0x21 outside the supervisor or for the wrong direction. -/
def Obligations.SpecialRegisterAccessTraps : Prop :=
  ∀ (s : State) (x : Wave) (k : Nat) (code : Byte), Ready s x → Edged s x → s.now.slices = [k] →
    (∀ o : RsrOp, x.lanes o.g k ≠ [] → (∀ v, o.d = .lane v → v.toNat < x.allot) → s.srFault x o.num.toNat false = some code →
      exec (.rsr o) s = .next (s.trapNow k { code, lanes := lanesMask (x.lanes o.g k) }))
    ∧ (∀ o : WsrOp, x.lanes o.g k ≠ [] → s.srFault x o.num.toNat true = some code →
      exec (.wsr o) s = .next (s.trapNow k { code, lanes := lanesMask (x.lanes o.g k) }))
    ∧ (∀ num, isSecureSr num = true → s.secureWave x = false → ∀ write, s.srFault x num write = some 0x23)
    ∧ (∀ num, isSupervisorSr num = true → x.supervisor = false → ∀ write, s.srFault x num write = some 0x21)

/-! ### Loads and stores -/

/-- A plain load or store issues: with its addresses translated and aligned as its policy operand asks, nothing earlier holding it
and a count and a place for its page walks free, the access of the lanes it works on goes out; where no lane executes, the slice only
goes on.  LD.P acts on none of the policy operand's fields (02 R59 to R64, 06 R139). -/
def Obligations.LoadsAndStoresIssue : Prop :=
  ∀ (s : State) (x : Wave) (k : Nat) (o : MemOp) (i : Instr) (m : MemForm) (ps : List (Part × Option Xlat)),
    (i, m) ∈ memForms o → Ready s x → s.now.slices = [k] → x.Fields (MemOp.shape o m).fields →
    let lanes := workLanes (x.slice k) o.g (onceFor o.data)
    let pol := (x.slice k).raw (.s o.policy.toNat)
    let peer := ps.any (fun p => p.1.place.isPeer)
    (lanes = [] → exec i s = .next ((s.advance (MemOp.shape o m) [] k).modWave s.now.core s.now.slot (·.partPeers s.now.slices)))
    ∧ (lanes ≠ [] → polBad pol m.load = false → (m.ordered = true → polOrder pol ≠ 0 → ∀ l ∈ lanes, memAddr x k o m l % m.bytes = 0) →
    laneParts (fun l => s.partsFor x s.now.core l (memAddr x k o m l) m.bytes m.space (s.asker x s.now.core (!m.load)))
      (memAddr x k o m) lanes = .ok ps →
    s.acquireAhead s.now.core s.now.slot k = none →
    ps.any (fun p => p.2.isSome && s.walkerFull s.now.core x.process p.1.va) = false →
    x.counter (match m.space with | .scratch _ => 2 | _ => if peer then 4 else if m.load then 0 else 1) < 255 →
    (m.load = false → polOrder pol = 2 → Edged s x ∧ s.drained s.now.core s.now.slot k
      { loads := true, stores := true, redm := false, scope := scopeOf (polScope pol) } = true) →
    exec i s = .next ((if m.load then issueLoad m o pol lanes ps k s
      else issueStore m o pol lanes (lanes.map (fun l => (l, (x.slice k).field o.data (m.bytes = 8) l))) ps k s).modWave
        s.now.core s.now.slot (·.partPeers s.now.slices)))

/-- A load that goes to the core's scratchpad, the launch's parameters or local memory leaves every byte of memory and every
register as it was: it awaits its destination, counts, and the slice stands at the next word.  LD.P never acquires (02 R59, R62,
R64). -/
def Obligations.LoadIssueChangesNoMemory : Prop :=
  ∀ (s : State) (x : Wave) (k : Nat) (o : MemOp) (m : MemForm) (pol : W32) (lanes : List Nat) (ps : List (Part × Option Xlat)) (sl : Slice),
    s.now.prompt = false → s.wave? s.now.core s.now.slot = some x → Store.find? x.slices k = some sl →
    (∀ p ∈ ps, p.1.place.isPeer = false) →
    let t := issueLoad m o pol lanes ps k s
    (∀ die p a, t.peek die p a = s.peek die p a)
    ∧ (∃ a, Store.find? t.inflight s.serial = some a ∧ a.parts = ps.map (fun p => { p.1 with copy := false })
        ∧ a.core = s.now.core ∧ a.slot = s.now.slot ∧ a.slice = k
        ∧ a.kind = .load o.data (m.bytes = 8) m.bytes m.signed
            (if m.ordered && polOrder pol = 1 then some (scopeOf (polScope pol)) else none)
        ∧ a.path = some (match m.space with | .scratch _ => 2 | _ => 0))
    ∧ t.serial = s.serial + 1
    ∧ ∃ sl', t.slice? s.now.core s.now.slot k = some sl' ∧ sl'.pc = sl.pc.next ∧ sl'.v = sl.v ∧ sl'.s = sl.s ∧ sl'.p = sl.p
        ∧ sl'.out = sl.out ++ (lanes.flatMap (regLocs o.data (m.bytes = 8))).map (fun l =>
            { loc := l, by_ := .memory, pc := sl.pc, id := s.serial })

/-- STORE_PERFORMED changes no byte outside its store's parts, and leaves in its place the data of a store of one part that may
take its moment; a store to host memory does so from the LLC (02 R64, 13 R250, R256). -/
def Obligations.StorePerformedStores : Prop :=
  ∀ (s : State) (id : Nat) (a : Access), Store.find? s.inflight id = some a → a.kind = .store → a.slot < 64 → a.returned = false →
    (∀ p ∈ a.parts, p.place.plain ∧ p.rep = false ∧ p.size = p.data.length ∧ s.worldOk a.secure p.place p.addr = true) →
    ∃ t, exec (.storePerformed id) s = .next t
      ∧ (∀ die q b, (∀ p ∈ a.parts, q ≠ p.place ∨ b < p.addr ∨ p.addr + p.size ≤ b) → t.peek die q b = s.peek die q b)
      ∧ ∀ p, a.parts = [p] → s.partDue id a 0 p = true → (p.place = .host → p.llc = true) →
          ∀ die i, (h : i < p.data.length) → Store.find? s.stale (staleKey p.place (p.addr + i) die) = none →
            t.peek die p.place (p.addr + i) = p.data[i]

/-- LOAD_RETURN of a load of this package whose last part may take its moment reads that part, and what the load has read lands
in its registers, each lane's bytes sign- or zero-extended; a load that acquires then acquires.  From the scratchpad the part's bytes are
those that stand there (02 R59, R64, 13 R248). -/
def Obligations.LoadReturnLands : Prop :=
  ∀ (s : State) (id : Nat) (a : Access) (d : Reg) (wide signed : Bool) (n : Nat) (acq : Option Scope) (i : Nat) (p : Part),
    Store.find? s.inflight id = some a → a.kind = .load d wide n signed acq → (∀ q, d ≠ .q q) →
    a.returned = false → a.cancelled = false →
    a.parts[i]? = some p → s.partDue id a i p = true →
    (∀ j q, a.parts[j]? = some q → j ≠ i → q.place.isPeer = false ∧ q.copy = false ∧ ∃ bs, q.got = some (.data bs)) →
    let read := s.readPart id a i p
    let got := fun (q : Part) => { q with got := some (PeerReply.data read.1) }
    let a' := { a with parts := a.parts.modify i got }
    let ws := (a'.parts.map (·.lane)).eraseDups.flatMap (fun l =>
      destWrites d wide l (extendBytes ((a'.parts.filter (fun q => q.lane = l)).flatMap Part.bytes) signed))
    let t := (read.2.modPart id i got).landAll a' id ws
    exec (.loadReturn id) s = .next ((match acq with | some scope => t.acquireFor a' scope | none => t).finish id a')
    ∧ (∀ c, p.place = .scratch c → read.1 = s.peekN (dieOf a.core) p.place p.addr p.size ∧ (s.tags = [] → read.2 = s))

/-! ### Fences, counters, barriers and atomics -/

/-- FENCE, FENCE.M, WAITC and PREF complete.  With nothing left that they await, a FENCE that acquires discards the copies its
scope names and takes what its slice's reads have met, and one that releases makes the slice's later writes releases; a WAITC whose
counter is above its threshold begins to wait; a PREF asks for the walks of its lanes.  A slice in which no lane executes only goes on
(02 R40, R65, 10 R207, R208, R210). -/
def Obligations.FencesAndCounterWaitsComplete : Prop :=
  ∀ (s : State) (x : Wave), Ready s x →
    (∀ o : FenceOp,
      let need : FenceNeed := { loads := true, stores := o.kind ≠ .acq, redm := false, scope := o.scope }
      (∀ k ∈ s.now.slices, x.lanes o.g k ≠ [] → s.drained s.now.core s.now.slot k need = true) →
      Acts s (.fence o) (fun k t => if x.lanes o.g k = [] then t.advance { g := o.g, srcs := [] } [] k else
        let u := if o.kind = .rel then t else (t.acquireMet t.now.core t.now.slot k o.scope).acquire t.now.core t.now.slot o.scope
        (if o.kind = .acq then u else u.releaseMet u.now.core u.now.slot k o.scope).advance { g := o.g, srcs := [] } [] k))
    ∧ (∀ o : FenceMOp,
      (∀ k ∈ s.now.slices, x.lanes o.g k ≠ [] → s.drained s.now.core s.now.slot k { loads := true, stores := true, redm := true, scope := o.scope } = true) →
      Acts s (.fenceM o) (fun k t => if x.lanes o.g k = [] then t.advance { g := o.g, srcs := [] } [] k else
        let u := (t.acquireMet t.now.core t.now.slot k o.scope).acquire t.now.core t.now.slot o.scope
        (u.releaseMet u.now.core u.now.slot k o.scope).advance { g := o.g, srcs := [] } [] k))
    ∧ (∀ o : WaitcOp, Acts s (.waitc o) (fun k t =>
        let n := ((x.slice k).raw (.s o.a.toNat)).toNat
        if x.lanes o.g k = [] ∨ x.counter o.path.toNat ≤ n then t.advance (WaitcOp.shape o) ((x.lanes o.g k).take 1) k
        else (t.markNow (WaitcOp.shape o) ((x.lanes o.g k).take 1) k).modNow k (fun sl => { sl with wait := some (.waitc o.path.toNat n) })))
    ∧ ∀ (o : PrefOp) (k : Nat), s.now.slices = [k] → s.now.prompt = false → x.Fields [(o.base, true)] →
      let pol := (x.slice k).raw (.s o.policy.toNat)
      let va := fun (l : Nat) => laneAddr .hbm ((x.slice k).field o.base true l) o.off
      (x.lanes o.g k = [] → exec (.pref o) s = .next (s.advance (PrefOp.shape o) [] k))
      ∧ (x.lanes o.g k ≠ [] → polBad pol true = false → polOrder pol = 0 →
        (∀ l ∈ x.lanes o.g k, (canonical (va l) && s.walkerFull s.now.core x.process (va l)) = false) →
        let walks := (x.lanes o.g k).map (fun l =>
          ({ process := x.process, user := (s.asker x s.now.core false).user, core := s.now.core
             va := BitVec.ofNat 64 (va l), fillL1 := lineClass pol (va l) ≠ 3, dom := s.l1Dom s.now.core s.now.slot } : Walk))
        let cl := s.now.core / 32
        exec (.pref o) s = .next ((s.setCluster cl { s.cluster cl with walks := (s.cluster cl).walks ++ walks }).advance
          (PrefOp.shape o) (x.lanes o.g k) k))

/-- The barrier instructions complete where their object lies in the team's scratch: BINIT and BARV, once nothing of the slice is
ahead of them, write the object as releases, BARV gives the phase before, and BWAIT begins to wait and looks once.  With no lane
executing they only go on.  A decrement lowers the count by k; from zero or below it rises by whole initial counts, and each takes the
phase one on, modulo 2^16; the initial count stays (02 R40, 10 R211 to R213). -/
def Obligations.BarriersComplete : Prop :=
  (∀ (s : State) (x : Wave) (k c a : Nat), Ready s x → s.now.slices = [k] →
    let sl := x.slice k
    let free := s.acquireAhead s.now.core s.now.slot k = none ∧ s.ownAccessAhead { core := s.now.core, slot := s.now.slot, slice := k }
      { lane := 0, place := .scratch c, addr := a, size := 16 } = false
    (∀ o : BinitOp, (x.lanes o.g k = [] → exec (.binit o) s = .next (s.advance (BinitOp.shape o) [] k)) ∧
      (Edged s x → free → x.lanes o.g k ≠ [] →
      s.barrierAt x s.now.core (lanesMask (x.lanes o.g k)) (sl.raw (.s o.a.toNat)) = .ok (c, a) →
      let b := sl.raw (.s o.b.toNat)
      b ≠ 0 → b.toNat < 2 ^ 31 → s.drained s.now.core s.now.slot k { loads := true, stores := true, redm := false, scope := .tm } = true →
      let t := ((s.untag (.scratch c) a 16 noAccess).releaseAt k .tm c a).pokeN (.scratch c) a
        (leBytes 4 b.toNat ++ leBytes 4 b.toNat ++ List.replicate 8 0)
      exec (.binit o) s = .next ((t.advance (BinitOp.shape o) ((x.lanes o.g k).take 1) k).closeRegion t.now.core t.now.slot k sl.lastLive sl.pc)))
    ∧ (∀ o : BarOp, (x.lanes o.g k = [] → exec (.barv o) s = .next (s.advance (BarOp.shape o) [] k)) ∧
      (Edged s x → free → x.lanes o.g k ≠ [] →
      s.barrierAt x s.now.core (lanesMask (x.lanes o.g k)) (sl.raw (.s o.a.toNat)) = .ok (c, a) →
      let n := sl.raw (.s o.b.toNat)
      n.toNat < 2 ^ 31 → s.drained s.now.core s.now.slot k { loads := true, stores := true, redm := false, scope := o.scope } = true →
      let b := s.readBarrier c a
      let t := ((s.releaseAt k o.scope c a).writeBarrier c a (b.decrement n.toNat)).putS k o.d (BitVec.ofNat 32 b.phase)
      exec (.barv o) s = .next ((t.advance (BarOp.shape o) ((x.lanes o.g k).take 1) k).closeRegion t.now.core t.now.slot k
        (sl.lastLive ||| liveOf [.s o.d.toNat]) sl.pc)))
    ∧ ∀ o : BarOp, (x.lanes o.g k = [] → exec (.bwait o) s = .next (s.advance (BarOp.shape o) [] k)) ∧
      (s.acquireAhead s.now.core s.now.slot k = none → x.lanes o.g k ≠ [] →
      s.barrierAt x s.now.core (lanesMask (x.lanes o.g k)) (sl.raw (.s o.a.toNat)) = .ok (c, a) →
      let t := s.modNow k (fun st => { st with
        wait := some (.bwait ((sl.raw (.s o.a.toNat)).setWidth 64) ((sl.raw (.s o.b.toNat)).setWidth 16) o.d o.scope) })
      exec (.bwait o) s = .next (t.pollBarrier { core := t.now.core, slot := t.now.slot, slice := k })))
  ∧ ∀ (b : Barrier) (k : Nat), b.phase < 65536 →
    let d := b.decrement k
    d.init = b.init ∧ d.fault = b.fault ∧ d.fcode = b.fcode
    ∧ (k = 0 → d = b)
    ∧ (0 < b.count - k → d.count = b.count - k ∧ d.phase = b.phase)
    ∧ (0 < k → b.count - k ≤ 0 → 0 < b.init → b.init < 2 ^ 31 →
        ∃ n : Nat, d.count = b.count - k + n * b.init ∧ 0 < d.count ∧ d.count ≤ b.init ∧ d.phase = (b.phase + n) % 65536)

/-- ATOM, RED.M and WAITCMP issue where their addresses are aligned and translate and nothing earlier holds them: the accesses of
the lanes they work on go out, or the monitor is armed.  With no lane executing they only go on (02 R40, 10 R200 to R209). -/
def Obligations.AtomicsIssue : Prop :=
  ∀ (s : State) (x : Wave) (k : Nat) (ps : List (Part × Option Xlat)), Ready s x → s.now.slices = [k] → Edged s x →
    s.acquireAhead s.now.core s.now.slot k = none → x.counter 4 < 255 →
    ps.any (fun p => p.2.isSome && s.walkerFull s.now.core x.process p.1.va) = false →
    let filled := ps.foldl (fun (t : State) p => match p.2 with
      | some e => t.fillCoreTlb t.now.core e
      | none => t) s
    (∀ o : AtomOp, x.Fields (AtomOp.shape o).fields →
      let lanes := workLanes (x.slice k) o.g (AtomOp.shape o).uniform
      (lanes = [] → exec (.atom o) s = .next (s.advance (AtomOp.shape o) [] k))
      ∧ (lanes ≠ [] → s.atomLanes (s.ctx x k) lanes (fun l => ((x.slice k).field o.a (o.space == .global) l).toNat) o.ty.bytes o.space
        { s.asker x s.now.core true with redm := false } = .ok ps →
      (o.scope ≠ .wv → s.drained s.now.core s.now.slot k { loads := true, stores := true, redm := false, scope := o.scope } = true) →
      let data := fun (l : Nat) => leBytes o.ty.bytes ((x.slice k).field o.b o.ty.ty.wide l).toNat
      let cmp := fun (l : Nat) => match o.c with
        | some c => leBytes o.ty.bytes ((x.slice k).field c o.ty.ty.wide l).toNat
        | none => []
      let parts := ps.map (fun (p : Part × Option Xlat) => { p.1 with data := data p.1.lane, cmp := cmp p.1.lane })
      exec (.atom o) s = .next (sendAtoms (AtomOp.shape o) (.atom (some o.d) o.kind o.ty o.scope) (some (o.d, o.ty.ty.wide)) (some o.scope) parts
        (· ||| liveOf (regLocs o.d o.ty.ty.wide 0)) x k lanes filled)))
    ∧ (∀ o : RedMOp, x.Fields (RedMOp.shape o).fields →
      (x.lanes o.g k = [] → exec (.redM o) s = .next (s.advance (RedMOp.shape o) [] k))
      ∧ (x.lanes o.g k ≠ [] → s.atomLanes (s.ctx x k) (x.lanes o.g k) (fun l => ((x.slice k).field o.a true l).toNat) 4 .global
        { s.asker x s.now.core true with redm := true } = .ok ps →
      let parts := ps.map (fun (p : Part × Option Xlat) => { p.1 with data := leBytes 4 ((x.slice k).field o.b.reg false p.1.lane).toNat, cmp := [] })
      exec (.redM o) s = .next (sendAtoms (RedMOp.shape o) (.redm o.kind o.ty) none none parts id x k (x.lanes o.g k) filled)))
    ∧ ∀ o : WaitcmpOp, x.Fields (WaitcmpOp.shape o).fields → s.now.prompt = false →
      let n := MonTy.bytes o.ty
      let lanes := workLanes (x.slice k) o.g (WaitcmpOp.shape o).uniform
      (lanes = [] → exec (.waitcmp o) s = .next (s.advance (WaitcmpOp.shape o) [] k))
      ∧ (lanes ≠ [] → s.atomLanes (s.ctx x k) lanes (fun l => ((x.slice k).field o.a (o.space == .global) l).toNat) n o.space
        (s.asker x s.now.core false) = .ok ps →
      let m : Monitor :=
        { d := o.d, space := o.space, cond := o.cond, ty := o.ty, scope := o.scope
          lanes := lanes.map (fun l => (l, BitVec.ofNat 64 ((x.slice k).field o.a (o.space == .global) l).toNat, (x.slice k).field o.b (n = 8) l))
          start := s.cltime (s.now.core / 32), timeout := (x.slice k).raw (.s o.c.toNat), edge := false
          uses := laterUses (s.ctx x k) (x.slice k) (WaitcmpOp.shape o) lanes, group := s.fresh }
      exec (.waitcmp o) s = .next (s.modNow k (fun sl => { sl with
          wait := some (.monitor m)
          out := sl.out ++ (destLocs o.d (n = 8) lanes).map (fun loc => { loc, by_ := .memory, pc := sl.pc, id := noAccess }) })))

/-! ### Waits that end -/

/-- The waits of the control and synchronising instructions end, and the slices go on: a WAITC whose counter has fallen, a fence
whose accesses are done, a REGANG or a segment meeting whose slices have come, a full/empty state; a BWAIT
whose barrier has changed phase or faulted ends with an acquire and the word at offset 8; a WAITCMP whose read leaves every lane
satisfied ends, and with its timeout passed every lane need only have a value; the monitors of one instruction that pops or pushes end
together (02 R43, R65, R73, 04 R123, 07 R160, 10 R208, R209, R213). -/
def Obligations.WaitsEnd : Prop :=
  (∀ (s : State) (w : SliceRef) (x : Wave), s.wave? w.core w.slot = some x →
    let sl := x.slice w.slice
    ((s.mates w).Nodup → (∀ k ∈ s.mates w, ∃ path n, (x.slice k).wait = some (.waitc path n) ∧ x.counter path ≤ n) →
      exec (.waitcRelease w) s = .next ((s.mates w).foldl (fun t k => t.modSlice w.core w.slot k (fun sl =>
        { sl.tickWindows with pc := sl.pc.next, wait := none })) s))
    ∧ (∀ need, sl.wait = some (.fence need) → s.drained w.core w.slot w.slice need = true →
      exec (.fenceDrainComplete w) s = .next (s.modSlice w.core w.slot w.slice (fun sl => { sl with wait := none })))
    ∧ (∀ m, sl.wait = some (.regang m) →
      let there := fun (k : Nat) => (∃ m', (x.slice k).wait = some (.regang m')) ∧ (x.slice k).pc = sl.pc
      let all := fun (m : BitVec 16) => ∀ j, j < 16 → m.getLsbD j = true → (x.slice j).ended = true ∨ there j
      all m → ∃ ks : List Nat, (∀ k, k ∈ ks ↔ there k ∧ ∀ m', (x.slice k).wait = some (.regang m') → all m')
        ∧ exec (.regangRelease w) s = .next (s.setWave w.core w.slot ((ks.foldl (fun (x : Wave) k =>
            x.setSlice k { x.slice k with wait := none, pc := sl.pc.next }) x).formGang ks (((x.gangOf? w.slice).map (·.age)).getD 0))))
    ∧ (∀ n, sl.wait = some (.meeting n) → (∀ k ∈ x.meets (4 * n) w.slice, (x.slice k).wait = some (.meeting n) ∧ (x.slice k).pc = sl.pc) →
      exec (.segmentMeetingRelease w) s = .next (s.setWave w.core w.slot (((x.meets (4 * n) w.slice).foldl (fun (x : Wave) k =>
        x.setSlice k { x.slice k with wait := none }) x).formGang (x.meets (4 * n) w.slice) (((x.gangOf? w.slice).map (·.age)).getD 0))))
    ∧ (sl.wait = some .fullEmpty →
      exec (.fullEmptyProceed w) s = .next (s.modSlice w.core w.slot w.slice (fun sl => { sl with wait := none }))))
  ∧ ∀ (s : State) (w : SliceRef) (x : Wave), s.wave? w.core w.slot = some x → s.mates w = [w.slice] →
    (∀ addr phase d scope c a, (x.slice w.slice).wait = some (.bwait addr phase d scope) →
      s.scratch x.team (w.core / 32) addr.toNat 16 = .ok (.scratch c, a) →
      ((s.readBarrier c a).phase ≠ phase.toNat ∨ (s.readBarrier c a).fault = true) →
      s.ownWriteAhead w { lane := 0, place := .scratch c, addr := a, size := 16 } = false →
      exec (.bwaitRelease w) s = .next ((((s.meet w.core w.slot (s.gen w.core w.slot) w.slice (some scope) (.scratch c) a 16).acquire
        w.core w.slot scope).modSlice w.core w.slot w.slice (fun sl =>
          sl.write (writeFresh s.fresh w.slice) (.s d.toNat) (BitVec.ofNat 32 (ofLeBytes (s.peekN 0 (.scratch c) (a + 8) 4))))).modSlice w.core w.slot w.slice
          (fun sl => { sl.tickWindows with pc := sl.pc.next, wait := none })))
    ∧ ∀ m m' t x', (x.slice w.slice).wait = some (.monitor m) → s.readMonitor w x m = .ok (m', t) →
      ∀ late : Bool, (late = true → m.timeout ≠ 0 ∧ m.start + m.timeout.toNat ≤ s.cltime (w.core / 32)) →
      let n := { m' with late := m'.late || late }
      let u := t.modSlice w.core w.slot w.slice (fun sl => { sl with wait := some (.monitor n) })
      u.wave? w.core w.slot = some x' →
      (∀ p ∈ x'.monitorGroup w.slice n, (∀ l ∈ p.2.lanes, ∃ g, Store.find? p.2.got l.1 = some g ∧ (g.1 = true ∨ p.2.late = true))
        ∧ ((u.core w.core).shareAll w.slot p.2.uses).isSome) →
      exec (if late then .waitcmpTimeout w else .waitcmpMonitorRead w) s = .next (u.endMonitors w (x'.monitorGroup w.slice n))

/-- A fetched segment enters its slot of the instruction store as 512 words (12 R245); a fetch that is pinned out starts once a slot
is free; a floating-point trap is delivered once its handler's segment has come and
nothing of the slice is outstanding: no register write, no uncommitted product, no deferred error (02 R44, 08 R172, 09 R186). -/
def Obligations.SegmentsAndDeliveriesComplete : Prop :=
  (∀ (s : State) (core index : Nat) (e : Segment), (s.core core).istore[index]? = some e → e.words = none →
    (e.started = false → ∀ k, (s.core core).takeSlot = some k → exec (.segmentFetchComplete core index) s =
      .next (s.setCore core { k with istore := k.istore.map (fun f => if f = e then { e with started := true } else f) }))
    ∧ (e.started = true → e.seg.toNat ≤ e.lastSeg → ∀ bs, s.readVirtual
        { process := e.process, user := e.user, secure := ((s.process? e.process).map (·.secure)).getD false, fetch := true
          cluster := core / 32, fresh := s.fresh + 4096 } ((e.code.toNat + 4096 * e.seg.toNat) % 2 ^ 64) 4096 = .ok bs →
      let istore := (s.core core).istore.map (fun f => if f = e then { e with words := some (segmentWords bs), entered := s.serial } else f)
      exec (.segmentFetchComplete core index) s = .next (s.setCore core { s.core core with istore })))
  ∧ ∀ (s : State) (w : SliceRef) (x : Wave) (p : Process) (h : Pc) (t : Trap), s.wave? w.core w.slot = some x →
      (x.slice w.slice).wait = some (.delivery t) → s.process? x.process = some p → p.handler? = some h →
      h.seg.toNat ≤ x.lastSeg → (s.core w.core).hasSegment x.image h.seg = true → (s.core w.core).uncommitted w.slot w.slice = false →
      (x.slice w.slice).out = [] → (x.slice w.slice).deferred = [] →
      exec (.userTrapDelivery w) s = .next ((((s.modSlice w.core w.slot w.slice (fun sl => { (sl.setTrapRegs w.slice t) with
          handler := some sl.mask, pc := h, wait := none })).closeRegion w.core w.slot w.slice
            (x.slice w.slice).lastLive (x.slice w.slice).pc).modWave w.core w.slot (·.leaveGang w.slice)))

/-! ### Shared ranges, queues and profiling -/

/-- QCFG binds or unbinds a queue once its rows are stored.  SHMAP with a mapping in place, or with none to end, only goes on; with
a settled one to end it gives each wave its registers back with the shared values; otherwise its request stands and the slice waits.
The pairing maps the range, every register full with the value of the lower-indexed wave, and lets both waves go on.  With no lane
executing QCFG and SHMAP only go on (02 R40, R57, R58, 07 R160 to R162). -/
def Obligations.BindingsComplete : Prop :=
  (∀ (s : State) (x : Wave) (o : QcfgOp), Ready s x →
    (∀ k ∈ s.now.slices, x.lanes o.g k ≠ [] → x.queueDrained o.q.toNat = true
      ∧ s.queueStoring s.now.core s.now.slot (s.gen s.now.core s.now.slot) o.q.toNat = false) →
    Acts s (.qcfg o) (fun k t =>
      let v := (List.range 4).map (fun i => (x.slice k).raw (.s (4 * o.quad.toNat + i)))
      let b : Option Queue := match o.dir with
        | .unbind => none
        | d => some { dir := d, space := o.space, wide := o.wide, base := v.getD 1 0 ++ v.getD 0 0, rows := v.getD 2 0, stride := v.getD 3 0 }
      if x.lanes o.g k = [] then t.advance (QcfgOp.shape o) [] k
      else ((t.cancelQueue t.now.core t.now.slot o.q.toNat).modNowWave (fun w =>
        { w with queues := Store.put w.queues o.q.toNat b })).advance (QcfgOp.shape o) (x.lanes o.g k) k))
  ∧ (∀ (s : State) (x : Wave) (k : Nat) (o : ShmapOp), s.wave? s.now.core s.now.slot = some x → s.now.slices = [k] →
      (∃ sl, Store.find? x.slices k = some sl ∧ sl.Quiet) → o.d.toNat + max o.count.toNat 1 ≤ x.allot →
      let partner := ((x.slice k).raw (.s o.a.toNat)).toNat
      let mapped := (s.core s.now.core).mapping? s.now.slot o.d.toNat ((s.core s.now.core).teamHolder x.team partner)
      let on := fun (t : State) => t.advance (ShmapOp.shape o) (x.lanes o.g k) k
      (x.lanes o.g k = [] → exec (.shmap o) s = .next (on s))
      ∧ (x.lanes o.g k ≠ [] → s.partnerOk x partner = true →
        (∀ h, mapped = some h →
          (o.count ≠ 0 → h.count = o.count.toNat → exec (.shmap o) s = .next (on s))
          ∧ (o.count = 0 → h.settled = true →
            let back := fun (y : Wave) (first : Nat) => (rangeCells h.count y.width).foldl (fun (y : Wave) r =>
              y.setVreg (first + r.1) r.2 (Store.get h.vals 0 (64 * r.1 + r.2))) y
            exec (.shmap o) s = .next (on (((s.setCore s.now.core { s.core s.now.core with
              shared := (s.core s.now.core).shared.erase h }).modHolder s.now.core h.slotA (fun y => back y h.regA)).modHolder
                s.now.core h.slotB (fun y => back y h.regB)))))
        ∧ (o.count = 0 → mapped = none → exec (.shmap o) s = .next (on s))
        ∧ (o.count ≠ 0 → s.now.prompt = false → (∀ h, mapped = some h → h.count ≠ o.count.toNat) →
          exec (.shmap o) s = .next ((s.modNowWave (fun w =>
            if w.shares.contains { first := o.d.toNat, partner, count := o.count.toNat } then w
            else { w with shares := w.shares ++ [{ first := o.d.toNat, partner, count := o.count.toNat }] })).modNow k (fun sl =>
              { sl with wait := some (.shmap o.d.toNat partner o.count.toNat) })))))
  ∧ ∀ (s : State) (w : SliceRef) (x y : Wave) (r q : ShareReq) (other : Nat), s.wave? w.core w.slot = some x → x.shares = [r] →
      (s.core w.core).teamWave x.team r.partner = some other → s.wave? w.core other = some y →
      y.shares.find? (fun q => q.partner = x.index && q.count = r.count) = some q → x.width ≤ 64 → y.width ≤ 64 →
      let low := x.index < r.partner
      let lower := if low then x else y
      let first := if low then r.first else q.first
      ∃ vals : Store W32, (∀ i lane, i < r.count → lane < lower.width →
          Store.get vals 0 (64 * i + lane) = lower.vreg s.fresh (first + i) lane)
        ∧ let shared : Shared := { slotA := if low then w.slot else other, regA := first, slotB := if low then other else w.slot
                                   regB := if low then q.first else r.first, count := r.count, vals, st := [] }
          let mapped := s.setCore w.core { s.core w.core with shared := (s.core w.core).shared ++ [shared] }
          exec (.shmapPairing w) s = .next (((((mapped.modWave w.core w.slot (fun v => { v with shares := v.shares.filter (· ≠ r) })).modWave
            w.core other (fun v => { v with shares := v.shares.filter (· ≠ q) })).releaseShmap w.core w.slot r.first r.partner r.count).releaseShmap
              w.core other q.first q.partner q.count))

/-- A load queue's engine opens the next row and asks for every lane's element, a plain access that counts on no path; an element
that cannot be reached is a free value (log 31).  A store queue's engine takes out the oldest row that has its values, once the row before
it has been stored, and stores each lane's element, of 4 or 8 bytes, little-endian (07 R162, R163). -/
def Obligations.QueueEnginesComplete : Prop :=
  ∀ (s : State) (core slot q : Nat) (x : Wave) (b : Queue), s.wave? core slot = some x → Store.find? x.queues q = some b →
    let agent := fun (kind : Flight) (parts : List Part) => ({ core, slot, slice := 16 + q, gen := s.gen core slot, pc := {}, word := 0
                                                               path := none, kind, parts, lanes := 0, process := x.process
                                                               secure := s.secureWave x, row := b.next } : Access)
    let bytes := if b.wide then 8 else 4
    (b.dir = .load → b.held.length < 8 → b.next < b.rows.toNat →
      let ask := fun (l : Nat) => queueParts s x core b b.next l false
      let parts := (List.range x.width).flatMap ask
      let row : Row := { vals := (List.range x.width).map (fun l => if ask l = [] then some (Config.freeWord (s.fresh + l)) else none)
                         awaits := if parts = [] then [] else [s.serial] }
      let t := s.modWave core slot (fun x => { x with queues := Store.insert x.queues q { b with held := b.held ++ [row], next := b.next + 1 } })
      (parts = [] → exec (.queueLoadRowFetch core slot q) s = .next t)
      ∧ (parts ≠ [] → exec (.queueLoadRowFetch core slot q) s =
          .next (t.launchRow (agent (.load (.q (BitVec.ofNat 3 q)) b.wide bytes false none) parts))))
    ∧ ∀ row rest, b.dir = .store → b.held = row :: rest → row.awaits = [] → s.queueStoring core slot (s.gen core slot) q = false →
      let cut := fun (ps : List Part) (v : W64) => (ps.foldl (fun (r : List Part × List Byte) p =>
        (r.1 ++ [{ p with data := r.2.take p.size }], r.2.drop p.size)) ([], leBytes bytes v.toNat)).1
      let parts := row.vals.zipIdx.flatMap (fun v => match v.1 with
        | some val => cut (queueParts s x core b b.next v.2 true) val
        | none => [])
      let t := s.modWave core slot (fun x => { x with queues := Store.insert x.queues q { b with held := rest, next := b.next + 1 } })
      (parts = [] → exec (.queueStoreRowPerform core slot q) s = .next t)
      ∧ (parts ≠ [] → exec (.queueStoreRowPerform core slot q) s = .next (t.launchRow (agent .store parts)))

/-- A MOV from a load queue pops one row: each executing lane takes its element, the committed row moves on once, and the pop is a
region edge; a MOV to a store queue pushes one row.  With no lane executing neither pops nor pushes (02 R40, R43, R55, R58, 07 R162). -/
def Obligations.QueueMoves : Prop :=
  ∀ (s : State) (x : Wave) (k : Nat) (o : Alu1), Ready s x → Edged s x → s.now.slices = [k] → o.ty.wide = false →
    let lanes := x.lanes o.g k
    (∀ (q : BitVec 3) (d : BitVec 7), o.a.reg = .q q → o.d = .v d → d.toNat < x.allot →
      (lanes ≠ [] → x.popOk q.toNat = true ∧ x.popReady q.toNat = true) →
      ∃ t y sl, exec (.mov o) s = .next t ∧ t.wave? s.now.core s.now.slot = some y ∧ Store.find? y.slices k = some sl
        ∧ y.queues = (if lanes = [] then x else x.pop q.toNat).queues ∧ sl.pc = (x.slice k).pc.next
        ∧ ∀ l ∈ lanes, sl.raw (.v d.toNat l) = low (x.popValue q.toNat (4 * k + l)))
    ∧ (∀ (q : BitVec 3) (a : BitVec 7), o.d = .q q → o.a.reg = .v a → a.toNat < x.allot →
      (lanes ≠ [] → x.pushOk q.toNat = true ∧ x.pushReady q.toNat = true) →
      ∃ t y sl, exec (.mov o) s = .next t ∧ t.wave? s.now.core s.now.slot = some y ∧ Store.find? y.slices k = some sl
        ∧ y.queues = (if lanes = [] then x
            else x.push q.toNat (lanes.map (fun l => (4 * k + l, ((x.slice k).raw (.v a.toNat l)).setWidth 64)))).queues
        ∧ sl.pc = (x.slice k).pc.next ∧ sl.v = (x.slice k).v ∧ sl.s = (x.slice k).s)

/-- The counting windows and the arbiter's boost: a cycle in which no gang of the wave issues counts under one reason, a sample that is
due is taken, and a gang ready for 256 cycles is boosted (28 R463, R466, R467, 25 R424). -/
def Obligations.ProfilingEventsComplete : Prop :=
  ∀ (s : State) (core slot : Nat) (x : Wave), s.wave? core slot = some x →
    (∀ r, s.stallReason core slot x = some r → x.count.running = true → s.sampleDue x.count = false →
      exec (.stallCycle core slot) s = .next ((s.bump (core / 32) 3 1).modWave core slot (fun x => { x with count := { x.count with
        span := x.count.span + 1, stalls := Store.set x.count.stalls 0 r.1 (Store.get x.count.stalls 0 r.1 + 1) } })))
    ∧ (∀ r, s.stallReason core slot x = some r → s.sampleDue x.count = true →
      let k := r.2.low
      let m : Sample := { cycle := x.count.span, reason := r.1, waiting := (x.slice k).pc, producer := s.producerPc core slot x k r.1
                          rtop := (x.slice k).rtop }
      let n := { x.count with due := false }
      (x.count.held.length < 2 →
        exec (.sampleTake core slot) s = .next (s.setWave core slot { x with count := { n with held := n.held ++ [m] } }))
      ∧ (2 ≤ x.count.held.length → x.count.batch.length < 6 →
        exec (.sampleTake core slot) s = .next (s.setWave core slot { x with count := { n with batch := n.batch ++ [m] } }))
      ∧ (2 ≤ x.count.held.length → 6 ≤ x.count.batch.length →
        exec (.sampleTake core slot) s = .next ((s.flushSamples core slot { x with count := { n with batch := n.batch ++ [m] } }).setWave
          core slot { x with count := { n with batch := [] } })))
    ∧ ∀ slice, (∀ g ∈ x.gangs, slice ∈ g.slices → s.gangReason core x g = none ∧ 256 ≤ s.cycles - g.since) →
      exec (.gangBoost core slot slice) s = .next (s.setWave core slot { x with gangs := x.gangs.map (fun g =>
        if slice ∈ g.slices then { g with boosted := true } else g) })

/-! ### The matrix unit -/

/-- The instructions over records, slots and tiles complete: OBRES and WLD take a snapshot of scratch, OBREL and WINV empty their
record or slot, MZERO claims a zero tile, MACQ and MREL move its token, MSTAT reads the state; with no lane executing each only goes on
(14 R279 to R281, R283, R286, 02 R40). -/
def Obligations.MatrixStorageCompletes : Prop :=
  ∀ (s : State) (x : Wave) (k : Nat), Ready s x → Edged s x → s.now.slices = [k] →
    let ctx := s.ctx x k
    let sl := x.slice k
    let v := fun (q : SQuad) (i : Nat) => (sl.raw (.s (4 * q.toNat + i))).toNat
    let plain : Option Guard → Shape := fun g => { g, srcs := [] }
    (∀ (o : ObresOp) (bs : List (List Byte)), x.lanes o.g k ≠ [] →
      let base := v o.quad 0
      let extent := v o.quad 1
      let stride := v o.quad 3
      let per := if o.wide then 32 else 16
      0 < extent → extent ≤ 65536 → 0 < stride → base % 16 = 0 → stride % 16 = 0 → (o.fmt = .q4 → stride % (per / 2) = 0) →
      s.snapshot ctx (x.lanes o.g k) ((base, extent) :: (if o.fmt = .q4 then
        [(v o.quad 2, (extent + stride - 1) / stride * (2 * stride / per))] else [])) = .ok bs →
      let r : ObRecord := { base, extent, stride, fmt := o.fmt, wide := o.wide, snap := bs.getD 0 [], scales := bs.getD 1 []
                            cls := x.prio.toNat }
      ctx.recordBusy o.d.toNat = false →
      roomFor (ctx.heldBut { x with records := Store.erase x.records o.d.toNat } (·.heldRecords)) 262144 196608 r.cls r.room = true →
      exec (.obres o) s = .next ((s.modNowWave (fun w => { w with records := Store.insert w.records o.d.toNat r })).matrixDone
        (ObresOp.shape o) true ctx sl (x.lanes o.g k)))
    ∧ (∀ o : ObrelOp, x.lanes o.g k ≠ [] → ctx.recordBusy o.d.toNat = false →
      exec (.obrel o) s = .next ((s.modNowWave (fun w => { w with records := Store.erase w.records o.d.toNat })).matrixDone
        (plain o.g) true ctx sl (x.lanes o.g k)))
    ∧ (∀ (o : WldOp) (bs : List (List Byte)), x.lanes o.g k ≠ [] →
      let base := v o.quad 0
      let kp := v o.quad 1
      let last := v o.quad 3
      let row := panelRow o.fmt kp
      let nsc := panelScales o.fmt (if o.wide then 32 else 16) kp
      let image := panelImage o.fmt (if o.wide then 32 else 16) kp
      base % 16 = 0 → 0 < kp → kp % 32 = 0 →
      (if o.z then image ≤ 32768 ∧ last ≤ 16384 ∧ maskBytes image + 64 * presentChunks (bs.getD 0 []) image ≤ last
        else row ≤ last ∧ image ≤ 16384) →
      s.snapshot ctx (x.lanes o.g k) (if o.z then [(base, last)]
        else (base, 63 * last + row) :: (if nsc = 0 then [] else [(v o.quad 2, nsc)])) = .ok bs →
      let z : WeightSlot := { fmt := o.fmt, wide := o.wide, kp, z := o.z, loaded := s.now.prompt, cls := x.prio.toNat
                              bytes := if o.z then bs.getD 0 []
                                else (List.range 64).flatMap (fun n => ((bs.getD 0 []).drop (n * last)).take row) ++ bs.getD 1 [] }
      ctx.slotBusy o.d.toNat = false →
      roomFor (ctx.heldBut { x with slots := Store.erase x.slots o.d.toNat } (·.heldSlots)) 131072 98304 z.cls z.room = true →
      exec (.wld o) s = .next ((s.modNowWave (fun w => { w with slots := Store.insert w.slots o.d.toNat z })).matrixDone
        (WldOp.shape o) false ctx sl (x.lanes o.g k)))
    ∧ (∀ o : WinvOp, x.lanes o.g k ≠ [] → ctx.slotBusy o.d.toNat = false →
      exec (.winv o) s = .next ((s.modNowWave (fun w => { w with slots := Store.erase w.slots o.d.toNat })).matrixDone
        (plain o.g) false ctx sl (x.lanes o.g k)))
    ∧ (∀ o : MzeroOp, x.lanes o.g k ≠ [] → s.tileBusy ctx o.d.toNat = false →
      ((∃ t, x.tile? o.d.toNat = some t ∧ t.threads = false) ∨ (x.tile? o.d.toNat = none
        ∧ roomFor ((s.core s.now.core).held (·.heldTiles)) 16 12 x.prio.toNat 1 = true)) →
      let cls := match x.tile? o.d.toNat with
        | some t => t.cls
        | none => x.prio.toNat
      let t : Tile := { threads := false, ty := o.ty, elems := [], cls }
      exec (.mzero o) s = .next ((s.modNowWave (fun w => { w with tiles := Store.insert w.tiles o.d.toNat t })).matrixDone (plain o.g) false ctx sl (x.lanes o.g k)))
    ∧ (∀ (o : TileOp) (t : Tile), x.lanes o.g k ≠ [] → s.tileBusy ctx o.d.toNat = false → x.tile? o.d.toNat = some t → t.threads = false →
      exec (.macq o) s = .next ((s.modNowWave (fun w => { w with tiles := Store.insert w.tiles o.d.toNat { t with threads := true } })).matrixDone
        (plain o.g) true ctx sl (x.lanes o.g k)))
    ∧ (∀ (o : MrelOp) (t : Tile), x.lanes o.g k ≠ [] → x.tile? o.d.toNat = some t →
      (if o.free then s.tileBusy ctx o.d.toNat = false else t.threads = true) →
      let held : Option Tile := if o.free then none else some { t with threads := false }
      exec (.mrel o) s = .next ((s.modNowWave (fun w => { w with tiles := Store.put w.tiles o.d.toNat held })).matrixDone (plain o.g) true ctx sl (x.lanes o.g k)))
    ∧ (∀ o : PairOp, x.lanes o.g k ≠ [] →
      exec (.mstat o) s = .next ((s.modNow k (fun st => st.writeAll (writeFresh s.fresh k) (destWrites (pairReg o.p) true 0 (matrixState s ctx)))).matrixDone
        (MstatOp.shape o) false ctx sl (x.lanes o.g k)))
    ∧ let none_ := fun (i : Instr) (sh : Shape) => x.lanes sh.g k = [] → exec i s = .next (s.advance sh [] k)
      (∀ o, none_ (.obres o) (ObresOp.shape o)) ∧ (∀ o, none_ (.obrel o) (plain o.g)) ∧ (∀ o, none_ (.wld o) (WldOp.shape o))
        ∧ (∀ o, none_ (.winv o) (plain o.g)) ∧ (∀ o, none_ (.mzero o) (plain o.g)) ∧ (∀ o, none_ (.macq o) (plain o.g))
        ∧ (∀ o, none_ (.mrel o) (plain o.g)) ∧ ∀ o, none_ (.mstat o) (MstatOp.shape o)

/-- MRD and MWR, with the tile's token at the threads: each lane reads, or writes, the element it names (14 R284). -/
def Obligations.TileAccessCompletes : Prop :=
  ∀ (s : State) (x : Wave) (t : Tile), Ready s x → t.threads = true →
    (∀ o : MrdOp, x.tile? o.a.toNat = some t → x.Fields [(.v o.d, false), (o.b.reg, false)] →
      Runs s x (.mrd o) [x.part o.g (some (.v o.d, false)) (fun k l =>
        word (Store.get t.elems 0 ((x.src k o.b false l).toNat % 4096)))])
    ∧ ∀ o : MwrOp, x.tile? o.d.toNat = some t → x.Fields [(o.a.reg, false), (o.b.reg, false)] →
      ∃ u, Ran s u x (fun _ => [x.part o.g none (fun _ _ => {})])
        ∧ exec (.mwr o) s = .next (u.modNowWave (fun w => { w with tiles := Store.update w.tiles o.d.toNat (fun t =>
            (s.now.slices.flatMap (fun k => (x.lanes o.g k).map (fun l => ((x.src k o.b false l).toNat % 4096, low (x.src k o.a false l))))).foldl
              (fun (t : Tile) e => t.set e.1 e.2) t) }))

/-- MMA issues one pass of its courses, which enters the array and commits: the shadows become the tile's rows and the slices pass
their edge (14 R282, 16 R294 to R302); a weight slot's load completes (14 R281). -/
def Obligations.MatrixProductsComplete : Prop :=
  (∀ (s : State) (x : Wave) (o : MmaOp), Ready s x → Edged s x → s.now.prompt = false → (∀ k ∈ s.now.slices, k ^^^ 1 ∈ s.now.slices) →
    let cs := (s.now.slices.filter (fun k => k % 2 = 0)).map (fun k => (k / 2, (x.slice (2 * (k / 2))).raw (.s o.c.toNat)))
    (∀ c ∈ cs, ∃ t r z n, (courseTile o.d.toNat c.1).1 ≤ 15 ∧ x.tile? (courseTile o.d.toNat c.1).1 = some t ∧ t.threads = false
      ∧ t.ty = o.acc ∧ Store.find? x.records o.a.toNat = some r ∧ Store.find? x.slots o.b.toNat = some z ∧ z.loaded = true
      ∧ r.fmt.combo z.fmt = some (o.acc, n) ∧ maKb c.2 * n + n ≤ z.kp
      ∧ (maKa c.2 * n + n) * r.fmt.nibbles ≤ 2 * r.stride
      ∧ 2 * ((maRow0 c.2 + 16 * c.1 + 15) * r.stride) + (maKa c.2 * n + n) * r.fmt.nibbles ≤ 2 * r.extent) →
    ∃ t p, exec (.mma o) s = .next t ∧ (t.core s.now.core).passes = (s.core s.now.core).passes ++ [p]
      ∧ p.slot = s.now.slot ∧ p.op = o ∧ p.courses = cs ∧ p.shadows = none ∧ p.edges.map (·.1) = cs.flatMap (fun c => [2 * c.1, 2 * c.1 + 1])
      ∧ t.serial = s.serial + 1 ∧ (∀ k ∈ s.now.slices, ∃ sl, t.slice? s.now.core s.now.slot k = some sl ∧ sl.pc = (x.slice k).pc.next)
      ∧ (t.wave? s.now.core s.now.slot).map (·.tiles) = some x.tiles)
  ∧ (∀ (s : State) (core : Nat) (x : Wave) (p : Pass), (s.core core).passes = [p] → p.shadows = none → p.courses.length ≤ 8 →
      s.wave? core p.slot = some x →
      let u := (s.bump (core / 32) 14 p.courses.length).bump (core / 32) 15 (if 2 ≤ p.courses.length then 1 else 0)
      exec (.mmaPassEnter core) s = .next (u.setCore core { s.core core with passes := [{ p with shadows := some (p.run x []) }] }))
  ∧ (∀ (s : State) (core : Nat) (x : Wave) (p : Pass) (rest : List Pass) (hs : List (Nat × Nat × Store W32)),
      (s.core core).passes = p :: rest → p.shadows = some hs → s.wave? core p.slot = some x →
      let tiles := hs.foldl (fun (m : Store Tile) h => Store.update m h.1 (fun t =>
        (List.range 1024).foldl (fun (t : Tile) i => t.set (64 * h.2.1 + i) (Store.get h.2.2 0 i)) t)) x.tiles
      exec (.mmaCommit core) s = .next (p.edges.foldl (fun (t : State) e =>
        t.closeRegionAt core p.slot e.1 e.2.1 e.2.2 { e.2.1.pc with idx := e.2.1.pc.idx - 1 })
          ((s.setCore core { s.core core with passes := rest }).setWave core p.slot { x with tiles })))
  ∧ ∀ (s : State) (core slot w : Nat) (x : Wave) (z : WeightSlot), s.wave? core slot = some x → Store.find? x.slots w = some z →
      exec (.wldLoadComplete core slot w) s = .next (s.setWave core slot { x with slots := Store.insert x.slots w { z with loaded := true } })

/-- MDRAIN issues for every course whose tile the unit holds, once the writes its maximum releases are done: the sixteen rows in
the target's format, then their scales, go out as one store counted on path 2 for scratch, 4 where a row lies at a peer, else 1; the
largest magnitude goes out behind it as an atomic maximum, counted on path 4 at a peer only; both slices pass a region edge (14 R285). -/
def Obligations.DrainsComplete : Prop :=
  ∀ (s : State) (x : Wave) (o : MdrainOp) (d : Nat → Drain), Ready s x → Edged s x → s.now.prompt = false →
    (∀ k ∈ s.now.slices, k ^^^ 1 ∈ s.now.slices) →
    let core := s.now.core
    let slot := s.now.slot
    let cs := (s.now.slices.filter (fun k => k % 2 = 0)).map (· / 2)
    let path := fun (d : Drain) => if o.space = .scratch then 2 else if d.parts.any (fun p => p.place.isPeer) then 4 else 1
    (∀ c ∈ cs, (courseTile o.d.toNat c).1 ≤ 15 ∧ x.tile? (courseTile o.d.toNat c).1 = some (d c).tile ∧ (d c).tile.threads = false
      ∧ drainPair o.target (d c).tile.ty = true ∧ (d c).row0 = (courseTile o.d.toNat c).2
      ∧ s.drainWord (s.ctx x (2 * c)) (x.slice (2 * c)) o = .ok (d c).max
      ∧ s.drainParts (s.ctx x (2 * c)) o (drainRanges o ((List.range 4).map (fun i =>
          (x.slice (2 * c)).raw (.s (4 * o.quad.toNat + i)))) c) = .ok (d c).parts
      ∧ (s.ctx x (2 * c)).rowsBusy (courseTile o.d.toNat c) = false
      ∧ x.counter (path (d c)) + s.now.slices.length ≤ 255
      ∧ (∀ m, (d c).max = some m → m.1.place.isPeer = true → x.counter 4 + s.now.slices.length ≤ 255)
      ∧ ∀ k ∈ [2 * c, 2 * c + 1], (s.core core).uncommitted slot k = false ∧ s.acquireAhead core slot k = none
          ∧ ∀ m, (d c).max = some m → s.drained core slot k { loads := true, stores := true, redm := false, scope := m.2 } = true) →
    let drain := fun (t : State) (c : Nat) (y : Wave) =>
      let rows := (List.range 16).map (fun i =>
        drainRowBytes o (d c).tile.ty ((List.range 64).map (fun j => (d c).tile.get (64 * ((d c).row0 + i) + j))))
      let a : Access :=
        { core, slot, slice := 2 * c, gen := t.gen core slot, pc := (y.slice (2 * c)).pc, word := t.now.word, path := some (path (d c))
          kind := .store, parts := fillParts (d c).parts (rows.flatMap (·.1) ++ rows.flatMap (·.2.1)), lanes := 15, process := y.process
          secure := t.secureWave y, noL1 := true
          courseLanes := some ([2 * c, 2 * c + 1].foldl (fun m k => m ||| waveLanes k (~~~(y.slice k).done)) 0) }
      let u := ((t.tagWrite core slot (2 * c) none a.parts t.serial).launchAccess a).sendParts t.serial a
        (fun _ p => some (.write p.addr p.data)) (fun p => (p.addr, p.size))
      let u : State := match (d c).max with
        | none => u
        | some (w, scope) => (State.tagWrite u core slot (2 * c) (some scope) [w] u.serial).launchAccess { a with
            path := if w.place.isPeer then some 4 else none, kind := .atom none .max .n32 scope
            parts := [{ w with data := leBytes 4 ((rows.map (·.2.2)).foldl max 0) }] }
      [2 * c, 2 * c + 1].foldl (fun (u : State) k => u.closeRegion core slot k (y.slice k).lastLive (y.slice (2 * c)).pc)
        (u.advanceCourse (MdrainOp.shape o) c)
    exec (.mdrain o) s = .next (cs.foldl (fun t c => match t.wave? core slot with
      | some y => drain t c y
      | none => t) s)

/-! ### Copies -/

/-- XKICK's address joins the cluster's copy queue, counted on path 3, where its release at .DV runs on; XSUSP asks the request to
stop; XSTAT reads its progress, the bytes at the destination, and its state; with no lane executing each only goes on (10 R217, R219,
R220).  A waiting XKICK goes on when a place is free. -/
def Obligations.CopyInstructionsComplete : Prop :=
  (∀ (s : State) (x : Wave) (k : Nat) (a : Nat × Nat), Ready s x → Edged s x → s.now.slices = [k] →
    let sl := x.slice k
    let cl := s.now.core / 32
    (∀ o : S1Op, x.lanes o.g k ≠ [] → (sl.raw (.s o.a.toNat)).toNat % 64 = 0 →
      s.teamScratch x.team cl (sl.raw (.s o.a.toNat)).toNat 64 = some a →
      ((s.cluster cl).copyQueue.length < 256 → x.counter 3 < 255 → (s.now.prompt = false ∨ (s.cluster cl).copyQueue ≠ []) →
        s.acquireAhead s.now.core s.now.slot k = none →
        let t := s.launchAccess { core := s.now.core, slot := s.now.slot, slice := k, gen := s.gen s.now.core s.now.slot, pc := sl.pc
                                  word := s.now.word, path := some 3, kind := .counted, parts := [], lanes := 0, process := x.process
                                  secure := s.secureWave x }
        let kick : CopyKick := { addr := BitVec.ofNat 64 (sl.raw (.s o.a.toNat)).toNat, team := x.team, process := x.process, core := s.now.core
                                 slot := s.now.slot, slice := k, gen := s.gen s.now.core s.now.slot, cls := x.prio.toNat, id := s.serial }
        let u := t.setCluster cl { t.cluster cl with copyQueue := (t.cluster cl).copyQueue ++ [kick] }
        exec (.xkick o) s = .next ((u.advance (S1Op.shape o) [0] k).closeRegion u.now.core u.now.slot k sl.lastLive sl.pc))
      ∧ exec (.xsusp o) s = .next (((s.xsusp cl x.team (sl.raw (.s o.a.toNat)).toNat).advance (S1Op.shape o) [0] k).closeRegion s.now.core
          s.now.slot k sl.lastLive sl.pc))
    ∧ (∀ o : S1Op, x.lanes o.g k = [] → exec (.xkick o) s = .next (s.advance (S1Op.shape o) [] k)
      ∧ exec (.xsusp o) s = .next (s.advance (S1Op.shape o) [] k))
    ∧ (∀ o : XstatOp, x.lanes o.g k = [] → exec (.xstat o) s = .next (s.advance (XstatOp.shape o) [] k))
    ∧ ∀ o : XstatOp, x.lanes o.g k ≠ [] → (sl.raw (.s o.a.toNat)).toNat % 64 = 0 →
      s.teamScratch x.team cl (sl.raw (.s o.a.toNat)).toNat 64 = some a →
      let b := s.peekN 0 (.scratch a.1) a.2 64
      let ahead := match (s.cluster cl).engines.values.find? (fun r => r.names x.team (sl.raw (.s o.a.toNat)).toNat) with
        | some r => r.written
        | none => 0
      exec (.xstat o) s = .next ((s.putPair k o.d (BitVec.ofNat 64 ((word32 b 0x28 + ahead) * 2 ^ 32 + word32 b 0x30))).advance (XstatOp.shape o) [0] k))
  ∧ ∀ (s : State) (w : SliceRef), (s.cluster (w.core / 32)).copyQueue.length < 256 →
      exec (.xkickQueuePlace w) s = .next (s.modSlice w.core w.slot w.slice (fun sl =>
        if sl.wait = some .copyPlace then { sl with wait := none } else sl))

/-- The copy queue's head is read once its release is done: a record that passes its checks becomes a request in state 1, any other a failed one with fault
code 3 in its record and its barrier (10 R217); an engine's granule of plain memory is copied through lines it owns, the barrier counts it down
and the cursor moves on (10 R218); a class 0 request displaces the youngest of the lowest class (09 R198). -/
def Obligations.CopyEnginesComplete : Prop :=
  (∀ (s : State) (cluster : Nat) (q : CopyKick) (rest : List CopyKick) (a : Nat × Nat), (s.cluster cluster).copyQueue = q :: rest → s.kickReady q = true →
    let u := s.setCluster cluster { s.cluster cluster with copyQueue := rest }
    u.teamScratch q.team cluster q.addr.toNat 64 = some a →
    let r := CopyRecord.ofBytes (u.peekN 0 (.scratch a.1) a.2 64)
    let fin := fun (t : State) => match Store.find? t.inflight q.id with
      | some b => t.finish q.id b
      | none => t
    (r.state = 0 ∨ r.state = 2) →
    (r.ok = true → (u.barrierOf q.team cluster r.bar).isSome = true →
      let req : CopyReq := { recAddr := q.addr, team := q.team, process := q.process, core := q.core, cls := q.cls
                             secure := ((s.process? q.process).map (·.secure)).getD false, age := s.serial }
      let v := u.pokeScratch a 0x30 (leBytes 4 1)
      exec (.copyQueueReadRecord cluster) s = .next ((fin (v.setCluster cluster { v.cluster cluster with
        copies := (v.cluster cluster).copies ++ [req] })).fillEngines cluster 4))
    ∧ (∀ b, r.ok = false → u.barrierOf q.team cluster r.bar = some b →
      exec (.copyQueueReadRecord cluster) s = .next (fin ((u.pokeScratch a 0x30 (leBytes 4 (3 * 2 ^ 24 + 4))).faultBarrier b 3))))
  ∧ (∀ (s : State) (cluster engine : Nat) (r : CopyReq) (a : Nat × Nat) (sp dp : List Part),
      Store.find? (s.cluster cluster).engines engine = some r → r.reads = none → r.writes = none → r.suspend = false →
      (s.cluster cluster).displaces r = false →
      s.teamScratch r.team cluster r.recAddr.toNat 64 = some a →
      let c := CopyRecord.ofBytes (s.peekN 0 (.scratch a.1) a.2 64)
      let n := min 4096 (c.total - c.cursor)
      let user := !((s.process? r.process).map (·.supervisor)).getD false
      let q : Asker := { process := r.process, user, secure := r.secure, cluster, fresh := s.fresh + 4096 }
      s.engineRanges q r.team (spaceOf c.sspace) (c.ranges c.cursor n).1 = .ok sp →
      s.engineRanges { q with write := true } r.team (spaceOf c.dspace) (c.ranges c.cursor n).2 = .ok dp →
      (∀ p ∈ sp ++ dp, p.place.isPeer = false) →
      (∀ l ∈ (ownLines dp).eraseDups, s.ownedLine l.1 (128 * l.2) 1 = false) →
      let t := s.takeLines (ownLines dp).eraseDups
      exec (.copyGranule cluster engine) s = .next ((t.engineWrite dp (convBytes c.conv c.sizes.1 c.sizes.2 (t.engineBytes cluster sp))).endGranule
        cluster engine r c a n))
  ∧ ∀ (s : State) (cluster engine : Nat) (r : CopyReq), Store.find? (s.cluster cluster).engines engine = some r →
      (s.cluster cluster).engines.length = 4 → (∃ q ∈ (s.cluster cluster).copies, q.cls = 0) → r.cls ≠ 0 →
      (∀ e ∈ (s.cluster cluster).engines, e.2.cls < r.cls ∨ (e.2.cls = r.cls ∧ e.2.age ≤ r.age)) → r.reads = none → r.writes = none →
      let t := (s.setCopyState r cluster 0 5).bump cluster 13 1
      exec (.copyDisplace cluster engine) s = .next ((t.setCluster cluster { t.cluster cluster with
        copies := (t.cluster cluster).copies ++ [{ r with displaced := true }] }).leaveEngine cluster engine)

/-! ### Kernel objects and rings: issue -/

namespace Sys2Proof.Claim

open Machine

/-- A kernel instruction stands issued in slice k: it counts on path 5 and waits at its place with its operands read, first for what
it releases. -/
def issued (s : State) (x : Wave) (k : Nat) (lanes : List Nat) (op : KernelOp) (d : Option SPair) (need : Option FenceNeed) : State :=
  let t := s.launchAccess { core := s.now.core, slot := s.now.slot, slice := k, gen := s.gen s.now.core s.now.slot, pc := (x.slice k).pc
                            word := s.now.word, path := some 5, kind := .counted, parts := [], lanes := lanesMask lanes
                            process := x.process, secure := s.secureWave x }
  t.modNow k (fun sl => { sl with wait := some .kernel, kwait := some { op, d, id := s.serial, lanes := lanesMask lanes, need } })

/-- With no lane executing the instruction only goes on.  Otherwise it issues once a place on path 5 is free and its early checks pass:
with its release done after all its checks, else at its place until it is; a prompt one is tried at once. -/
def Issues (s : State) (x : Wave) (k : Nat) (u : KernelUnit) (i : Instr) (g : Option Guard) (need : Option FenceNeed) (op : KernelOp)
    (d : Option SPair) : Prop :=
  (x.lanes g k = [] → exec i s = .next (s.advance { g, srcs := [] } [] k))
  ∧ (x.lanes g k ≠ [] → x.counter 5 < 255 → s.acquireAhead s.now.core s.now.slot k = none →
      let tried := fun (t : State) => if t.now.prompt then t.tryBegin u { core := s.now.core, slot := s.now.slot, slice := k } else t
      ((∀ n, need = some n → s.drained s.now.core s.now.slot k n = true) → u.check s x s.now.core op = none →
        exec i s = .next (tried (u.issued (issued s x k (x.lanes g k) op d none) x op)))
      ∧ ∀ n, need = some n → s.drained s.now.core s.now.slot k n = false → u.early s x op = none →
        exec i s = .next (tried (issued s x k (x.lanes g k) op d (some n))))

/-- Operands of a kernel instruction: an s register, a pair, a group of four. -/
def sval (x : Wave) (k : Nat) (r : SReg) : W32 := (x.slice k).raw (.s r.toNat)
def pval (x : Wave) (k : Nat) (p : SPair) : W64 := (x.slice k).field (pairReg p) true 0
def qval (x : Wave) (k : Nat) (q : SQuad) : List W32 := (List.range 4).map (fun i => (x.slice k).raw (.s (4 * q.toNat + i)))

/-- What a release at a scope awaits. -/
def release (scope : Scope) : Option FenceNeed := some { loads := true, stores := true, redm := false, scope }

end Sys2Proof.Claim

/-- The kernel object instructions and the ring instructions issue with their operands read: with their release done, once all their
checks pass, with it still awaited, once the checks of values and handles do; with no lane executing each only goes on (17 R308 to R311,
R313, 21 R373, R374). -/
def Obligations.KernelInstructionsIssue : Prop :=
  ∀ (s : State) (x : Wave) (k : Nat), Ready s x → Edged s x → s.now.slices = [k] →
    let r := sval x k
    let p := pval x k
    let q := qval x k
    let now := s.cltime (s.now.core / 32)
    (∀ o : WcreateOp, Issues s x k kernelUnit (.wcreate o) o.g none (.wcreate o.kind (q o.quad)) (some o.d))
    ∧ (∀ o : K2Op, Issues s x k kernelUnit (.psend o) o.g (release .cq) (.psend (r o.a) (r o.b) o.flag) (some o.d)
      ∧ Issues s x k kernelUnit (.wsdel o) o.g none (.wsdel (r o.a) (r o.b)) (some o.d)
      ∧ Issues s x k kernelUnit (.wswait o) o.g none (.wswait (r o.a) (r o.b) o.flag now) (some o.d)
      ∧ Issues s x k kernelUnit (.odup o) o.g none (.odup (r o.a) (r o.b)) (some o.d)
      ∧ Issues s x k rotationUnit (.rotjoin o) o.g (release .dv) (.rotjoin (r o.a) (r o.b) now) (some o.d)
      ∧ Issues s x k rotationUnit (.aearm o) o.g (some { loads := false, stores := true, redm := false, scope := .tm })
          (.aearm (r o.a) (r o.b) o.flag) (some o.d)
      ∧ Issues s x k rotationUnit (.aewait o) o.g none (.aewait (r o.a) (r o.b) o.flag now) (some o.d))
    ∧ (∀ o : K1Op, Issues s x k kernelUnit (.tcan o) o.g none (.tcan (r o.a)) (some o.d)
      ∧ Issues s x k kernelUnit (.oclose o) o.g none (.oclose (r o.a)) (some o.d)
      ∧ Issues s x k kernelUnit (.glaunch o) o.g none (.glaunch (r o.a)) (some o.d)
      ∧ Issues s x k rotationUnit (.rotarm o) o.g (release .tm) (.rotarm (r o.a)) (some o.d)
      ∧ Issues s x k rotationUnit (.rotend o) o.g none (.rotend (r o.a) o.flag) (some o.d))
    ∧ (∀ o : PrecvOp, Issues s x k kernelUnit (.precv o) o.g none (.precv (q o.quad) (o.landing.map p) o.flag) (some o.d))
    ∧ (∀ o : PnoteOp, Issues s x k kernelUnit (.pnote o) o.g (release .cq) (.pnote (r o.a) (r o.b)) none)
    ∧ (∀ o : WsaddOp, Issues s x k kernelUnit (.wsadd o) o.g none (.wsadd (r o.a) (q o.quad) (r o.key) o.member) (some o.d))
    ∧ (∀ o : TarmOp, Issues s x k kernelUnit (.tarm o) o.g none (.tarm (r o.a) (p o.dur) o.per) (some o.d))
    ∧ (∀ o : KPairOp, Issues s x k kernelUnit (.nslook o) o.g none (.nslook (p o.a)) (some o.d)
      ∧ Issues s x k kernelUnit (.launch o) o.g (release .sy) (.launch (p o.a)) (some o.d))
    ∧ (∀ o : NsbindOp, Issues s x k kernelUnit (.nsbind o) o.g none (.nsbind (p o.a) (o.b.map r)) (some o.d))
    ∧ (∀ o : GcondOp, Issues s x k kernelUnit (.gcond o) o.g (release .dv) (.gcond (r o.a) (r o.b) (r o.c) o.kind) (some o.d))
    ∧ (∀ o : HintOp, Issues s x k kernelUnit (.hint o) o.g (release .sy) (.hint (r o.a) o.flush) none)
    ∧ ∀ o : OinfoOp, Issues s x k kernelUnit (.oinfo o) o.g none (.oinfo (r o.a) o.sel.toNat) (some o.d)

/-! ### Kernel objects: what the instructions do when they begin -/

namespace Sys2Proof.Claim

open Machine

/-- The slice w of the wave x stands alone at a kernel instruction that has issued, with the release done that it may await still, and
whose checks pass. -/
structure Stands (s : State) (w : SliceRef) (x : Wave) (kw : KernelWait) : Prop where
  wave : s.wave? w.core w.slot = some x
  wait : (x.slice w.slice).wait = some .kernel
  kwait : ∃ need, (x.slice w.slice).kwait = some { kw with need } ∧ ∀ n, need = some n → s.drained w.core w.slot w.slice n = true
  need : kw.need = none
  kret : (x.slice w.slice).kret = none
  alone : s.mates w = [w.slice]
  ask : kw.ask = none
  clear : (if isRingOp kw.op then s.rotationTrap x w.core kw.op else s.kernelTrap x w.core kw.op) = none

/-- The instruction begins with this effect and this result. -/
def Begins (s : State) (w : SliceRef) (kw : KernelWait) (lo hi : W32) (u : State) : Prop :=
  exec (.kernelOpBegin w) s = .next (u.startReturn w kw (.result lo hi))

end Sys2Proof.Claim

/-- What the instructions on handles, ports and wait sets do when they begin (17 R315 to R317, R320 to R323). -/
def Obligations.PortInstructionsTakeEffect : Prop :=
  ∀ (s : State) (w : SliceRef) (x : Wave) (kw : KernelWait), Stands s w x kw →
    (∀ kind d h u, kw.op = .wcreate kind d → s.create w.core x.process (newBody kind d) 0x7F = .ok (h, u) → Begins s w kw h 0 u)
    ∧ (∀ kind d u, kw.op = .wcreate kind d → s.create w.core x.process (newBody kind d) 0x7F = .error u → Begins s w kw 0 5 u)
    ∧ (∀ h, kw.op = .oclose h → Begins s w kw 0 0 (s.closeSlot x.process (handleSlot h)))
    ∧ (∀ h rights p e v u, kw.op = .odup h rights → s.process? x.process = some p → p.handle? h = some e →
        s.newHandle w.core x.process e.index (e.rights &&& rights.setWidth 7) = .ok (v, u) → Begins s w kw v 0 u)
    ∧ (∀ h p e o, kw.op = .oinfo h 0 → s.process? x.process = some p → p.handle? h = some e → s.obj? e.index = some o →
        Begins s w kw (BitVec.ofNat 32 (bodyType o.body * 2 ^ 28) ||| e.rights.setWidth 32) 0 s)
    ∧ (∀ h sel i b, kw.op = .oinfo h sel → sel ≠ 0 → s.handleObj x.process h = some i → s.body? i = some b →
        (∀ p, b = .port p → Begins s w kw (BitVec.ofNat 32 (p.queue.filter (·.ready)).length) p.notify s)
        ∧ (∀ t, b = .timer t → Begins s w kw
            (if t.expired then (if t.period.isSome ∧ t.armed then 3 else 2) else if t.armed then 1 else 0)
            (if t.armed then BitVec.ofNat 32 (t.deadline - s.cltime t.cluster) else 0) s)
        ∧ ∀ g, b = .graph g → Begins s w kw (if g.running then 1 else 0) g.iterations s)
    ∧ (∀ h addr wait i p m, kw.op = .psend h addr wait → s.handleObj x.process h = some i → s.port? i = some p →
        s.checkMessage x w.core h addr.toNat = .ok m → m.grants = [] → m.reply = none → p.closed = false →
        s.portFull i p m.plen = false → s.outranked x kw = false →
        let u := (s.modPort i (fun p => { p with queue := p.queue ++ [{ sender := (s.chip, kw.id), plen := m.plen }] })).addPool i m.plen
        2 ^ 20 ≤ poolSize - u.poolUsed i →
        Begins s w kw 0 0 (u.fillPlace i (s.chip, kw.id) { bytes := m.bytes, payload := m.payload, grants := [], reply := none }))
    ∧ (∀ desc landing wait i p m at_, kw.op = .precv desc landing wait → s.handleObj x.process (desc.headD 0) = some i → s.port? i = some p →
        s.recordAt x w.core (desc.getD 1 0).toNat (desc.getD 2 0).toNat = .ok at_ → p.queue.head? = some m → m.ready = true →
        m.claimed = false → s.outranked x kw = false → s.refusal x.process m (landing.map (·.toNat)) (desc.getD 2 0).toNat = 0 →
        (∀ g ∈ m.carried.grants, g.away s.chip = false) →
        let task : ReceiveTask := { port := i, process := x.process, landing := landing.getD 0, buffer := (desc.getD 1 0).toNat, team := x.team, cluster := w.core / 32, ask := 0 }
        Begins s w kw (BitVec.ofNat 32 m.plen) 0 ((s.receive task m).acquire w.core w.slot .cq))
    ∧ (∀ h v i p, kw.op = .pnote h v → s.handleObj x.process h = some i → s.port? i = some p →
        Begins s w kw 0 0 (s.modPort i (fun p => { p with notify := if p.notify.toNat < v.toNat then v else p.notify })))
    ∧ (∀ h d key sel i c ms m, kw.op = .wsadd h d key sel → s.handleObj x.process h = some i → s.waitSet? i = some (c, ms) →
        s.memberOf x w.core d sel = some m → ms.length < c → (∀ y ∈ ms, y.1 ≠ key) → (∀ j ∈ memberObj m, s.inSet j = false) →
        let held := (memberObj m).foldl (fun (t : State) j => match t.obj? j with
          | some o => t.setObj j { o with refs := o.refs + 1 }
          | none => t) s
        let r := held.pollMember (key, m)
        Begins s w kw 0 0 (r.2.setMembers i (ms ++ [r.1])))
    ∧ (∀ h key i c ms m, kw.op = .wsdel h key → s.handleObj x.process h = some i → s.waitSet? i = some (c, ms) →
        ms.find? (fun m => m.1 = key) = some m → Begins s w kw 0 0 (((s.setMembers i (ms.erase m)).dropMembers [m]).unref (memberObj m.2)))
    ∧ (∀ h t poll start i c ms key m, kw.op = .wswait h t poll start → s.handleObj x.process h = some i → s.waitSet? i = some (c, ms) →
        s.readyMember ms = some (key, m) →
        (∀ j, m = .timer j → Begins s w kw key 0 ((s.modTimer j (fun t => { t with expired := false })).acquire w.core w.slot .cq))
        ∧ ((∀ j, m ≠ .timer j) → Begins s w kw key 0 (s.acquire w.core w.slot .cq)))
    ∧ (∀ h t start i c ms, kw.op = .wswait h t true start → s.handleObj x.process h = some i → s.waitSet? i = some (c, ms) →
        s.readyMember ms = none → Begins s w kw 0 1 (s.acquire w.core w.slot .cq))

/-- What the instructions on timers, names, graphs, launches and vectors do when they begin (17 R324 to R328). -/
def Obligations.UnitInstructionsTakeEffect : Prop :=
  ∀ (s : State) (w : SliceRef) (x : Wave) (kw : KernelWait), Stands s w x kw →
    (∀ h dur per i, kw.op = .tarm h dur per → s.handleObj x.process h = some i → s.deadlines (w.core / 32) i < 4096 →
      let t : Timer := { cluster := w.core / 32, armed := true, deadline := s.cltime (w.core / 32) + dur.toNat
                         period := if per then some dur.toNat else none }
      Begins s w kw 0 0 (s.modTimer i (fun _ => if dur = 0 then { t with expired := true, armed := per } else t)))
    ∧ (∀ h i t, kw.op = .tcan h → s.handleObj x.process h = some i → s.body? i = some (.timer t) →
        ((t.armed = true ∨ t.expired = true) → Begins s w kw 0 0 (s.modTimer i (fun t => { cluster := t.cluster })))
        ∧ (t.armed = false → t.expired = false → Begins s w kw 0 11 s))
    ∧ (∀ name, kw.op = .nslook name → s.nameHome name = s.chip →
        (s.lookName name = none → Begins s w kw 0 4 s)
        ∧ ∀ chip port h u, s.lookName name = some (chip, port) → (chip = s.chip → (s.port? port).isSome = true) →
            s.handleTo w.core x.process chip port (rightSend ||| rightDuplicate ||| rightClose) = .ok (h, u) → Begins s w kw h 0 u)
    ∧ (∀ name h i, kw.op = .nsbind name (some h) → s.nameHome name = s.chip → s.handleObj x.process h = some i →
        ((∀ n ∈ s.names, n.1 ≠ name) → s.names.length < 65536 →
          Begins s w kw 0 0 { s with names := s.names ++ [(name, s.chip, i, x.process)] })
        ∧ ((∃ n ∈ s.names, n.1 = name) → Begins s w kw 0 8 s))
    ∧ (∀ name n, kw.op = .nsbind name none → s.nameHome name = s.chip →
        s.names.find? (fun n => n.1 = name && n.2.1 = s.chip && n.2.2.2 = x.process) = some n →
        Begins s w kw 0 0 { s with names := s.names.erase n })
    ∧ (∀ h i process g, kw.op = .glaunch h → s.handleObj x.process h = some i → s.graph? i = some (process, g) →
        (g.running = true → Begins s w kw 0 12 s)
        ∧ (g.running = false → s.rangeFault { s.processAsker process 0 with write := true } g.array.toNat (64 * g.count) = none →
            arrayOk ((List.range g.count).map (s.nodeAt process g)) = true →
            Begins s w kw 0 0 ((s.modGraph i (fun g => { g with
              running := true, iterations := 0, prio := x.prio.toNat, refused := false, out := 0 })).armGraph i)))
    ∧ (∀ h node v kind i process g place a rep xl, kw.op = .gcond h node v kind → s.handleObj x.process h = some i →
        s.graph? i = some (process, g) → node.toNat < g.count → (s.nodeAt process g node.toNat).kind = 1 →
        s.resolve { s.processAsker process 0 with write := true } ((g.array.toNat + 64 * node.toNat + 0x14) % 2 ^ 64) = .ok (place, a, rep, xl) →
        let old : W32 := BitVec.ofNat 32 (ofLeBytes (s.blockBytes (dieOf w.core) (s.fresh + 20000) place a 4))
        let new : W32 := match kind with
          | .set => v
          | .or => old ||| v
          | .and => old &&& v
          | .max => if old.toNat < v.toNat then v else old
        let t := s.homeWrite place a (leBytes 4 new.toNat) rep noAccess
        Begins s w kw old 0 ((t.drainReplicas.takeTags w.core w.slot w.slice .dv (t.metTags place a 4)).acquire w.core w.slot .dv))
    ∧ (∀ v flush, kw.op = .hint v flush → Begins s w kw 0 0 (s.countEvent v.toNat flush))
    ∧ (∀ a, kw.op = .launch a →
        let r : Submit := { recAddr := a, process := x.process, floor := x.prio.toNat, source := .wave, age := 0, cls := max x.prio.toNat (s.recordClass x.process a.toNat) }
        (s.launchQueue.length < 1024 → Begins s w kw 0 0 (s.submit r))
        ∧ (1024 ≤ s.launchQueue.length → Begins s w kw 0 5 s))

/-- A kernel instruction that has begun lets its slice go on with the result pair awaited (17 R311, R312); the result is then written
and the count on path 5 falls. -/
def Obligations.KernelResultsReturn : Prop :=
  (∀ (s : State) (w : SliceRef) (sl : Slice) (kw : KernelWait) (p : SPair) (lo hi : W32), s.slice? w.core w.slot w.slice = some sl →
    kw.d = some p → s.now.prompt = false →
    let u := s.modSlice w.core w.slot w.slice (fun sl => { sl.tickWindows with
      pc := sl.pc.next, wait := none, kwait := none, kret := some { d := kw.d, id := kw.id, edge := opEdge kw.op, task := .result lo hi }
      out := sl.out ++ (pairLocs p).map (fun l => { loc := l, by_ := .kernel, pc := sl.pc, id := kw.id }) })
    s.startReturn w kw (.result lo hi) =
      if opEdge kw.op then u.closeRegion w.core w.slot w.slice (sl.lastLive ||| liveOf (pairLocs p)) sl.pc else u)
  ∧ ∀ (s : State) (w : SliceRef) (sl : Slice) (k : KernelReturn) (a : Access) (p : SPair) (lo hi : W32), w.slot < 64 →
      s.slice? w.core w.slot w.slice = some sl → sl.kret = some k → k.task = .result lo hi → k.d = some p →
      Store.find? s.inflight k.id = some a →
      exec (.kernelResultReturn w) s = .next (((s.landAll a k.id (destWrites (pairReg p) true 0 (hi ++ lo))).modKernel k.id (fun sl =>
        { sl with kret := none })).finish k.id a)

/-! ### Rings and attention -/

namespace Sys2Proof.Claim

open Machine

/-- The slice w waits alone at a ring instruction, begun by this event, with its checks passed; it begins with this effect and result. -/
def RingBegins (s : State) (w : SliceRef) (kw : KernelWait) (i : Instr) (lo hi : W32) (u : State) : Prop :=
  exec i s = .next (u.startReturn w kw (.result lo hi))

/-- The other members of a ring are sent this packet, one after the other. -/
def told (s : State) (r : Ring) (b : PacketBody) : State :=
  (r.chips.filter (· ≠ s.chip)).foldl (fun (s : State) c => s.sendPacket c 3 none 0 b) s

end Sys2Proof.Claim

/-- What the ring instructions do when they begin: ROTARM creates the ring and takes its slots out of the team's scratch; AEARM
arms the engine of the cluster; ROTJOIN returns the member's position once the ring runs; AEWAIT returns once the job is complete;
ROTEND ends the ring once its work is over, or aborts it (21 R377, R379, R381, R383, R384). -/
def Obligations.RingInstructionsTakeEffect : Prop :=
  ∀ (s : State) (w : SliceRef) (x : Wave) (kw : KernelWait), Stands s w x kw →
    (∀ a r h u, kw.op = .rotarm a → s.readRing x w.core a.toNat = .ok r → s.liveRings < 64 →
      let mine := s.heldMarks.filter (fun m => m.ringid = r.ringid)
      s.create w.core x.process (.ring { r with marks := mine }) 0x7F = .ok (h, u) →
      let v : State := { u with heldMarks := u.heldMarks.filter (fun m => m.ringid ≠ r.ringid) }
      Begins s w kw h 0 ((v.removeRanges x.team r.slotRanges).modTeam x.team (fun t => { t with pins := t.pins + 1 })))
    ∧ (∀ h t start i r, kw.op = .rotjoin h t start → s.ringOf x kw.op = some (i, r) →
        (r.state = .running → Begins s w kw (BitVec.ofNat 32 (r.position s.chip)) 0 s)
        ∧ (r.state = .armed → r.jobState = 0 → Begins s w kw 0 18 s)
        ∧ (r.state = .ended → Begins s w kw 0 3 s)
        ∧ (r.state = .failed → Begins s w kw 0 (if ∃ n, r.mismatch = some n ∧ kw.id < n then 15 else 16) s)
        ∧ (r.state = .armed → r.jobState = 1 → r.ready = true → t ≠ 0 → t.toNat ≤ s.cltime (w.core / 32) - start →
            RingBegins s w kw (.rotjoinTimeout w) 0 2 s))
    ∧ (∀ h a load i r j rs, kw.op = .aearm h a load → s.ringOf x kw.op = some (i, r) → (r.state = .armed ∨ r.state = .running) →
        (s.cluster (w.core / 32)).job = none → s.readJob x w.core i (headSize r.hcode) a.toNat = .ok (j, rs) →
        Begins s w kw 0 0 (s.armJob x i j rs load))
    ∧ (∀ h t poll start i r, kw.op = .aewait h t poll start → s.ringOf x kw.op = some (i, r) →
        let u := s.acquire w.core w.slot .dv
        let done : W32 := BitVec.ofNat 32 r.jobDone
        (r.jobState = 0 → Begins s w kw 0 18 u)
        ∧ (r.jobState = 2 → Begins s w kw done 0 u)
        ∧ (r.jobState = 3 → Begins s w kw done 16 u)
        ∧ (r.jobState = 1 → r.state = .running → poll = true → Begins s w kw done 1 u)
        ∧ (r.jobState = 1 → r.state = .running → poll = false → t ≠ 0 → t.toNat ≤ s.cltime (w.core / 32) - start →
            RingBegins s w kw (.aewaitTimeout w) done 2 u))
    ∧ ∀ h abort i r, kw.op = .rotend h abort → s.ringOf x kw.op = some (i, r) →
        (r.state = .running → abort = false → r.over = true →
          Begins s w kw 0 0 (s.endRing i) ∧ RingBegins s w kw (.rotendComplete w) 0 0 (s.endRing i))
        ∧ (r.state = .failed → Begins s w kw 0 16 (s.endRing i))
        ∧ (r.state = .ended → Begins s w kw 0 (if r.failed then 16 else 0) s)
        ∧ ((r.state = .armed ∨ r.state = .running) → abort = true → Begins s w kw 0 0 ((s.failRing i 0 false).endRing i))

/-- The events of rings happen where they are due: a mark is held or judged, an own block is copied into its free slot, a
reservation marks the receiver's want and sends what stands in the slot, a packet of a block lands in its place, whatever came before it, the
attention engine consumes the next index that stands whole, an index consumed and forwarded is freed and its slot reserved for the
fourth index after it, and a failure fails the ring and tells the other members (21 R379, R382, R386, 23 R395 to R398, R407). -/
def Obligations.RingEventsComplete : Prop :=
  (∀ (s : State) (m : ReadyMark),
    (s.ringNamed m.ringid = none → exec (.ringReadyMarkReceive m) s = .next { s with heldMarks := s.heldMarks ++ [m] })
    ∧ ∀ i r, s.ringNamed m.ringid = some i → s.ring? i = some r → r.state = .armed → r.ready = true → m = r.mark m.chip →
        let r' := { r with marks := r.marks ++ [m] }
        let u := s.modRing i (fun r => { r with marks := r.marks ++ [m] })
        (∀ n ∈ r.marks, n = r.mark n.chip) →
        ((∀ c ∈ r.chips, c ≠ s.chip → ∃ n ∈ r'.marks, n.chip = c) →
          exec (.ringReadyMarkReceive m) s = .next ((List.range 4).foldl (fun (t : State) j => t.reserveIndex i j)
            (u.modRing i (fun r => { r with state := .running }))))
        ∧ ((∃ c ∈ r.chips, c ≠ s.chip ∧ ∀ n ∈ r'.marks, n.chip ≠ c) → exec (.ringReadyMarkReceive m) s = .next u))
  ∧ (∀ (s : State) (i : Nat) (r : Ring), s.ring? i = some r → r.state = .running →
      (∀ o j b, s.obj? i = some o → j < r.total → j % r.size = 0 → r.slotFree j = true → (r.index j).got = [] →
        s.localBlock (objIndex o.owner) r (j / r.size) = .ok b → exec (.ringBlockInject i j) s = .next (s.landBlock i j b))
      ∧ (∀ o j code, s.obj? i = some o → j < r.total → j % r.size = 0 → r.slotFree j = true → (r.index j).got = [] →
          s.localBlock (objIndex o.owner) r (j / r.size) = .error code → exec (.ringBlockInject i j) s = .next (s.failRing i code false))
      ∧ (∀ k, k < r.total → k % r.size ≠ 0 →
          let (forward, j) := r.source k
          exec (.ringReservationReceive i k) s = .next ((s.modRing i (fun r => r.setIndex j ((r.index j).setWant forward))).forwardIndex i j))
      ∧ (∀ j n bs, j < r.total → j % r.size ≠ 0 → r.slotFree j = true → 4096 * n < r.bytes → bs.length = min 4096 (r.bytes - 4096 * n) →
          n ∉ (r.index j).got →
          let got := (r.index j).got ++ [n]
          exec (.ringBlockPacketReceive i j { number := n, bytes := bs }) s = .next (((s.pokeScratch (r.slotAt j) (4096 * n) bs).modRing i
            (fun q => q.setIndex j { r.index j with got, present := r.whole got })).forwardIndex i j))
      ∧ (∀ j, j < r.total → (r.index j).present = true → (r.index j).consumed = true → (r.index j).freed = false → r.forwarded j = true →
          exec (.ringIndexFree i j) s = .next (((s.modRing i (fun q => q.setIndex j { r.index j with freed := true })).reserveIndex i (j + 4)).settleRing i))
      ∧ ∀ cl j, (s.cluster cl).job = some j → j.ring = i → r.next + 1 < r.total → (r.index r.next).present = true →
          (r.index r.next).consumed = false →
          let j' := j.consume (s.peekN 0 (.scratch (r.slotAt r.next).1) (r.slotAt r.next).2 r.bytes)
          exec (.aeBlockConsume cl) s = .next (((s.putJob j'.team cl j'.recAddr.toNat j'.done 0 1).setJob cl (some j')).modRing j.ring (fun q =>
            { q.setIndex r.next { r.index r.next with consumed := true } with jobDone := j'.done })))
  ∧ ∀ (s : State) (ringid : W32) (code : Byte),
      (s.ringNamed ringid = none →
        exec (.ringFailureNotice ringid code) s = .next { s with heldMarks := s.heldMarks.filter (fun m => m.ringid ≠ ringid) })
      ∧ ∀ i r, s.ringNamed ringid = some i → s.ring? i = some r → (r.state = .armed ∨ r.state = .running) → s.ringJob i r = none →
          exec (.ringFailureNotice ringid code) s = .next ((told (s.modRing i (fun r =>
            let jobState := if r.jobState = 1 then 3 else r.jobState
            { r with state := .failed, failed := true, failCode := code, mismatch := none, jobState })) r (.ringFail r.ringid code)).settleRing i)

/-! ### Timers, wait sets, graphs and vectors: events -/

/-- The events of timers, wait sets, graphs and vectors happen where they are due: a deadline that has passed expires its timer,
a periodic one arming the next; a WSWAIT whose timeout has passed returns status 2; a set's members are asked after where peers keep
them, and one that is ready wakes the waiter; a node
whose launch has reported is complete; and a vector whose hold has passed is raised (17 R323, 19 R349, R350, R352, 25 R431). -/
def Obligations.UnitEventsComplete : Prop :=
  (∀ (s : State) (cluster i : Nat) (t : Timer), s.body? i = some (.timer t) → t.armed = true → t.cluster = cluster →
      t.deadline ≤ s.cltime cluster →
      (∀ p, t.period = some p → exec (.timerExpiry cluster i) s = .next (s.modTimer i (fun t =>
        { t with expired := true, armed := true, deadline := t.deadline + t.period.getD 0 })))
      ∧ (t.period = none → exec (.timerExpiry cluster i) s = .next (s.modTimer i (fun t =>
          { t with expired := true, armed := false, deadline := t.deadline }))))
  ∧ (∀ (s : State) (w : SliceRef) (x : Wave) (kw : KernelWait) h t start i c ms, Stands s w x kw → kw.op = .wswait h t false start →
      s.handleObj x.process h = some i → s.waitSet? i = some (c, ms) → s.readyMember ms = none →
      (t ≠ 0 → t.toNat ≤ s.cltime (w.core / 32) - start →
        exec (.wswaitTimeout w) s = .next ((s.acquire w.core w.slot .cq).startReturn w kw (.result 0 2)))
      ∧ (t = 0 ∨ s.cltime (w.core / 32) - start < t.toNat → exec (.wswaitTimeout w) s = exec (.kernelOpBegin w) s))
  ∧ (∀ (s : State) (w : SliceRef) (x : Wave) (kw : KernelWait) h t poll start i c0 ms0 c ms key m, s.waitSet? i = some (c0, ms0) →
      let polled := ms0.foldl (fun (r : List (W32 × Member) × State) m => (r.1 ++ [(r.2.pollMember m).1], (r.2.pollMember m).2)) ([], s)
      let u := polled.2.setMembers i polled.1
      Stands u w x kw → kw.op = .wswait h t poll start → u.handleObj x.process h = some i → u.waitSet? i = some (c, ms) →
      u.readyMember ms = some (key, m) → u.kernelWaiters = [(w, x, kw)] →
      let v := match m with
        | .timer j => u.modTimer j (fun t => { t with expired := false })
        | _ => u
      exec (.waitSetMemberReady i) s = .next ((v.acquire w.core w.slot .cq).startReturn w kw (.result key 0)))
  ∧ (∀ (s : State) (launch : Nat) (l : Launch) (i k : Nat), Store.find? s.launches launch = some l → l.source = .graph i k →
      l.reported = true →
      let t : State := { s with launches := Store.erase s.launches launch }
      exec (.graphNodeComplete launch) s = .next (t.nodeDone i k l.status))
  ∧ ∀ (s : State) (v : Nat) (x : VectorState), Store.find? s.vectors v = some x → x.hold ≠ 0 → x.count ≠ 0 → x.hold ≤ s.time - x.start →
      exec (.coalescerHoldExpiry v) s = .next { s with vectors := Store.insert s.vectors v { x with count := 0, sent := x.sent + 1 } }

/-! ### Launches, placement and the end of waves -/

/-- The run-queue controllers' events happen where they are due: the most urgent record of the launch queue is handed to a
cluster; a cluster accepts its record, which passes its checks or is refused with status 3; a team is placed at a core, or a
pair of them, where everything it needs is free and its entry segments stand; a team that has waited long keeps its cores; and a finished launch reports (06 R146, R147, R151,
25 R417 to R419, R423). -/
def Obligations.LaunchesAndPlacementComplete : Prop :=
  (∀ (s : State) (cluster : Nat) (q : Submit), bestSubmit s.launchQueue = some q →
      exec (.launchQueueHandoff cluster) s = .next { s with launchQueue := s.launchQueue.erase q, handed := s.handed ++ [(cluster, q)] })
  ∧ (∀ (s : State) (cluster : Nat) (q : Submit) (b : List Byte), s.handed.find? (fun h => h.1 = cluster) = some (cluster, q) →
      (q.bytes = some b ∨ (q.bytes = none ∧ s.readVirtual (s.processAsker q.process cluster) q.recAddr.toNat 128 = .ok b)) →
      let r := LaunchRecord.ofBytes b
      let accepted := fun (l : Launch) => State.queueTeams { s with
        handed := s.handed.erase (cluster, q), launches := Store.insert s.launches s.serial l, serial := s.serial + 1 }
      (∀ l, s.checkLaunch r q cluster s.serial = some l → exec (.launchRecordAccept cluster) s = .next (accepted l))
      ∧ (s.checkLaunch r q cluster s.serial = none →
          exec (.launchRecordAccept cluster) s = .next (accepted { r.launch q s.serial with status := 3 })))
  ∧ (∀ (s : State) (cluster core : Nat) (slots : List Nat) (e : Nat × Nat × Nat × Bool) (l : Launch), s.nextTeam cluster = some e →
      Store.find? s.launches e.2.1 = some l → core / 32 = cluster →
      s.placeable ((s.teamOrder cluster).takeWhile (fun f => f ≠ e)) e core = true → s.slotsOk l core slots = true →
      (∀ c ∈ l.coresAt core, s.entriesDue l c.1 c.2 = []) →
      let id := s.serial
      let size := halfScratch l.pair l.scratch
      let base := fun (c : Nat) => (scratchFit (s.scratchTaken c) size).getD 0
      let team : Team := { launch := e.2.1, teamid := e.2.2.1, core, pair := l.pair, base := base core
                           base2 := if l.pair then base (core + 1) else 0, size, members := (teamMembers l.roles).length }
      let launches := Store.insert s.launches e.2.1 { l with created := l.created + 1 }
      let placed : State := { s with serial := s.serial + 1, teams := Store.insert s.teams id team, launches }
      let waves := fun (t : State) (c : Nat × Bool) => (t.acquireLaunch e.2.1 l c.1).createWaves c.1 cluster l id id
        (((teamMembers l.roles).zip slots).filter (fun m => !l.pair || (m.1.index % 2 = 1) == c.2))
      let u := (l.coresAt core).foldl (fun t c => (waves t c).setCore c.1 { (waves t c).core c.1 with compacting := none }) placed
      exec (.teamPlacement cluster core slots) s = .next (State.queueTeams (u.setCluster cluster { u.cluster cluster with
        runq := (u.cluster cluster).runq.filter (fun r => match r.2 with
          | .team x _ _ _ => x ≠ e.2.1
          | _ => true) })))
  ∧ (∀ (s : State) (cluster : Nat),
      exec (.placementAgeBlock cluster) s = .next (s.setCluster cluster { s.cluster cluster with
        runq := (s.cluster cluster).runq.map (fun e => match e.2 with
          | .team l t since b => (e.1, .team l t since (b || 100000 ≤ s.cltime cluster - since))
          | _ => e) }))
  ∧ ∀ (s : State) (launch : Nat) (l : Launch), Store.find? s.launches launch = some l → l.status ≠ 0 → l.reported = false →
      let t := s.reportLaunch l
      exec (.launchCompletionReport launch) s = .next { t with launches := Store.insert t.launches launch { l with reported := true } }

/-- Waves retire, are dropped, are moved and start again where it is due: retirement frees the slot and its register block and
counts in the team, and the shared ranges of the wave end; a drop parks the victim and frees both; compaction holds a wave while no
other is held and, once it is quiet, moves its block; a hold of 2048 cycles is let go; and a parked wave whose accesses have all returned
starts again in a free slot and a new block when it is its turn in the run queue and its restart segments stand (06 R150, 07 R157, R158, 09 R190, R191, R194, R196; the turn is the model's reading, log 53). -/
def Obligations.WavesMoveAndRetire : Prop :=
  (∀ (s : State) (core slot : Nat) (x : Wave), s.wave? core slot = some x → s.canRetire core slot = true →
      let v := (((s.core core).shared.filter (fun h => h.slotA = slot || h.slotB = slot)).foldl
        (fun (t : State) h => t.unmapShared core h) s).flushSamples core slot x
      let k := v.core core
      let late := fun (a : Access) => a.core = core ∧ a.slot = slot ∧ a.gen = v.gen core slot ∧ a.kind.isRead = true ∧ a.path = none ∧ 16 ≤ a.slice
      let w : State := { v with inflight := v.inflight.map (fun a => if late a.2 then (a.1, { a.2 with cancelled := true }) else a) }
      let u := ((w.setCore core { k with
        waves := Store.erase k.waves slot, gens := Store.set k.gens 0 slot (Store.get k.gens 0 slot + 1), compacting := none
        passes := k.passes.filter (fun p => p.slot ≠ slot) }).removeWave x).leaveTeam x.team (waveId core slot) x
      exec (.waveRetire core slot) s = .next ((u.teamRings x.team).foldl (fun (t : State) i =>
        if t.teamOver x.team then t.closeTeamRing i else t) u).queueTeams)
  ∧ (∀ (s : State) (core slot : Nat), s.canDrop core slot = true → (s.isVictim core slot = true ∨ s.wantsKept core slot = true) →
      let t := s.dropWave core slot
      exec (.waveDrop core slot) s = .next (t.setCore core { t.core core with compacting := none }))
  ∧ (∀ (s : State) (core slot : Nat) (x : Wave) (b a : Nat), s.wave? core slot = some x → s.compactSize core = some b →
      (s.core core).candidate b = some a → ((s.core core).occupants a b).any (fun w => w.1 = slot) = true →
      (∀ w ∈ (s.core core).waves, w.1 ≠ slot → w.2.hold = none) →
      (x.quiet = false →
        exec (.compactionCopy core slot) s = .next (s.setWave core slot { x with hold := some (x.hold.getD s.cycles) }))
      ∧ ∀ p, x.quiet = true → placeOutside (s.core core).blocks a b (blockUnits x.width x.allot) = some p →
          exec (.compactionCopy core slot) s = .next ((s.setWave core slot { x with base := p, hold := none }).bump (core / 32) 11 1))
  ∧ (∀ (s : State) (core slot : Nat) (x : Wave) (h b a : Nat), s.wave? core slot = some x → x.hold = some h → 2048 ≤ s.cycles - h →
      x.quiet = false →
      let t := s.setWave core slot { x with hold := none }
      t.compactSize core = some b → (s.core core).candidate b = some a →
      exec (.compactionHoldTimeout core slot) s = .next (t.setCore core { t.core core with compacting := some a }))
  ∧ ∀ (s : State) (core entry slot : Nat) (p : Parked) (base : Nat), Store.find? (s.core core).parked entry = some p →
      (s.core core).slotFree slot = true → s.parkedReady core p = true → s.restartTurn core entry = true →
      s.segmentsDue core p.wave ((p.wave.slices.values.filter (fun sl => !sl.ended)).map (fun sl => sl.pc.seg)) = [] →
      allocBlock (s.core core).blocks (blockUnits p.wave.width p.wave.allot) = some base →
      let k := s.core core
      let resv := if p.wave.prio = 0 then 0 else p.wave.resv
      let x : Wave := { p.wave with base, resv }
      let k' := { k with waves := Store.insert k.waves slot { x with gangs := x.restartGangs }, parked := Store.erase k.parked entry }
      let t := (s.setCore core (k'.renameShared (64 + entry) slot)).bump (core / 32) 10 1
      exec (.waveRestart core entry slot) s = .next (t.setCluster (core / 32) { t.cluster (core / 32) with
        runq := (t.cluster (core / 32)).runq.filter (fun e => e.2 ≠ .parked core entry) })

/-! ### Mailbox actions -/

namespace Sys2Proof.Claim

open Machine

/-- The head of core c's mailbox is the record r, of a trap or a service call of a slice of the resident wave x. -/
structure Heads (s : State) (c : Nat) (r : MailRecord) (x : Wave) : Prop where
  mail : ∃ rest, (s.core c).mailbox = r :: rest
  kind : r.kind ≠ 5 ∧ r.kind ≠ 6
  slice : (s.dropHead c).recordSlice c r = .resident x

/-- The slices of the record end, and its launch completes with faults. -/
def ended (s : State) (c : Nat) (r : MailRecord) (x : Wave) (ks : List Nat) : State :=
  (ks.foldl (fun (t : State) k => (t.dropKernelWait c (waveIdSlot r.wave) k).endSlice c (waveIdSlot r.wave) k) (s.dropHead c)).markFaulty x.team

end Sys2Proof.Claim

/-- A write to mbact takes the head record off the mailbox and applies its action: retry lets the slice issue its instruction
again, skip passes it over as a region edge once earlier writes have landed, a deferred error coming first, end slice and end wave end the slice or every slice of the wave, forward delivers the
trap to the process's handler or, without one, ends the slice, reply writes the eight words and goes on behind the SVC, and every other action ends the slice;
dismiss serves the records of doorbells and host queues, as does any action on them; and a held record takes a free place
(05 R132, 08 R171, R172, 09 R181, R184). -/
def Obligations.MailboxActionsComplete : Prop :=
  (∀ (s : State) (c : Nat) (r : MailRecord) (x : Wave), Heads s c r x →
    let w := waveIdSlot r.wave
    let t := s.dropHead c
    let sl := x.slice r.slice
    let u := t.modSlice c w r.slice (fun sl => { sl with wait := none })
    (r.kind ≠ 2 → exec (.mbactRetry c) s = .next (if sl.wait = some .action then
        (if r.kind = 4 ∧ sl.pc ≠ r.pc then u.closeRegion c w r.slice sl.lastLive r.pc else u) else t))
    ∧ (r.kind ≠ 2 → sl.wait = some .action → sl.out = [] → (s.core c).uncommitted w r.slice = false →
        (sl.deferred = [] → exec (.mbactSkip c) s = .next ((t.modSlice c w r.slice (fun sl =>
          { sl with wait := none, pc := sl.pc.next })).closeRegion c w r.slice sl.lastLive sl.pc))
        ∧ (sl.deferred ≠ [] → exec (.mbactSkip c) s = .next ((t.deliverDeferred c w r.slice).modSlice c w r.slice (fun st =>
          if st.wait = some .action then { st with pc := st.pc.next } else st))))
    ∧ exec (.mbactEndSlice c) s = .next (ended s c r x [r.slice])
    ∧ (∀ p h, r.kind = 1 → t.process? x.process = some p → p.handler? = some h → t.wave? c w = some x → t.slice? c w r.slice = some sl →
        h.seg.toNat ≤ x.lastSeg → (t.core c).hasSegment x.image h.seg = true → sl.out = [] → (t.core c).uncommitted w r.slice = false →
        sl.deferred = [] → exec (.mbactForward c) s = .next (t.deliver c w r.slice h
          { code := r.code, lanes := (r.lanes >>> (4 * r.slice)).setWidth 4, addr := r.addr, aux := r.aux
            others := r.lanes &&& ~~~(waveLanes r.slice 15) }))
    ∧ (∀ p, r.kind = 1 → t.process? x.process = some p → p.handler? = none → exec (.mbactForward c) s = .next (ended s c r x [r.slice]))
    ∧ (∀ base, r.kind = 2 → sl.wait = some (.reply base) → exec (.mbactReply c) s = .next ((t.modSlice c w r.slice (fun sl =>
        { sl.putWords (writeFresh t.fresh r.slice) base (t.core c).replyWords with wait := none, pc := sl.pc.next })).closeRegion c w r.slice
          (sl.lastLive ||| liveOf ((List.range 8).map (fun i => .s (base + i)))) sl.pc))
    ∧ exec (.mbactEndWave c) s = .next (ended s c r x x.slices.keys)
    ∧ exec (.mbactDismiss c) s = .next (ended s c r x [r.slice])
    ∧ exec (.mbactUnassigned c) s = .next (ended s c r x [r.slice])
    ∧ (r.kind = 2 → exec (.mbactRetry c) s = .next (ended s c r x [r.slice]) ∧ exec (.mbactSkip c) s = .next (ended s c r x [r.slice]))
    ∧ (r.kind ≠ 1 → exec (.mbactForward c) s = .next (ended s c r x [r.slice]))
    ∧ (r.kind ≠ 2 → exec (.mbactReply c) s = .next (ended s c r x [r.slice])))
  ∧ (∀ (s : State) (c : Nat) (r : MailRecord) (rest : List MailRecord), (s.core c).mailbox = r :: rest →
      (r.kind = 5 → exec (.mbactDismiss c) s = .next ((s.dropHead c).modProcess (objIndex r.proc.toNat) (fun p =>
        { p with raised := p.raised.filter (· ≠ r.aux.toNat) })))
      ∧ (r.kind = 6 → exec (.mbactDismiss c) s = .next ((s.dropHead c).advanceHead r.aux.toNat)))
  ∧ (∀ (s : State) (c : Nat), (s.core c).mailbox = [] → ∀ i ∈ [Instr.mbactRetry c, .mbactSkip c, .mbactEndSlice c, .mbactForward c, .mbactReply c, .mbactEndWave c, .mbactDismiss c, .mbactUnassigned c],
      exec i s = .next s)
  ∧ ∀ (s : State) (c : Nat) (r : MailRecord) (rest : List MailRecord), (s.core c).heldMail = r :: rest → (s.core c).mailbox.length < 64 →
      exec (.mailboxAppend c) s = .next (s.setCore c { s.core c with mailbox := (s.core c).mailbox ++ [r], heldMail := rest })

/-! ### The debug unit and the test access port -/

/-- The debug unit serves each command where it is accepted: memory reads and writes of HBM with the port open, once no copy engine
owns the line, registers and
special registers of a stopped slice, fuses, GENSECRET, and messages of the secure control port; a command not accepted is answered
with status 2 (27 R447, R453, R454). -/
def Obligations.DebugCommandsComplete : Prop :=
  (∀ (s : State) (src : DebugSource) (r : DebugReq), s.servedRequest src = some r → s.security.dbgctl.getLsbD 0 = true →
    let n := 2 ^ r.size
    (r.cmd = 1 → (r.addr + n ≤ 768 * 2 ^ 30 ∧ r.addr % n = 0 → s.ownedLine .hbm r.addr n = false →
        let t := s.checkLine .hbm r.addr
        exec (.memread src) s = .next (t.respond src 0 (BitVec.ofNat 64 (ofLeBytes (t.homeRead (primaryDie r.addr) .hbm r.addr n (t.fresh + 4096))))))
      ∧ (¬ (r.addr + n ≤ 768 * 2 ^ 30 ∧ r.addr % n = 0) → exec (.memread src) s = .next (s.respond src 3 0)))
    ∧ (r.cmd = 2 → (r.addr + n ≤ 768 * 2 ^ 30 ∧ r.addr % n = 0 → s.ownedLine .hbm r.addr n = false →
        exec (.memwrite src) s = .next ((s.homePut .hbm r.addr (leBytes n r.data.toNat) false).respond src 0 0))
      ∧ (¬ (r.addr + n ≤ 768 * 2 ^ 30 ∧ r.addr % n = 0) → exec (.memwrite src) s = .next (s.respond src 3 0)))
    ∧ (r.cmd = 10 → s.commands.any (fun c => c.debug = some src) = false → ∀ b, r.addr % 64 = 0 →
        s.secureBytes 0 (BitVec.ofNat 64 r.addr) 64 = some b → word32 b 0 = 0 → 1 ≤ word32 b 12 → word32 b 12 ≤ 14 →
        let c : Command := { code := BitVec.ofNat 32 (word32 b 12), secure := true, process := 0, reply := none, debug := some src
                             ops := (List.range 4).map (fun k => BitVec.ofNat 32 (word32 b (0x30 + 4 * k))) }
        exec (.cmdport src) s = .next { s with commands := s.commands ++ [c] })
    ∧ ∀ x sl, s.debugSlice r = some (x, sl) →
        (r.cmd = 3 → (∀ l, r.loc x = some l → exec (.regread src) s = .next (s.respond src 0 (((s.debugCtx r x).readLoc sl l).setWidth 64)))
          ∧ (r.loc x = none → exec (.regread src) s = .next (s.respond src 3 0)))
        ∧ (r.cmd = 4 → (∀ l, r.loc x = some l → exec (.regwrite src) s =
              .next ((s.putReg r.core r.slot r.slice l (r.data.setWidth 32)).respond src 0 0))
          ∧ (r.loc x = none → exec (.regwrite src) s = .next (s.respond src 3 0)))
        ∧ (r.cmd = 5 → r.arg % 4096 ≤ 14 → exec (.srread src) s = .next (s.respond src 0
              (if r.arg % 4096 = 9 then BitVec.ofNat 64 r.lane else s.readSr r.core r.slot r.slice x sl (r.arg % 4096))))
        ∧ (r.cmd = 6 → r.arg % 4096 ≤ 2 → exec (.srwrite src) s =
              .next ((s.writeSr r.core r.slot x.process (r.arg % 4096) r.data).respond src 0 0)))
  ∧ (∀ (s : State) (src : DebugSource) (r : DebugReq), s.servedRequest src = some r →
      (r.cmd = 7 → s.security.lcstate ≤ 1 ∨ s.security.dbgctl.getLsbD 0 = true →
        exec (.fuseread src) s = .next (s.respond src 0 (s.security.fuseData (r.arg % 1024))))
      ∧ (r.cmd = 8 → s.security.lcstate ≤ 1 → s.security.acceptsBlow false (r.arg % 1024) r.data.toNat = true → s.security.blowing = none →
          exec (.fuseblow src) s = .next { s with security := { s.security with blowing := some ([(r.arg % 1024, r.data)], none, some src) } })
      ∧ (r.cmd = 9 → s.security.lcstate ≤ 1 → (∀ i < 4, Store.get s.security.fuses 0 (32 + i) = 0) → s.security.blowing = none →
          let bits := (List.range 4).map (fun i => (32 + i, Config.entropy (s.fresh + i)))
          exec (.gensecret src) s = .next { s with security := { s.security with blowing := some (bits, none, some src) } }))
  ∧ ∀ (s : State) (src : DebugSource) (r : DebugReq), s.servedRequest src = some r →
      (s.security.dbgctl.getLsbD 0 = false →
        ∀ p ∈ [(1, Instr.memread src), (2, .memwrite src), (3, .regread src), (4, .regwrite src), (5, .srread src), (6, .srwrite src), (10, .cmdport src)],
          r.cmd = p.1 → exec p.2 s = .next (s.respond src 2 0))
      ∧ (2 ≤ s.security.lcstate →
          (r.cmd = 7 → s.security.dbgctl.getLsbD 0 = false → exec (.fuseread src) s = .next (s.respond src 2 0))
          ∧ (r.cmd = 8 → exec (.fuseblow src) s = .next (s.respond src 2 0))
          ∧ (r.cmd = 9 → exec (.gensecret src) s = .next (s.respond src 2 0)))

/-- The test access port's instructions load what they name: EXTEST and SAMPLE/PRELOAD the boundary cells, IDCODE the
identification register, DBGREQ submits a request and DBGRSP captures the response, every other code is BYPASS, and
Test-Logic-Reset selects IDCODE and frees the pins; a doorbell write of the debug window submits its request while BAR 0 is open
(27 R453, R454, R456). -/
def Obligations.TapInstructionsComplete : Prop :=
  ∀ (s : State),
    let z := s.security
    (∀ dr, exec (.extest dr) s = .next { s with security := { z with ir := 0x00, dr, cells := dr, outputs := dr } })
    ∧ (∀ pins dr, exec (.samplePreload pins dr) s = .next { s with security := { z with ir := 0x02, dr := pins, cells := dr } })
    ∧ exec .idcode s = .next { s with security := { z with ir := 0x01, dr := bitsOf 32 s.idcode.toNat } }
    ∧ (∀ dr, exec (.dbgreq dr) s = .next (({ s with security := { z with ir := 0x20, dr := bitsOf 192 dr.toNat } } : State).submitDebug .tap dr))
    ∧ exec .dbgrsp s = .next { s with security := { z with ir := 0x21, dr := bitsOf 128 z.tap.response.toNat } }
    ∧ (∀ code : BitVec 8, code ∉ [0x00#8, 0x01#8, 0x02#8, 0x20#8, 0x21#8] →
        exec (.bypass code) s = .next { s with security := { z with ir := code, dr := [false] } })
    ∧ exec .testLogicReset s = .next { s with security := { z with ir := 0x01, dr := [], outputs := [] } }
    ∧ ∀ req, ((s.cxlUp = true ∨ s.phase = .recovery) → exec (.debugDoorbellWrite req) s = .next (s.submitDebug .window req))
        ∧ (s.cxlUp = false → s.phase ≠ .recovery → exec (.debugDoorbellWrite req) s = .next s)

/-! ### Commands of a control port -/

namespace Sys2Proof.Claim

open Machine

/-- The command c at the head of the unit's list is done: it leaves the list, and its sender gets the value and the status. -/
def Answers (s : State) (c : Command) (rest : List Command) (i : Instr) (u : State) (v : W32) (status : Nat) : Prop :=
  exec i s = .next (({ u with commands := rest } : State).tellCommand c v status)

/-- It is refused: status 5, and nothing else changes. -/
def Bad (s : State) (c : Command) (rest : List Command) (i : Instr) : Prop := Answers s c rest i s 0 5

end Sys2Proof.Claim

/-- The commands on processes: a shoot-down starts and is answered once every cluster has acknowledged; a handle table is set; a
process is created with its window of vectors, and ends with every handle closed
(19 R343, 12 R236). -/
def Obligations.ProcessCommandsComplete : Prop :=
  ∀ (s : State) (c : Command) (rest : List Command), s.commands = c :: rest →
    (c.code = 1 →
      (∀ p q, c.await = none → s.processNamed c.op0 = some (p, q) → c.op2.toNat % 4096 = 0 →
        let u := s.shoot p c.op2 c.op1
        exec .cmdShootdown s = .next { u.2 with commands := { c with await := some u.1 } :: rest })
      ∧ (∀ id, c.await = some id → s.shotDown id = true → Answers s c rest .cmdShootdown s 0 0)
      ∧ (c.await = none → (s.processNamed c.op0 = none ∨ c.op2.toNat % 4096 ≠ 0) → Bad s c rest .cmdShootdown))
    ∧ (c.code = 2 →
      (∀ p q, s.processNamed c.op0 = some (p, q) → 2 ≤ c.op1 → c.op1 ≤ 2 ^ 24 → c.op2.toNat % 8 = 0 →
        (∀ e ∈ q.table, e.2.used = true → e.1 < c.op1) → Answers s c rest .cmdSetHandleTable (s.modProcess p (fun p =>
          { p with table := p.table.filter (fun e => e.2.used), tableSize := c.op1, tableAddr := c.op2 })) 0 0)
      ∧ ((s.processNamed c.op0 = none ∨ c.op1 < 2 ∨ 2 ^ 24 < c.op1 ∨ c.op2.toNat % 8 ≠ 0) → Bad s c rest .cmdSetHandleTable))
    ∧ (c.code = 3 →
      (∀ i, s.freeObj (s.commandCore c) = some i → c.op0 < 4 → c.op1 % 65536 + c.op1 / 65536 ≤ 2048 →
        c.op2.toNat % 4096 = 0 → c.op2.toNat < 2 ^ 52 →
        let p : Process := { root := c.op2, secure := c.op0.testBit 0, supervisor := c.op0.testBit 1, vecBase := c.op1 % 65536, vecCount := c.op1 / 65536 }
        let v := s.setObj i { body := .process p, refs := 1, owner := 0 }
        let port := (List.find? (fun (o : ℕ × Obj) => o.2.body = .control) v.objects).map (·.1)
        let u := if c.op0.testBit 1 then (port.map (fun j => (v.putHandle i 1 j rightSend).2)).getD v else v
        4096 ≤ dieObjects - u.dieCount (pegDie (u.commandCore c)) →
        Answers s c rest .cmdCreateProcess u (BitVec.ofNat 32 (u.objId i)) 0)
      ∧ ((s.freeObj (s.commandCore c) = none ∨ 4 ≤ c.op0 ∨ 2048 < c.op1 % 65536 + c.op1 / 65536 ∨ c.op2.toNat % 4096 ≠ 0 ∨ 2 ^ 52 ≤ c.op2.toNat) →
          Bad s c rest .cmdCreateProcess))
    ∧ (c.code = 4 →
      (∀ p q, s.processNamed c.op0 = some (p, q) → Answers s c rest .cmdEndProcess
        (((q.table.foldl (fun (s : State) e => s.closeSlot p e.1) s).modProcess p (fun p => { p with ended := true })).unref [p]) 0 0)
      ∧ (s.processNamed c.op0 = none → Bad s c rest .cmdEndProcess))

/-- The commands on host queues, vectors, keys, attestation and fuses (25 R421, R431, 27 R447, R449, R458). -/
def Obligations.QueueKeyAndFuseCommandsComplete : Prop :=
  ∀ (s : State) (c : Command) (rest : List Command), s.commands = c :: rest →
    (c.code = 5 → ∀ p q b h place t, s.processNamed c.op1 = some (p, q) → s.readVirtual (s.processAsker c.process 0) c.op2.toNat 64 = .ok b →
      queueFields b = some h → s.resolve (s.queueAsker p) h.ring.toNat = .ok (.host, place) →
      s.readVirtual (s.queueAsker p) h.tail.toNat 8 = .ok t → (c.op0 < 64 ∨ (256 ≤ c.op0 ∧ c.op0 < 320)) →
      let tail := ofLeBytes t
      let h' : HostQueue := { h with enabled := c.op0.testBit 8, process := p, head := tail, seen := tail }
      Answers s c rest .cmdSetHostQueue { s with queues := Store.insert s.queues (c.op0 % 64) h' } 0 0)
    ∧ (c.code = 6 →
      (c.op0 < 2048 → 1 ≤ c.op1 → c.op1 < 256 → c.op2.toNat ≤ 1000000 →
        let v : VectorState := { (Store.find? s.vectors c.op0).getD {} with count := 0, threshold := c.op1, hold := c.op2.toNat }
        Answers s c rest .cmdSetVector { s with vectors := Store.insert s.vectors c.op0 v } 0 0)
      ∧ ((2048 ≤ c.op0 ∨ c.op1 = 0 ∨ 256 ≤ c.op1 ∨ 1000000 < c.op2.toNat) → Bad s c rest .cmdSetVector))
    ∧ (c.code = 7 →
      (∀ b, s.secureBytes c.process c.op2 128 = some b → c.secure = true → (1 ≤ c.op0 ∧ c.op0 ≤ 63) ∨ c.op0 = 0xFF →
        (s.security.lcstate = 2 ∨ s.security.lcstate = 3) → s.security.dbgctl.getLsbD 0 = false → (∀ x ∈ b.drop 96, x = 0) →
        let w := fun (i : Nat) => (BitVec.ofNat 256 (ofLeBytes ((b.drop (32 * i)).take 32)) : W256)
        let k : MemKey := { xts1 := w 0, xts2 := w 1, kmac := w 2 }
        let z := s.security
        Answers s c rest .cmdInstallKey { s with security :=
          if c.op0 = 0xFF then { z with installSinceWipe := true, linkKey := k }
          else { z with installSinceWipe := true, keys := Store.insert z.keys c.op0 k, keyGen := Store.set z.keyGen 0 c.op0 (Store.get z.keyGen 0 c.op0 + 1) } } 0 0)
      ∧ ((s.secureBytes c.process c.op2 128 = none ∨ c.secure = false ∨ c.op0 = 0 ∨ s.security.dbgctl.getLsbD 0 = true) →
          Bad s c rest .cmdInstallKey))
    ∧ (c.code = 8 → ∀ b u, s.readVirtual (s.processAsker c.process 0) c.op2.toNat 64 = .ok b →
      let secret := (List.range 4).map (fun i => Store.get s.security.sensed 0 (32 + i))
      s.writeVirtual (s.processAsker c.process 0) ((c.op2.toNat + 64) % 2 ^ 64)
        (s.security.report b ++ fitBytes 49856 (Config.attestSign secret (s.security.report b))) = .ok u →
      Answers s c rest .cmdAttest u 0 0)
    ∧ (c.code = 13 → c.started = false →
      (∀ b, c.op0 < 1024 → s.secureBytes c.process c.op2 8 = some b → c.secure = true → s.security.acceptsBlow true c.op0 (ofLeBytes b) = true →
        s.security.blowing = none →
        let c' := { c with started := true }
        exec .cmdFuseblow s = .next { s with
          commands := c' :: rest
          security := { s.security with blowing := some ([(c.op0, BitVec.ofNat 64 (ofLeBytes b))], some c', none) } })
      ∧ (c.op0 < 1024 → (s.secureBytes c.process c.op2 8 = none ∨ c.secure = false) → Bad s c rest .cmdFuseblow)
      ∧ (c.op0.testBit 16 = true → Bad s c rest .cmdGensecret))

/-- The commands on trace rings, stops, counters and the event ring (28 R460, R469 to R471, 25 R430). -/
def Obligations.TraceAndEventCommandsComplete : Prop :=
  ∀ (s : State) (c : Command) (rest : List Command), s.commands = c :: rest →
    (c.code = 9 → ∀ r u, c.op0 < 12 ∨ (256 ≤ c.op0 ∧ c.op0 < 268) → ((s.cluster (c.op0 % 16)).begun = [] ∨ (s.cluster (c.op0 % 16)).trace = none) →
      s.nameRing c.process c.op2 128 0 = some (r, u) →
      let trace := if 256 ≤ c.op0 then some r else none
      Answers s c rest .cmdTraceRing (u.setCluster (c.op0 % 16) { u.cluster (c.op0 % 16) with trace, begun := [] }) 0 0)
    ∧ (c.code = 10 →
      (∀ p q, s.processNamed c.op0 = some (p, q) → s.security.dbgctl.getLsbD 1 = true → c.op1 < 4 →
        Answers s c rest .cmdSetStops (s.modProcess p (fun p => { p with stops := c.op1.testBit 0, step := c.op1.testBit 1 })) 0 0)
      ∧ ((s.processNamed c.op0 = none ∨ s.security.dbgctl.getLsbD 1 = false ∨ 4 ≤ c.op1) → Bad s c rest .cmdSetStops))
    ∧ (c.code = 11 →
      (c.op0 < 2 ^ 15 → c.op1 < 65536 → Answers s c rest .cmdResume (s.modWave (waveIdCore c.op0) (waveIdSlot c.op0) (fun x =>
        { x with slices := x.slices.map (fun k => if c.op1.testBit k.1 then (k.1, { k.2 with stopped := false }) else k) })) 0 0)
      ∧ ((2 ^ 15 ≤ c.op0 ∨ 65536 ≤ c.op1) → Bad s c rest .cmdResume))
    ∧ (c.code = 12 →
      (∀ u, c.op0 < 12 ∨ c.op0 = 16 ∨ c.op0 = 17 → c.op1 < 2 → c.op2.toNat % 128 = 0 →
        s.drainReplicas.writeVirtual (s.processAsker c.process 0) c.op2.toNat ((s.bankWords c.op0).flatMap (fun (x : W64) => leBytes 8 x.toNat)) = .ok u →
        Answers s c rest .cmdCounterSnapshot (if c.op1 = 1 then u.drainReplicas.clearBank c.op0 else u.drainReplicas) 0 0)
      ∧ ((18 ≤ c.op0 ∨ 2 ≤ c.op1 ∨ c.op2.toNat % 128 ≠ 0) → Bad s c rest .cmdCounterSnapshot))
    ∧ (c.code = 14 → (s.events = [] ∨ s.eventRing = none) →
      (∀ r u, c.op0 = 0 → s.nameRing c.process c.op2 64 0 = some (r, u) → Answers s c rest .cmdEventRing { u with eventRing := none } 0 0)
      ∧ (∀ r u, c.op0 = 1 → s.nameRing c.process c.op2 64 s.eventsLost = some (r, u) →
          Answers s c rest .cmdEventRing (State.flushEvents { u with eventRing := some r, eventsLost := 0 }) 0 0)
      ∧ (2 ≤ c.op0 → Bad s c rest .cmdEventRing))

/-! ### Reset, boot, security events and the host -/

/-- Fuses, wipes, entropy failures, uncorrectable errors, reset, boot, recovery and power faults do what the rules say where they
are due (27 R446, R447, R450, R455 to R457, R459, 29 R475, R477). -/
def Obligations.MachineEventsComplete : Prop :=
  ∀ s : State,
    let z := s.security
    (∀ ws c src, z.blowing = some (ws, c, src) →
      let fuses := ws.foldl (fun (m : Store W64) w => Store.set m 0 w.1 (Store.get m 0 w.1 ||| w.2)) z.fuses
      let t : State := { s with security := { z with fuses, blowing := none } }
      let u := match c with
        | some c => ({ t with commands := t.commands.erase c } : State).tellCommand c 0 0
        | none => t
      exec .fuseBlowComplete s = .next (match src with
        | some src => u.respond src 0 0
        | none => u))
    ∧ (z.wiping = true →
      let security := { z with wiping := false, wipeSinceNonce := true, installSinceWipe := false, wipeSinceReset := true }
      let cores := s.cores.map (fun c => (c.1, { c.2 with l1 := c.2.l1.filter (fun l =>
        !(l.1 / 2 ^ 52 % 32 = 0 && Store.get s.lineGen 0 (l.1 % 2 ^ 52) / 2 ^ 32 ≠ 0)) }))
      exec .keywipeComplete s = .next { s with security, cores })
    ∧ exec .entropyHealthFail s = .next { s with security := { z with
        entropyFails := z.entropyFails + 1, entropyFailed := z.entropyFailed || 16 ≤ z.entropyFails + 1 } }
    ∧ (∀ line, exec (.sramUncorrectableError (.llc line)) s = .next (s.poison line))
    ∧ (∀ port bank, exec (.sramUncorrectableError (.linkBuffer port bank)) s = .next (s.retireBank port bank))
    ∧ (∀ core i, exec (.sramUncorrectableError (.coreSram core i)) s =
        .next (s.writeFatal core { kind := 1, wave := waveId core 63, addr := BitVec.ofNat 64 i }))
    ∧ (s.phase = .reset →
      let t := s.senseFuses
      let i := BootImage.ofBytes (Memory.get z.flash)
      (t.security.lcstate ≠ 0 → t.security.imageReason i = 0 → exec .resetRelease s = .next (t.acceptImage i))
      ∧ ((t.security.lcstate = 0 ∨ t.security.imageReason i ≠ 0) →
          exec .resetRelease s = .next { t with phase := .recovery, security := { t.security with recovery := some {} } }))
    ∧ (∀ r addr len, z.recovery = some r → (r.state = 1 ∨ r.state = 5) → exec (.recoveryGo addr len) s =
        .next { s with security := { z with recovery := some { state := 2, reason := 0, addr, len } } })
    ∧ (∀ r, z.recovery = some r → r.state = 2 →
      let i := BootImage.ofBytes (fun o => if o < r.len.toNat then Memory.get s.host (r.addr.toNat + o) else 0)
      (exec (.recoveryFetchComplete true) s = .next { s with security := { z with recovery := some { r with state := 5, reason := 6 } } })
      ∧ (z.imageReason i = 0 → r.len.toNat = 0x8000 + i.length → exec (.recoveryFetchComplete false) s = .next (s.acceptImage i))
      ∧ (z.imageReason i ≠ 0 → r.len.toNat = 0x8000 + i.length → exec (.recoveryFetchComplete false) s =
          .next { s with security := { z with recovery := some { r with state := 5, reason := z.imageReason i } } }))
    ∧ exec .powerFaultHold s = .next (s.cleared .held)
    ∧ (s.phase = .held → exec .hostClearCondition s = .next (s.cleared .reset))

/-- The host's side: a clique forms once, the links come up with an exposed range, a tail that the device reads is taken or stops
its queue, records are handed over or sent to a supervisor, the host's accesses reach what they may and wait on a line that a copy
engine owns, and a snoop takes its line from the device
(20 R356, R357, 25 R420, R427, R428, 12 R237, 29 R478). -/
def Obligations.HostEventsComplete : Prop :=
  ∀ s : State,
    (∀ size chip ports, s.phase = .running → s.cliqueSize = 1 → 8 ≤ size → size ≤ 16 → chip < size → portsOk size chip ports = true →
      exec (.cliqueFormation size chip ports) s = .next { s with
        chip := chip
        cliqueSize := size
        ports := ports.foldl (fun (m : Store Port) p => Store.insert m p.1 { inService := true, peer := p.2 }) s.ports })
    ∧ (∀ base bytes, s.phase = .running → base + bytes ≤ 768 * 2 ^ 30 → exec (.cxlHostLinkBringup base bytes) s =
        .next { s with cxlUp := true, exposedBase := base, exposedBytes := bytes })
    ∧ (∀ q writes h b,
      let t := s.hostStore writes
      Store.find? t.queues q = some h → h.enabled = true → h.stopped = false →
      t.readVirtual (t.queueAsker h.process) h.tail.toNat 8 = .ok b →
      let tail := ofLeBytes b
      (h.seen < tail → tail ≤ h.head + 2 ^ h.lsize →
        exec (.hostTailSnoop q writes) s = .next { t with queues := Store.insert t.queues q { h with seen := tail } })
      ∧ (tail ≤ h.seen → exec (.hostTailSnoop q writes) s = .next t)
      ∧ (h.seen < tail → h.head + 2 ^ h.lsize < tail → exec (.hostTailSnoop q writes) s =
          .next (({ t with queues := Store.insert t.queues q { h with stopped := true } } : State).raiseEvent
            { kind := 3, info := BitVec.ofNat 64 q, body := [] })))
    ∧ (∀ q h b, Store.find? s.queues q = some h → h.enabled = true → h.stopped = false → h.request = false → h.head < h.seen →
      s.launchQueue.length < 1024 →
      let addr := (h.ring.toNat + 128 * (h.head % 2 ^ h.lsize)) % 2 ^ 64
      s.readVirtual (s.queueAsker h.process) addr 128 = .ok b →
      let r : Submit := { recAddr := BitVec.ofNat 64 addr, process := h.process, floor := h.floor, source := .host q, age := 0
                          cls := max (LaunchRecord.ofBytes b).cls h.floor, bytes := some b }
      exec (.hostQueueRecordHandoff q) s = .next ((s.submit r).advanceHead q))
    ∧ (∀ q h, Store.find? s.queues q = some h → h.enabled = true → h.stopped = false → h.request = true → h.out = 0 → h.head < h.seen →
      let addr := (h.ring.toNat + 128 * (h.head % 2 ^ h.lsize)) % 2 ^ 64
      exec (.hostRequestRecord q) s = .next (({ s with queues := Store.insert s.queues q { h with out := 1 } } : State).sendRecord h.core
        { kind := 6, cls := 1, addr := BitVec.ofNat 64 addr, aux := BitVec.ofNat 32 q }))
    ∧ (∀ a : HostAccess, s.cxlUp = true → s.exposedBase ≤ a.addr → a.addr + a.size ≤ s.exposedBase + s.exposedBytes →
      (s.ownedLine .hbm a.addr a.size = true → exec (.hostMemoryAccess a) s = .next s)
      ∧ (s.ownedLine .hbm a.addr a.size = false →
        (a.store = none → exec (.hostMemoryAccess a) s = .next (s.checkLine .hbm a.addr))
        ∧ ∀ bs, a.store = some bs →
          (s.secureAt a.addr = false → s.secureAt (a.addr + a.size - 1) = false →
            exec (.hostMemoryAccess a) s = .next (s.homePut .hbm a.addr (bs.take a.size) false))
          ∧ ((s.secureAt a.addr = true ∨ s.secureAt (a.addr + a.size - 1) = true) → exec (.hostMemoryAccess a) s = .next s)))
    ∧ (∀ a : HostAccess, (s.cxlUp = false ∨ a.addr < s.exposedBase ∨ s.exposedBase + s.exposedBytes < a.addr + a.size) →
      exec (.hostMemoryAccess a) s = .next s)
    ∧ ∀ line,
      (∃ t, exec (.cxlCacheSnoop line) s = .next t ∧ Store.find? t.hostLines line = none)
      ∧ ((Store.find? s.hostLines line = none ∨ ∃ x, Store.find? s.hostLines line = some x ∧ x.dirty = []) →
          exec (.cxlCacheSnoop line) s = .next { s with hostLines := Store.erase s.hostLines line })

/-! ### Walks, shoot-downs, atomics at their home, replicas -/

/-- What the memory system does by itself happens where it is due: the oldest walk ends and fills the TLBs and the caches, or
ends silently; a shoot-down drops the matching translations of the cluster and of its cores, and is acknowledged once no access made
under them is out, nor a write of one on its way to a replica; an atomic reads and writes its location at its home and returns the
old value; a RED.M is applied; and the oldest write not yet at a die's replica reaches it (10 R202 to R206, 12 R234 to R236, R243,
13 R266, R269). -/
def Obligations.MemorySystemEventsComplete : Prop :=
  (∀ (s : State) (cl : Nat) (k : Walk) (rest : List Walk), (s.cluster cl).walks = k :: rest →
    (∀ j ∈ rest, halfOf j.process j.va.toNat ≠ halfOf k.process k.va.toNat ∨ j.va.toNat / 4096 ≠ k.va.toNat / 4096) →
    let t := s.setCluster cl { s.cluster cl with walks := rest }
    let q : Asker := { process := k.process, user := k.user, secure := ((t.process? k.process).map (·.secure)).getD false
                       cluster := cl, core := some k.core, fresh := t.fresh + 4096 }
    (∀ p a rep x, t.resolve q k.va.toNat = .ok (p, a, rep, x) →
      let u := (match x with
        | some x => t.fillCoreTlb k.core x
        | none => t).holdHostLine p a
      ((k.fillL1 = false ∨ u.isPoisoned p a = true) → exec (.pageWalkComplete cl) s = .next u)
      ∧ (k.fillL1 = true → u.isPoisoned p a = false → u.ownedLine p a 1 = false → p.isPeer = false →
          exec (.pageWalkComplete cl) s = .next (u.fillL1 k.dom p a)))
    ∧ ∀ c, t.resolve q k.va.toNat = .error c → exec (.pageWalkComplete cl) s = .next t)
  ∧ (∀ (s : State) (cl id : Nat) (d : Shootdown), (s.cluster cl).shootdowns.find? (fun d => d.id = id && !d.received) = some d →
      let lo := d.start.toNat / 4096 * 4096
      let hi := lo + d.pages * 4096
      let stays := fun (x : Xlat) => !(x.process = halfOf d.process lo && x.page < hi && lo < x.page + x.size)
      ∃ awaits, exec (.shootdownReceipt cl id) s = .next (State.setCluster { s with
          cores := s.cores.map (fun (c : ℕ × Core) => if c.1 / 32 = cl then (c.1, { c.2 with tlb := c.2.tlb.filter stays }) else c) } cl
        { s.cluster cl with
          tlb := (s.cluster cl).tlb.filter stays
          shootdowns := (s.cluster cl).shootdowns.map (fun e => if e.id = id then { e with received := true, awaits := awaits } else e) })
        ∧ ∀ i a p, (i, a) ∈ s.inflight → a.returned = false → a.cancelled = false → a.core / 32 = cl → p ∈ a.parts →
            halfOf a.process p.va = halfOf d.process lo → p.va < hi → lo < p.va + p.size → i ∈ awaits)
  ∧ (∀ (s : State) (cl id : Nat) (d : Shootdown), (s.cluster cl).shootdowns.find? (fun d => d.id = id && d.received) = some d →
      ((∀ i ∈ d.awaits, (∀ a, Store.find? s.inflight i = some a → a.returned = true ∨ a.cancelled = true)
          ∧ ∀ w ∈ s.replicaWrites, w.id ≠ i) →
        exec (.shootdownAck cl id) s = .next (s.setCluster cl { s.cluster cl with shootdowns := (s.cluster cl).shootdowns.filter (fun e => e.id ≠ id) }))
      ∧ ((∃ i ∈ d.awaits, (∃ a, Store.find? s.inflight i = some a ∧ a.returned = false ∧ a.cancelled = false)
          ∨ ∃ w ∈ s.replicaWrites, w.id = i) → exec (.shootdownAck cl id) s = .next s))
  ∧ (∀ (s : State) (id : Nat) (a : Access) (p : Part) (d : Reg) kind ty scope, Store.find? s.inflight id = some a →
      a.kind = .atom (some d) kind ty scope → a.parts = [p] → p.place.isPeer = false → p.got = none → s.due id a = true →
      let m := s.meet a.core a.slot a.gen a.slice (some scope) p.place p.addr p.size
      let r := (m.deny a p).homeRmw a.secure p id (m.fresh + 8192 + 32 * p.lane) (fun old => atomNew kind ty old (bytesVal p.data) (bytesVal p.cmp))
      let u := (r.2.passL1 a.dom p.place p.addr p.size).countHome p.place p.addr 9
      exec (.atomHomePerform id) s =
        .next (((((u.deliverLanes id a d ty.ty.wide [(p.lane, r.1)]).forget id a).deferErrors a).acquireFor a scope).finish id a))
  ∧ (∀ (s : State) (id : Nat) (a : Access) (p : Part) kind ty, Store.find? s.inflight id = some a →
      a.kind = .redm kind ty → a.parts = [p] → p.place.isPeer = false → s.due id a = true → s.redmAhead id a = false →
      let r := (s.deny a p).homeRmw a.secure p id (s.fresh + 8192 + 32 * p.lane) (fun old => (treeNode kind.tree ty old (bytesVal p.data)).val)
      exec (.redmApply id) s =
        .next ((((r.2.countHome p.place p.addr 10).passL1 a.dom p.place p.addr p.size).deferErrors a).finish id a))
  ∧ ∀ (s : State) (die : Nat),
      (∀ w, s.replicaWrites.find? (fun w => w.die = die) = some w → exec (.replicaUpdate die) s = .next (s.applyReplica w))
      ∧ ((∀ w ∈ s.replicaWrites, w.die ≠ die) → exec (.replicaUpdate die) s = .next s)
      ∧ ∀ w, s.replicaWrites = [w] → w.die = die →
          exec (.replicaUpdate die) s = .next { s.bumpDie die 8 1 with
            replicaWrites := []
            stale := w.bytes.zipIdx.foldl (fun m b => Store.erase m (staleKey w.place (w.addr + b.2) die)) s.stale }

/-! ### The fabric -/

/-- The fabric's events do what the rules say where they are due: a whole packet on a served channel is performed once, in the
order of its line and where no copy engine owns the line, once nothing is held any longer for the requests its source has given up (the model's reading, log 60), and is answered; one of a
repeated sequence number is answered again and does nothing more, one that fails its check is refused with a negative acknowledgement, and a stomped one does nothing at all;
a bridge passes a packet on, denies it where the destination's table does not allow it, or ends it stomped with a notice to its source; a response ends a request; a request that
is not answered is sent again, after the fifth attempt it ends with 0x41, and one that has no room in its stream has not gone out; a bank of a receive buffer is retired; a range entry that the
secure world writes goes to every replica (the model's choice of the event, log 85); and an update of an access table ends once every replica has answered (19 R353, 20 R362 to R366, R370). -/
def Obligations.FabricEventsComplete : Prop :=
  (∀ (s : State) (port : Nat) (p : Packet) (q : Port),
    let t := s.heed p
    let x := t.stream p.src p.vc
    Store.find? s.ports port = some q → q.serves p.vc = true → p.src < s.cliqueSize → p.src ≠ s.chip → p.seq < 2 ^ 32 → p.dst = s.chip →
    (p.stomped = false → p.checkOk = true → x.recorded p.seq = false → x.ahead p.seq < 1024 → (∀ h ∈ x.held, h.seq ≠ p.seq) →
      (t.mayPerform x p = true →
        let r := t.performRequest p
        exec (.packetReceive port p) s = .next (((r.2.setStream p.src p.vc ((r.2.stream p.src p.vc).record p.seq r.1)).answerPacket p r.1).drainStream p.src p.vc 1024))
      ∧ (t.mayPerform x p = false → exec (.packetReceive port p) s = .next (t.setStream p.src p.vc { x with held := x.held ++ [p] })))
    ∧ (p.stomped = false → p.checkOk = true → (x.recorded p.seq = true ∨ 1024 ≤ x.ahead p.seq) →
        exec (.packetReceive port p) s = .next (t.answerPacket p (x.recordedReply p.seq)))
    ∧ (p.stomped = true → exec (.packetReceive port p) s = .next s)
    ∧ (p.stomped = false → p.checkOk = false → exec (.packetReceive port p) s = .next { s with wire := s.wire ++ [.nack p.src p.vc p.seq] }))
  ∧ (∀ (s : State) (port : Nat) (p : Packet), s.arrivesOn port p = true → p.dst < s.cliqueSize → p.dst ≠ s.chip → p.dst ≠ p.src →
      exec (.bridgeForward port p true) s = .next { s with
        ports := Store.update s.ports port (fun p => { p with stomps := p.stomps + 1 })
        wire := s.wire ++ [.forward { p with stomped := true }, .stompedNotice p.src p.vc p.seq] }
      ∧ (s.bridgeAllows p = true → exec (.bridgeForward port p false) s = .next { s with wire := s.wire ++ [.forward p] })
      ∧ (s.bridgeAllows p = false → exec (.bridgeForward port p false) s = .next { s with wire := s.wire ++ [.denial p.src p.vc p.seq] }))
  ∧ (∀ (s : State) (dst vc seq : Nat) (p : Sent), s.sentAt dst vc seq = some p →
      (∀ r, exec (.fabricResponseReceive dst vc seq r) s = .next (if s.hasRoom p then s.respondTo p r else s))
      ∧ (s.hasRoom p = false → exec (.stompedNoticeReceive dst vc seq) s = .next s ∧ exec (.nackReceive dst vc seq) s = .next s
          ∧ exec (.resendTimeout dst vc seq) s = .next s)
      ∧ (s.hasRoom p = true → p.attempts < 5 →
          let sent := s.sent.map (fun q => if q = p then { p with attempts := p.attempts + 1, since := s.time } else q)
          exec (.stompedNoticeReceive dst vc seq) s = .next { s with sent }
          ∧ exec (.nackReceive dst vc seq) s = .next { s with sent }
          ∧ (8000 ≤ s.time - p.since → exec (.resendTimeout dst vc seq) s = .next { s with sent }))
      ∧ (s.hasRoom p = true → 5 ≤ p.attempts →
          exec (.stompedNoticeReceive dst vc seq) s = .next (s.respondTo p (.error 0x41))
          ∧ exec (.nackReceive dst vc seq) s = .next (s.respondTo p (.error 0x41))
          ∧ (8000 ≤ s.time - p.since → exec (.resendTimeout dst vc seq) s = .next (s.respondTo p (.error 0x41))))
      ∧ (s.time - p.since < 8000 → exec (.resendTimeout dst vc seq) s = .next s))
  ∧ (∀ (s : State) (port bank : Nat) (p : Port), Store.find? s.ports port = some p → bank < 24 → p.retired.contains bank = false →
      let r := p.retired ++ [bank]
      exec (.bufferBankRetire port bank) s = .next { s with ports := Store.insert s.ports port { p with
        retired := r, inService := p.inService && 24 - r.length ≠ 0 } })
  ∧ (∀ (s : State) (e : AccessEntry) (remove : Bool), e.kind = 2 →
      (if remove then s.accessTable.contains e = true else s.entryRoom e = true) →
      exec (.accessTableUpdate (.write e remove)) s = .next (s.beginUpdate e remove none))
  ∧ ∀ (s : State) (id : Nat) (u : TableUpdate) (rs : List PeerReply), s.updates.find? (fun u => u.id = id) = some u →
      s.answers u.ask = some rs → (∀ r ∈ rs, PeerReply.failed r = false) →
      let t : State := { s with inflight := Store.erase s.inflight u.ask, updates := s.updates.erase u }
      ((u.remove = false ∨ u.entry.kind ≠ 1) → exec (.accessTableUpdate (.complete id)) s = .next (t.answerAsker u.asker))
      ∧ (u.remove = true → u.entry.kind = 1 → s.admitted u.entry = false → exec (.grantEntryRemoveAck id) s = .next (t.answerAsker u.asker))

/-! ### Words, the step, and reset -/

/-- A turn of a gang that is ready runs the instruction its word stands for: where the word at the pc of the gang's slices is in the
core's instruction store and decodes to i, the step is exec of i in the state that says which gang issues, and then the issue is
counted and the step ends.  A word placed by withFetchWord runs on the very next step. -/
def Obligations.StepRunsDecodedInstruction : Prop :=
  (∀ (s : State) (rest : List Turn) (c w k : Nat) (prompt : Bool) (x : Wave) (word : W64) (i : Instr),
    s.schedule = .issue c w k prompt :: rest →
    let t := { s with schedule := rest }
    t.wave? c w = some x → t.gangReady c w k = true →
    let y := x.settle
    let ks := sortNat ((y.gangOf? k).getD { slices := [k], age := 0 }).slices
    (t.core c).wordAt x.image (y.slice k).pc = some word → decode word = .instr i →
    let z := ks.foldl (fun (x : Wave) k => x.setSlice k { x.slice k with wait := none }) y
    let u := { t.setWave c w z with now := { core := c, slot := w, slices := ks, prompt, word } }
    step s = (match exec i u with
      | .next v => .next v.afterTurn.endStep
      | r => r))
  ∧ ∀ (s : State) (w : W64) (i : Instr), decode w = .instr i →
      ∃ u : State, u.now = { core := 0, slot := 63, slices := [0, 1, 2, 3], prompt := true, word := w }
        ∧ u.wave? 0 63 = some (supervisorWave 0 0 {})
        ∧ step (s.withFetchWord 64 w.toNat) = (match exec i u with
          | .next v => .next v.afterTurn.endStep
          | r => r)

/-- Words written out from the spec's encodings decode to the instructions they stand for: FFMA.F32 v9, v8, v10, v11; LD.G.B32.LA3
v8, [s12.d + 64], s20; IADD with FMUL as a dual word; PCOMB; BRA on p3 to 40 with join 52; FMUL v4, v9 with an immediate; ATOM.ADD at
.DV; FENCE.REL.DV; BARV.TM; MMA; PSEND.WAIT; ROTARM; WSR dbgctl; NOP (01 R22 to R33, 02 R77, 04 R108, 10 R201, R207, R213, 14 R287,
17 R307, 21 R373). -/
def Obligations.DecodedWords : Prop :=
  decode 0x08C0002420282C20 = .instr (.ffma
    { look := 0, g := none, d := .v 9, a := { reg := .v 8, last := false }, b := { reg := .v 10, last := false }, c := { reg := .v 11, last := false }, ty := .f32, rnd := .rne, sat := false })
  ∧ decode 0x61000C2232500040 = .instr (.ldGB32 { look := 3, g := none, data := .v 8, base := .s 12, policy := 20, off := 64 })
  ∧ decode 0x804209010F061608 = .instr (.dualIadd { first := 4, second := 9, pred := 0, neg := false, tym := 1, last := false }
      { op := .fmul, f := { first := 6, second := 11, pred := 0, neg := false, tym := 4, last := false } })
  ∧ decode 0x1800001404080CA0 = .instr (.pcomb { g := none, d := 5, a := 1, b := 2, c := 3, na := false, nb := false, nc := true, f := .or, h := .and })
  ∧ decode 0x58E1800000503480 = .instr (.bra { g := some { pred := 3, neg := false }, target := 40, join := 52, valid := true })
  ∧ decode 0x4880001024FC0000 = .instr (.fmulImm { g := none, d := .v 4, a := .v 9, imm := 0xFC0000 })
  ∧ decode 0x2540001808240003 = .instr (.atom { g := none, d := .v 6, a := .v 2, b := .v 9, c := none, kind := .add, ty := .n32, space := .global, scope := .dv })
  ∧ decode 0x25C0000000000013 = .instr (.fence { g := none, kind := .rel, scope := .dv })
  ∧ decode 0x2740022612140001 = .instr (.barv { g := none, d := 9, a := 4, b := 5, scope := .tm })
  ∧ decode 0x28C00008040E2000 = .instr (.mma { d := 2, a := 1, b := 3, c := 8, last := false, acc := .f32, sat := false })
  ∧ decode 0x3040021A12140200 = .instr (.psend { g := none, d := 3, a := 4, b := 5, flag := true })
  ∧ decode 0x3600021A10000000 = .instr (.rotarm { g := none, d := 3, a := 4, flag := false })
  ∧ decode 0x5C40000250000108 = .instr (.dbgctlWrite { g := none, p := 10 })
  ∧ decode 0x1CC0000000000000 = .instr (.nop none)

/-- Decoding the word of any well-formed instruction that has a word gives the instruction back, with every operand at every value
its encoding admits (01 R21 to R39). -/
def Obligations.DecodeOfEncode : Prop := ∀ (i : Instr) (w : W64), i.wf = true → encode i = some w → decode w = .instr i

/-- A word with bits [63:62] = 11 is illegal whatever its other bits hold, and takes trap 0x02 (01 R25); a full word of an unassigned
opcode is illegal with 0x01, and one whose opcode lacks its form with 0x02; every opcode of group 111 is unassigned; FFMA in
full B and BRA in full A take 0x02 (01 R36). -/
def Obligations.ReservedAndUnassignedWords : Prop :=
  (∀ w : W64, w.extractLsb' 62 2 = 3#2 → decode w = .illegal 0x02)
  ∧ (∀ w : W64, w.extractLsb' 62 2 = 0#2 → (RawA.ofWord w).op.toNat ∉ opcodesA →
      decode w = .illegal (if (RawA.ofWord w).op.toNat ∈ opcodesB then 0x02 else 0x01))
  ∧ (∀ w : W64, w.extractLsb' 62 2 = 1#2 → (RawB.ofWord w).op.toNat ∉ opcodesB →
      decode w = .illegal (if (RawB.ofWord w).op.toNat ∈ opcodesA then 0x02 else 0x01))
  ∧ (∀ op : BitVec 8, op.extractLsb' 5 3 = 7#3 → op.toNat ∉ opcodesA ∧ op.toNat ∉ opcodesB)
  ∧ (0x23 ∈ opcodesA ∧ 0x23 ∉ opcodesB ∧ 0x63 ∈ opcodesB ∧ 0x63 ∉ opcodesA)
  ∧ (∀ (s : State) (x : Wave) (k : Nat) (w : W64) (code : Byte), Ready s x → s.now.slices = [k] → decode w = .illegal code →
      exec (instrOf w) s = .next (s.trapNow k { code, lanes := (x.slice k).active }))

/-- RSR regbase gives bits [15:0] the wave's first register unit and bits [18:16] its allotment code, 0 to 3 for 16, 32, 64 or 128
registers; a wave of 32 registers at unit 0x0140 reads 0x1_0140 (07 R155). -/
def Obligations.RegbaseReads : Prop :=
  ∀ (s : State) (x : Wave) (k : Nat) (o : RsrOp) (p : SPair), Ready s x → Edged s x → s.now.slices = [k] → x.lanes o.g k ≠ [] →
    o.num = 0x006 → o.d = .pair p → x.base < 16384 → x.allot ∈ [16, 32, 64, 128] →
    ∃ (t : State) (y : Wave), exec (.rsr o) s = .next t ∧ t.wave? s.now.core s.now.slot = some y
      ∧ let v := (y.slice k).field (pairReg p) true 0
        v.toNat % 2 ^ 16 = x.base
        ∧ (v.toNat / 2 ^ 16) % 8 = (if x.allot = 16 then 0 else if x.allot = 32 then 1 else if x.allot = 64 then 2 else 3)
        ∧ v.toNat / 2 ^ 19 = 0
        ∧ (x.allot = 32 → x.base = 0x0140 → v = 0x10140)

/-- Every instruction answers a next state, from every state: none faults, none is refused. -/
def Obligations.EveryInstructionAnswers : Prop := ∀ (i : Instr) (s : State), Safe (exec i s)

/-- Right after reset the package waits to leave it: every memory is in its canonical form, no core holds a wave, a mailbox record
or a fatal record, and no key, region-table word, measurement, opened debug unit or latched entropy failure is left; vectors are at
count 0, threshold 1 and hold time 0; the instruction register holds IDCODE (25 R431, 27 R443, R450, R451, R453, R457, R459). -/
def Obligations.ResetState : Prop :=
  let s := State.reset
  s.phase = .reset ∧ s.Canonical ∧ (∀ c w, s.wave? c w = none) ∧ (∀ c, (s.core c).mailbox = [] ∧ (s.core c).fatal = none)
  ∧ s.security.keys = [] ∧ (∀ n, Store.get s.security.regions 0 n = 0) ∧ s.security.measure = 0 ∧ s.security.dbgctl = 0
  ∧ s.security.debugOpened = false ∧ s.security.entropyFailed = false ∧ s.security.ir = 0x01
  ∧ s.inflight = [] ∧ (∀ v, let y := Store.get s.vectors {} v; y.count = 0 ∧ y.threshold = 1 ∧ y.hold = 0)
  ∧ s.launchQueue = [] ∧ s.queues = [] ∧ s.eventRing = none ∧ s.cxlUp = false
end

