-- ==== Sys2Proof/Laws/Store.lean ====
section
/-!
SUPPORT. Sparse tables: what reading after writing gives, and that every operation keeps the canonical form.
-/

namespace Sys2Proof.Machine

variable {α : Type}

@[simp] theorem Store.find?_nil (k : Nat) : Store.find? ([] : Store α) k = none := rfl

theorem Store.find?_insert_self (m : Store α) (k : Nat) (x : α) : Store.find? (Store.insert m k x) k = some x := by
  induction m with
  | nil => simp [Store.insert, Store.find?]
  | cons e m ih =>
    obtain ⟨i, y⟩ := e
    by_cases h : k < i
    · simp [Store.insert, Store.find?, h]
    · by_cases h' : i = k
      · simp [Store.insert, Store.find?, h']
      · simp [Store.insert, Store.find?, h, h', ih]

theorem Store.find?_insert_ne (m : Store α) {k j : Nat} (x : α) (h : j ≠ k) :
    Store.find? (Store.insert m k x) j = Store.find? m j := by
  induction m with
  | nil => simp [Store.insert, Store.find?, h.symm]
  | cons e m ih =>
    obtain ⟨i, y⟩ := e
    by_cases h1 : k < i
    · simp [Store.insert, Store.find?, h1, h.symm]
    · by_cases h2 : i = k
      · subst h2
        simp [Store.insert, Store.find?, h.symm]
      · simp [Store.insert, Store.find?, h1, h2, ih]

theorem Store.find?_insert (m : Store α) (k j : Nat) (x : α) :
    Store.find? (Store.insert m k x) j = if j = k then some x else Store.find? m j := by
  by_cases h : j = k
  · subst h; simp [Store.find?_insert_self]
  · simp [h, Store.find?_insert_ne m x h]

theorem Store.insert_insert (m : Store α) (k : Nat) (x y : α) :
    Store.insert (Store.insert m k x) k y = Store.insert m k y := by
  induction m with
  | nil => simp [Store.insert]
  | cons e m ih =>
    obtain ⟨i, z⟩ := e
    by_cases h : k < i
    · simp [Store.insert, h]
    · by_cases h' : i = k
      · simp [Store.insert, h']
      · simp [Store.insert, h, h', ih]

/-! ### The canonical form -/

theorem Store.insert_keys (m : Store α) (k : Nat) (x : α) :
    ∀ e ∈ Store.insert m k x, e.1 = k ∨ ∃ y, (e.1, y) ∈ m := by
  induction m with
  | nil => simp [Store.insert]
  | cons e m ih =>
    obtain ⟨i, y⟩ := e
    intro f hf
    by_cases h : k < i
    · simp only [Store.insert, h, if_true, List.mem_cons] at hf
      rcases hf with rfl | rfl | hf
      · exact .inl rfl
      · exact .inr ⟨y, by simp⟩
      · exact .inr ⟨f.2, by simp [hf]⟩
    · by_cases h' : i = k
      · simp only [Store.insert, h', if_true, if_false, List.mem_cons, lt_irrefl] at hf
        rcases hf with rfl | hf
        · exact .inl rfl
        · exact .inr ⟨f.2, by simp [hf]⟩
      · simp only [Store.insert, h, h', if_false, List.mem_cons] at hf
        rcases hf with rfl | hf
        · exact .inr ⟨y, by simp⟩
        · rcases ih f hf with h1 | ⟨z, hz⟩
          · exact .inl h1
          · exact .inr ⟨z, by simp [hz]⟩

theorem Store.insert_sorted {m : Store α} (h : m.sorted) (k : Nat) (x : α) : (Store.insert m k x).sorted := by
  induction m with
  | nil => simp [Store.insert, Store.sorted]
  | cons e m ih =>
    obtain ⟨i, y⟩ := e
    obtain ⟨h1, h2⟩ := List.pairwise_cons.1 h
    by_cases hk : k < i
    · simp only [Store.insert, hk, if_true]
      refine List.pairwise_cons.2 ⟨?_, h⟩
      intro f hf
      rcases List.mem_cons.1 hf with rfl | hf
      · exact hk
      · exact lt_trans hk (h1 f hf)
    · by_cases he : i = k
      · simp only [Store.insert, he, if_true, if_false, lt_irrefl]
        refine List.pairwise_cons.2 ⟨?_, h2⟩
        intro f hf
        exact he ▸ h1 f hf
      · simp only [Store.insert, hk, he, if_false]
        refine List.pairwise_cons.2 ⟨?_, ih h2⟩
        intro f hf
        rcases Store.insert_keys m k x f hf with h3 | ⟨z, hz⟩
        · show i < f.1
          omega
        · exact h1 (f.1, z) hz

theorem Store.erase_sublist (m : Store α) (k : Nat) : (Store.erase m k).Sublist m := by
  induction m with
  | nil => simp [Store.erase]
  | cons e m ih =>
    obtain ⟨i, y⟩ := e
    by_cases h : i = k
    · simpa [Store.erase, h] using ih.trans (List.sublist_cons_self _ _)
    · simpa [Store.erase, h] using ih

theorem Store.erase_sorted {m : Store α} (h : m.sorted) (k : Nat) : (Store.erase m k).sorted :=
  List.Pairwise.sublist (Store.erase_sublist m k) h

theorem Store.set_sorted [DecidableEq α] {m : Store α} (h : m.sorted) (d : α) (k : Nat) (x : α) :
    (Store.set m d k x).sorted := by
  unfold Store.set
  split
  · exact Store.erase_sorted h k
  · exact Store.insert_sorted h k x

theorem Store.insert_plain {m : Store α} {d : α} (h : ∀ e ∈ m, e.2 ≠ d) (k : Nat) {x : α} (hx : x ≠ d) :
    ∀ e ∈ Store.insert m k x, e.2 ≠ d := by
  induction m with
  | nil => simpa [Store.insert] using hx
  | cons e m ih =>
    obtain ⟨i, y⟩ := e
    have hm : ∀ e ∈ m, e.2 ≠ d := fun f hf => h f (List.mem_cons_of_mem _ hf)
    intro f hf
    by_cases hk : k < i
    · simp only [Store.insert, hk, if_true] at hf
      rcases List.mem_cons.1 hf with rfl | hf
      · exact hx
      · exact h f hf
    · by_cases he : i = k
      · simp only [Store.insert, he, if_true, if_false, lt_irrefl] at hf
        rcases List.mem_cons.1 hf with rfl | hf
        · exact hx
        · exact hm f hf
      · simp only [Store.insert, hk, he, if_false] at hf
        rcases List.mem_cons.1 hf with rfl | hf
        · exact h (i, y) (by simp)
        · exact ih hm f hf

theorem Store.set_plain [DecidableEq α] {m : Store α} {d : α} (h : ∀ e ∈ m, e.2 ≠ d) (k : Nat) (x : α) :
    ∀ e ∈ Store.set m d k x, e.2 ≠ d := by
  unfold Store.set
  split
  · exact fun e he => h e ((Store.erase_sublist m k).subset he)
  · rename_i hx
    exact Store.insert_plain h k hx

/-! ### Reading after erasing -/

theorem Store.find?_erase_self (m : Store α) (k : Nat) : Store.find? (Store.erase m k) k = none := by
  induction m with
  | nil => rfl
  | cons e m ih =>
    obtain ⟨i, y⟩ := e
    by_cases he : i = k <;> simp [Store.erase, Store.find?, he, ih]

theorem Store.find?_erase_ne (m : Store α) {k j : Nat} (hj : j ≠ k) :
    Store.find? (Store.erase m k) j = Store.find? m j := by
  induction m with
  | nil => rfl
  | cons e m ih =>
    obtain ⟨i, y⟩ := e
    by_cases he : i = k
    · subst he
      simp [Store.erase, Store.find?, hj.symm, ih]
    · simp [Store.erase, Store.find?, he, ih]

theorem Store.get_set_self [DecidableEq α] (m : Store α) (d : α) (k : Nat) (x : α) :
    Store.get (Store.set m d k x) d k = x := by
  unfold Store.set Store.get
  split
  · simp [Store.find?_erase_self, *]
  · simp [Store.find?_insert_self]

theorem Store.get_set_ne [DecidableEq α] (m : Store α) (d : α) {k j : Nat} (x : α) (hj : j ≠ k) :
    Store.get (Store.set m d k x) d j = Store.get m d j := by
  unfold Store.set Store.get
  split
  · simp [Store.find?_erase_ne m hj]
  · simp [Store.find?_insert_ne m x hj]

end Sys2Proof.Machine
end

