-- ==== Sys2Proof/Laws/Lanes.lean ====
section
/-!
SUPPORT. What the driver of instructions over lanes can do: once its gang is ready, every slice runs.
-/

namespace Sys2Proof.Machine

/-! ### Reading quiet registers -/

theorem Slice.Quiet.oldIn {sl : Slice} (h : sl.Quiet) (loc : Loc) : sl.oldIn loc = none := by
  simp [Slice.oldIn, h.windows]

theorem Slice.Quiet.read {sl : Slice} (h : sl.Quiet) (fresh : Nat) (loc : Loc) : sl.read fresh loc = sl.raw loc := by
  simp [Slice.read, h.oldIn, h.dead]

theorem Slice.Quiet.blocked {sl : Slice} (h : sl.Quiet) (ls : List Loc) : sl.blocked ls = false := by
  simp [Slice.blocked, h.out]

theorem Core.sharedAt_none {k : Core} (h : k.shared = []) (slot n : Nat) : k.sharedAt slot n = none := by
  simp [Core.sharedAt, h]

theorem Core.shareAll_none {k : Core} (h : k.shared = []) (slot : Nat) (us : List (Nat × Nat × ShareUse)) :
    k.shareAll slot us = some k := by
  induction us with
  | nil => rfl
  | cons u us ih =>
    obtain ⟨n, l, u⟩ := u
    simp [Core.shareAll, Core.sharedAt_none h, ih]

theorem Slice.Quiet.windowWins {sl : Slice} (h : sl.Quiet) (fresh : Nat) (loc : Loc) : sl.windowWins fresh loc = true := by
  simp [Slice.windowWins, h.oldIn]

theorem Ctx.readLocAt_quiet {x : Ctx} {sl : Slice} (h : x.core.shared = []) (hs : sl.Quiet) (i : Nat) (loc : Loc) :
    x.readLocAt sl i loc = sl.raw loc := by
  cases loc <;> simp [Ctx.readLocAt, Core.shareVal, Core.sharedAt_none h, hs.read]

theorem Ctx.readLoc_quiet {x : Ctx} {sl : Slice} (h : x.core.shared = []) (hs : sl.Quiet) (loc : Loc) :
    x.readLoc sl loc = sl.raw loc := Ctx.readLocAt_quiet h hs 0 loc

theorem Ctx.readRegAt_quiet {x : Ctx} {sl : Slice} (h : x.core.shared = []) (hs : sl.Quiet) (i : Nat) (r : Reg) (wide : Bool) (l : Nat)
    (hq : qNum? r = none) : x.readRegAt sl i r wide l = sl.field r wide l := by
  cases r <;> simp_all [Ctx.readRegAt, Slice.field, Ctx.readLocAt_quiet, qNum?]

theorem Ctx.readReg_quiet {x : Ctx} {sl : Slice} (h : x.core.shared = []) (hs : sl.Quiet) (r : Reg) (wide : Bool) (l : Nat)
    (hq : qNum? r = none) : x.readReg sl r wide l = sl.field r wide l := Ctx.readRegAt_quiet h hs 0 r wide l hq

/-! ### Writing quiet registers -/

theorem Slice.setRaw_quiet {sl : Slice} (h : sl.Quiet) (loc : Loc) (x : W32) : (sl.setRaw loc x).Quiet := by
  cases loc <;> exact ⟨h.out, h.windows, h.dead⟩

theorem Slice.write_quiet {sl : Slice} (h : sl.Quiet) (fresh : Nat) (loc : Loc) (x : W32) :
    sl.write fresh loc x = { sl.setRaw loc x with marks := sl.marks.filter (· ≠ loc) } := by
  cases loc <;> simp [Slice.write, h.windowWins, h.oldIn, Slice.setRaw, h.dead]

theorem Slice.writeAll_quiet (fresh : Nat) (ws : List (Loc × W32)) :
    ∀ {sl : Slice}, sl.Quiet → ∃ ms, sl.writeAll fresh ws
      = { ws.foldl (fun sl w => Slice.setRaw sl w.1 w.2) sl with marks := ms } := by
  suffices H : ∀ {sl : Slice} (ms0 : List Loc), sl.Quiet → ∃ ms,
      Slice.writeAll { sl with marks := ms0 } fresh ws = { ws.foldl (fun sl w => Slice.setRaw sl w.1 w.2) sl with marks := ms } by
    intro sl h
    exact H sl.marks h
  induction ws with
  | nil => intro sl ms0 _; exact ⟨ms0, rfl⟩
  | cons w ws ih =>
    intro sl ms0 h
    have hq : Slice.Quiet { sl with marks := ms0 } := ⟨h.out, h.windows, h.dead⟩
    obtain ⟨ms, hm⟩ := ih (ms0.filter (· ≠ w.1)) (Slice.setRaw_quiet h w.1 w.2)
    refine ⟨ms, ?_⟩
    show Slice.writeAll (Slice.write { sl with marks := ms0 } fresh w.1 w.2) fresh ws = _
    rw [Slice.write_quiet hq]
    have : (Slice.setRaw { sl with marks := ms0 } w.1 w.2) = { Slice.setRaw sl w.1 w.2 with marks := ms0 } := by
      cases w.1 <;> rfl
    rw [this]
    exact hm

theorem Slice.foldRaw_quiet (ws : List (Loc × W32)) : ∀ {sl : Slice}, sl.Quiet →
    (ws.foldl (fun sl w => Slice.setRaw sl w.1 w.2) sl).Quiet := by
  induction ws with
  | nil => exact fun h => h
  | cons w ws ih => exact fun h => ih (Slice.setRaw_quiet h w.1 w.2)

/-- Writing registers changes nothing else. -/
theorem Slice.foldRaw_frame (ws : List (Loc × W32)) : ∀ sl : Slice,
    ws.foldl (fun sl w => Slice.setRaw sl w.1 w.2) sl
      = { sl with v := (ws.foldl (fun sl w => Slice.setRaw sl w.1 w.2) sl).v
                  s := (ws.foldl (fun sl w => Slice.setRaw sl w.1 w.2) sl).s } := by
  induction ws with
  | nil => exact fun _ => rfl
  | cons w ws ih =>
    intro sl
    have h := ih (sl.setRaw w.1 w.2)
    simp only [List.foldl_cons]
    rw [h]
    cases w.1 <;> rfl

theorem Slice.foldPred_marks (bs : List (Nat × Nat × Bool)) : ∀ (sl : Slice) (ms : List Loc) (ws : List Window),
    bs.foldl (fun sl b => Slice.setPredLane sl b.1 b.2.1 b.2.2) { sl with marks := ms, windows := ws }
      = { bs.foldl (fun sl b => Slice.setPredLane sl b.1 b.2.1 b.2.2) sl with marks := ms, windows := ws } := by
  induction bs with
  | nil => exact fun _ _ _ => rfl
  | cons b bs ih => exact fun sl ms ws => ih (sl.setPredLane b.1 b.2.1 b.2.2) ms ws

theorem Slice.foldPred_frame (bs : List (Nat × Nat × Bool)) : ∀ sl : Slice,
    bs.foldl (fun sl b => Slice.setPredLane sl b.1 b.2.1 b.2.2) sl
      = { sl with p := (bs.foldl (fun sl b => Slice.setPredLane sl b.1 b.2.1 b.2.2) sl).p } := by
  induction bs with
  | nil => exact fun _ => rfl
  | cons b bs ih =>
    intro sl
    have h := ih (sl.setPredLane b.1 b.2.1 b.2.2)
    simp only [List.foldl_cons]
    rw [h]
    rfl

/-! ### The plan of a slice -/

/-- A lane operation as a part, for a slice that reads like this. -/
def LaneOp.part (o : LaneOp) (c : Nat → Ctx) (x : Wave) : LanePart :=
  { d := o.sh.d, lanes := fun k => o.lanes (x.slice k), out := fun k l => o.f ((c k).laneIn (x.slice k) o.sh l) }

theorem LaneOp.lanes_worked {o : LaneOp} (h : o.sh.only = none) (sl : Slice) : o.lanes sl = sl.worked o.sh.g o.sh.d := by
  unfold LaneOp.lanes Slice.worked Shape.uniform
  rw [h]
  cases hd : o.sh.d with
  | none => simp
  | some p => obtain ⟨r, w⟩ := p; cases r <;> simp

theorem lowestFlag_zero : lowestFlag 0 = none := by decide
theorem enabledTrap_zero (e : BitVec 5) : enabledTrap 0 e = none := by
  have h : e &&& 0 = 0 := BitVec.and_zero
  rw [enabledTrap, h]
  exact lowestFlag_zero

/-- Nothing in the word names a queue or a register outside the allotment. -/
structure LaneOp.Clear (x : Wave) (o : LaneOp) : Prop where
  pops : o.sh.pops = []
  push : o.sh.push? = none
  bound : ∀ n ∈ o.sh.vAll, n < x.allot

theorem planChecks_clear {ops : List LaneOp} {x : Ctx} (sl : Slice) (h : ∀ o ∈ ops, o.Clear x.wave) :
    planChecks ops x sl = none := by
  have h1 : ops.any (fun o => o.sh.vAll.any (fun n => x.wave.allot ≤ n)) = false := by
    simp only [List.any_eq_false]
    intro o ho
    simpa using (h o ho).bound
  have h2 : ops.any (fun o => !(o.lanes sl).isEmpty
      && (o.sh.pops.any (fun q => !x.wave.popOk q) || o.sh.push?.any (fun q => !x.wave.pushOk q))) = false := by
    simp only [List.any_eq_false]
    intro o ho
    simp [(h o ho).pops, (h o ho).push]
  simp [planChecks, h1, h2]

theorem LaneOp.queues_clear {o : LaneOp} {x : Wave} (h : o.Clear x) (sl : Slice) : o.queues sl = [] := by
  simp [LaneOp.queues, Shape.queues, h.pops, h.push]

theorem isQueueEdge_clear {ops : List LaneOp} {x : Wave} (h : ∀ o ∈ ops, o.Clear x) (sl : Slice) : isQueueEdge ops sl = false := by
  simp only [isQueueEdge, List.any_eq_false]
  intro o ho
  simp [LaneOp.queues_clear (h o ho) sl]

/-! ### The exceptions of lanes -/

theorem allFlags_append (a b : List (Nat × FFlags)) : allFlags (a ++ b) = allFlags a ||| allFlags b := by
  have h : ∀ (l : List (Nat × FFlags)) (m : FFlags), l.foldl (fun m x => m ||| x.2) m = m ||| allFlags l := by
    intro l
    induction l with
    | nil => intro m; simp [allFlags]
    | cons y l ih =>
      intro m
      rw [List.foldl_cons, ih, show allFlags (y :: l) = ((0 : FFlags) ||| y.2) ||| allFlags l from ih _]
      simp [BitVec.or_assoc]
  rw [allFlags, List.foldl_append]
  exact h b _

theorem allFlags_const (l : List Nat) (hl : l ≠ []) (e : FFlags) : allFlags (l.map (fun k => (k, e))) = e := by
  induction l with
  | nil => exact absurd rfl hl
  | cons k l ih =>
    rw [List.map_cons, show ((k, e) :: l.map (fun k => (k, e))) = [(k, e)] ++ l.map (fun k => (k, e)) from rfl, allFlags_append]
    by_cases h : l = []
    · subst h; simp [allFlags]
    · rw [ih h]; simp [allFlags]

/-- The lanes that an operation's exceptions are charged to raise what its results do. -/
theorem LaneOp.allFlags_flagged (o : LaneOp) (x : Ctx) (sl : Slice) :
    allFlags ((o.results x sl).flatMap (o.flagged sl)) = allFlags ((o.results x sl).map (fun y => (y.1, y.2.flags))) := by
  cases hu : o.sh.uniform with
  | false =>
    have : o.flagged sl = fun y => [(y.1, y.2.flags)] := by funext y; simp [LaneOp.flagged, hu]
    rw [this, List.map_eq_flatMap]
  | true =>
    cases hl : o.lanes sl with
    | nil => simp [LaneOp.results, hl]
    | cons a l =>
      have h1 : l = [] := by
        have := congrArg List.length hl
        simp only [LaneOp.lanes, hu, if_true, List.length_take, List.length_cons] at this
        exact List.length_eq_zero_iff.1 (by omega)
      have h2 : lanesOf (sl.exec o.sh.g) ≠ [] := by
        intro h
        simp [LaneOp.lanes, h] at hl
      subst h1
      simp only [LaneOp.results, hl, LaneOp.flagged, hu, if_true, List.map_singleton, List.flatMap_singleton]
      rw [allFlags_const _ h2]
      simp [allFlags]

theorem planSlice_run {ops : List LaneOp} {c : Nat → Ctx} {x : Wave} {k : Nat} (hw : (c k).wave = x) (hk : (c k).k = k)
    (hs : (c k).core.shared = []) (hq : (x.slice k).Quiet) (ht : x.tmask = 0) (h : ∀ o ∈ ops, o.Clear x) :
    ∃ ms ws us, planSlice ops (c k) (x.slice k)
      = .run { (x.slice k).put k (ops.map (fun o => o.part c x)) with pc := (x.slice k).pc.next, marks := ms, windows := ws }
          (allFlags ((ops.map (fun o => o.part c x)).flatMap (fun p => p.raised k))) us [] [] := by
  subst hw
  have hparts : ops.flatMap (fun o => o.pushed k (o.results (c k) ((c k).wave.slice k))) = [] := by
    simp only [List.flatMap_eq_nil_iff]
    intro o ho
    simp [LaneOp.pushed, (h o ho).push]
  have hqs : ops.any (fun o => !(o.lanes ((c k).wave.slice k)).isEmpty && (o.sh.pops.any (fun q => !(c k).wave.popReady q)
      || o.sh.push?.any (fun q => !(c k).wave.pushReady q))) = false := by
    simp only [List.any_eq_false]
    intro o ho
    simp [(h o ho).pops, (h o ho).push]
  have hedge : isQueueEdge ops ((c k).wave.slice k) = false := isQueueEdge_clear h _
  have hqn : ops.flatMap (fun o => o.queues ((c k).wave.slice k)) = [] := by
    simp only [List.flatMap_eq_nil_iff]
    intro o ho
    exact LaneOp.queues_clear (h o ho) _
  have hfl : allFlags ((ops.map (fun o => (o, o.results (c k) ((c k).wave.slice k)))).flatMap
        (fun r => r.2.flatMap (r.1.flagged ((c k).wave.slice k))))
      = allFlags ((ops.map (fun o => o.part c (c k).wave)).flatMap (fun p => p.raised k)) := by
    clear hparts hqs hedge hqn h ht
    induction ops with
    | nil => rfl
    | cons o ops ih =>
      simp only [List.map_cons, List.flatMap_cons, allFlags_append, ih, LaneOp.allFlags_flagged]
      simp [LaneOp.results, LanePart.raised, LaneOp.part, Function.comp_def]
  have hws : (ops.map (fun o => (o, o.results (c k) ((c k).wave.slice k)))).flatMap (fun r => r.1.writes r.2)
      = (ops.map (fun o => o.part c (c k).wave)).flatMap (fun p => p.writes k) := by
    simp only [List.flatMap_map]
    refine List.flatMap_congr ?_
    intro o ho
    simp only [LaneOp.results, LanePart.writes, LaneOp.part, LaneOp.writes]
    cases o.sh.d with
    | none => rfl
    | some p => simp [List.flatMap_map]
  have hps : (ops.map (fun o => (o, o.results (c k) ((c k).wave.slice k)))).flatMap (fun r => LaneOp.predWrites r.2)
      = (ops.map (fun o => o.part c (c k).wave)).flatMap (fun p => p.preds k) := by
    simp only [List.flatMap_map]
    refine List.flatMap_congr ?_
    intro o ho
    simp [LaneOp.results, LanePart.preds, LaneOp.part, LaneOp.predWrites, List.flatMap_map]
  unfold planSlice
  simp only [hedge, Slice.atEdge, Bool.false_eq_true, if_false]
  rw [planChecks_clear _ h]
  simp only [hq.blocked, Bool.false_and, Bool.or_false, hqs, Bool.false_eq_true, if_false, hfl, ht, Option.isNone_some,
    enabledTrap_zero, Core.shareAll_none hs, hws, hps, hqn, ne_eq]
  generalize hW : (ops.map (fun o => o.part c (c k).wave)).flatMap (fun p => p.writes k) = W
  generalize hP : (ops.map (fun o => o.part c (c k).wave)).flatMap (fun p => p.preds k) = P
  generalize hM : ((c k).wave.slice k).marks ++ _ = M
  have hq1 : Slice.Quiet { (c k).wave.slice k with marks := M } := ⟨hq.out, hq.windows, hq.dead⟩
  obtain ⟨ms, hms⟩ := Slice.writeAll_quiet (writeFresh (c k).fresh (c k).k) W hq1
  have hMM : ∀ (sl : Slice) (M : List Loc) , W.foldl (fun sl w => Slice.setRaw sl w.1 w.2) { sl with marks := M }
      = { W.foldl (fun sl w => Slice.setRaw sl w.1 w.2) sl with marks := M } := by
    intro sl M
    clear hW hms
    induction W generalizing sl with
    | nil => rfl
    | cons w W ih =>
      simp only [List.foldl_cons]
      rw [← ih]
      cases w.1 <;> rfl
  rw [hms, hMM]
  have hpush : (ops.map (fun o => (o, o.results (c k) ((c k).wave.slice k)))).flatMap (fun r => r.1.pushed (c k).k r.2) = [] := by
    rw [hk, List.flatMap_map]
    exact hparts
  rw [hpush]
  have hopen : ∀ (sl : Slice) (n : Nat) (pc : Pc) (old : List (Loc × W32)), ∃ ws, sl.tickWindows.openWindow n pc old = { sl with windows := ws } := by
    intro sl n pc old
    by_cases hn : n = 0
    · exact ⟨sl.tickWindows.windows, by simp [Slice.openWindow, hn, Slice.tickWindows]⟩
    · exact ⟨_, by rw [Slice.openWindow, if_neg hn]; rfl⟩
  generalize List.foldl max 0 _ = look
  generalize W.map _ = old
  obtain ⟨ws, hws'⟩ := hopen { W.foldl (fun sl w => Slice.setRaw sl w.1 w.2) ((c k).wave.slice k) with marks := ms }
    look ((c k).wave.slice k).pc old
  refine ⟨ms, ws, ?us, ?h⟩
  case h =>
    simp only [Slice.put, hW, hP]
    have e := Slice.foldPred_marks P (W.foldl (fun sl w => Slice.setRaw sl w.1 w.2) ((c k).wave.slice k)) ms ws
    simp only at hws'
    rw [hws', e]

/-! ### The whole gang -/

theorem State.core_setCore (s : State) (c : Nat) (x : Core) : (s.setCore c x).core c = x := by
  simp [State.core, State.setCore, Store.find?_insert_self]

theorem State.setCore_setCore (s : State) (c : Nat) (x y : Core) : (s.setCore c x).setCore c y = s.setCore c y := by
  simp [State.setCore, Store.insert_insert]

theorem State.wave?_setWave (s : State) (c w : Nat) (x : Wave) : (s.setWave c w x).wave? c w = some x := by
  simp [State.wave?, State.setWave, State.core_setCore, Store.find?_insert_self]

theorem State.setWave_setWave (s : State) (c w : Nat) (x y : Wave) : (s.setWave c w x).setWave c w y = s.setWave c w y := by
  simp [State.setWave, State.core_setCore, State.setCore_setCore, Store.insert_insert]

theorem State.setCore_core_setWave (s : State) (c w : Nat) (x : Wave) :
    (s.setWave c w x).setCore c ((s.setWave c w x).core c) = s.setWave c w x := by
  simp [State.setWave, State.core_setCore, State.setCore_setCore]

theorem State.shared_setWave (s : State) (c w : Nat) (x : Wave) : ((s.setWave c w x).core c).shared = (s.core c).shared := by
  simp [State.setWave, State.core_setCore]

theorem Wave.slice_of_find {x : Wave} {k : Nat} {sl : Slice} (h : Store.find? x.slices k = some sl) : x.slice k = sl := by
  simp [Wave.slice, h]

/-- Carrying out a plan that runs changes one slice and the flags. -/
theorem commitPlan_run (s : State) (c w : Nat) (hc : s.now.core = c) (hw : s.now.slot = w) (hsh : (s.core c).shared = []) (y : Wave)
    (k : Nat) (sl : Slice) (fl : FFlags) (us : List (Nat × Nat × ShareUse)) (ps : List (Nat × Nat × W64)) (qs : List Nat) :
    commitPlan (s.setWave c w y) k (.run sl fl us ps qs)
      = s.setWave c w { y.setSlice k { sl with wait := none } with fflags := y.fflags ||| fl } := by
  subst hc hw
  have hnow : ∀ z : Wave, (s.setWave s.now.core s.now.slot z).now = s.now := fun _ => rfl
  simp only [commitPlan, State.modWave, hnow, State.wave?_setWave, State.setWave_setWave]
  rw [Core.shareAll_none (by rw [State.shared_setWave]; exact hsh)]
  cases us with
  | nil => simp
  | cons u us => simp [State.setCore_core_setWave]

/-- Carrying out one plan for each slice of a gang, all of which run. -/
theorem foldl_commitPlan (s : State) (hsh : (s.core s.now.core).shared = []) (sl : Nat → Slice) (fl : Nat → FFlags)
    (us : Nat → List (Nat × Nat × ShareUse)) :
    ∀ (ks : List Nat) (y : Wave), ks.Nodup → ∃ z : Wave,
      (ks.map (fun k => (k, Plan.run (sl k) (fl k) (us k) [] []))).foldl (fun s p => commitPlan s p.1 p.2)
        (s.setWave s.now.core s.now.slot y) = s.setWave s.now.core s.now.slot z
      ∧ z = { y with slices := z.slices, fflags := z.fflags }
      ∧ z.fflags = ks.foldl (fun e k => e ||| fl k) y.fflags
      ∧ (∀ k, k ∉ ks → Store.find? z.slices k = Store.find? y.slices k)
      ∧ ∀ k ∈ ks, Store.find? z.slices k = some { sl k with wait := none } := by
  intro ks
  induction ks with
  | nil => exact fun y _ => ⟨y, rfl, rfl, rfl, fun _ _ => rfl, by simp⟩
  | cons k ks ih =>
    intro y hn
    obtain ⟨hk, hn⟩ := List.nodup_cons.1 hn
    obtain ⟨z, h1, h2, h3, h4, h5⟩ := ih { y.setSlice k { sl k with wait := none } with fflags := y.fflags ||| fl k } hn
    refine ⟨z, ?_, ?_, ?_, ?_, ?_⟩
    · rw [List.map_cons, List.foldl_cons, commitPlan_run s _ _ rfl rfl hsh y]
      exact h1
    · rw [h2]; rfl
    · rw [h3]; rfl
    · intro j hj
      simp only [List.mem_cons, not_or] at hj
      rw [h4 j hj.2]
      exact Store.find?_insert_ne _ _ hj.1
    · intro j hj
      rcases List.mem_cons.1 hj with rfl | hj
      · rw [h4 _ hk]
        exact Store.find?_insert_self _ _ _
      · exact h5 j hj

/-- The wave of a ready gang, written back where it stands, is no change but of the table's listing. -/
theorem State.foldl_first {α : Type} (f : State → α → State) (s : State) (g : State → State) (l : List α) (hl : l ≠ [])
    (h : ∀ a ∈ l, f s a = f (g s) a) : l.foldl f s = l.foldl f (g s) := by
  cases l with
  | nil => exact absurd rfl hl
  | cons a l => rw [List.foldl_cons, List.foldl_cons, h a (by simp)]

theorem commitPlan_first (s : State) (x : Wave) (hx : s.wave? s.now.core s.now.slot = some x) (k : Nat) (sl : Slice) (fl : FFlags)
    (us : List (Nat × Nat × ShareUse)) (ps : List (Nat × Nat × W64)) (qs : List Nat) :
    commitPlan s k (.run sl fl us ps qs) = commitPlan (s.setWave s.now.core s.now.slot x) k (.run sl fl us ps qs) := by
  have hnow : ∀ z : Wave, (s.setWave s.now.core s.now.slot z).now = s.now := fun _ => rfl
  simp only [commitPlan, State.modWave, hnow, hx, State.wave?_setWave, State.setWave_setWave]

/-- A gang in which every slice's plan runs: the wave afterwards. -/
theorem issuePlans_run {s : State} {x : Wave} (hr : Ready s x) (plan : Ctx → Slice → Plan)
    (after : List Committed → State → State) (hafter : ∀ l t, (∀ r ∈ l, r.queues = []) → after l t = t)
    (sl : Nat → Slice) (fl : Nat → FFlags) (us : Nat → List (Nat × Nat × ShareUse))
    (h : ∀ k ∈ s.now.slices, plan { core := s.core s.now.core, slot := s.now.slot, wave := x, k, fresh := s.fresh, gang := s.now.slices }
      (x.slice k) = .run (sl k) (fl k) (us k) [] []) :
    ∃ z : Wave, issuePlans plan after s = s.setWave s.now.core s.now.slot z
      ∧ z = { x with slices := z.slices, fflags := z.fflags }
      ∧ z.fflags = s.now.slices.foldl (fun e k => e ||| fl k) x.fflags
      ∧ (∀ k, k ∉ s.now.slices → Store.find? z.slices k = Store.find? x.slices k)
      ∧ ∀ k ∈ s.now.slices, Store.find? z.slices k = some { sl k with wait := none } := by
  have hp : plans plan s x = s.now.slices.map (fun k => (k, Plan.run (sl k) (fl k) (us k) [] [])) := by
    refine List.map_congr_left ?_
    intro k hk
    rw [h k hk]
  have h1 : (plans plan s x).any (fun p => p.2.isStall) = false := by
    rw [hp]; simp [Plan.isStall]
  have h2 : waitTogether ((plans plan s x).map (fun p => (p.1, p.2.wait?))) = false := by
    rw [hp]
    cases hs : s.now.slices with
    | nil => exact absurd hs hr.gang
    | cons a l => simp [waitTogether, Plan.wait?]
  obtain ⟨z, e1, e2, e3, e4, e5⟩ := foldl_commitPlan s hr.shared sl fl us s.now.slices x hr.nodup
  refine ⟨z, ?_, e2, e3, e4, e5⟩
  unfold issuePlans
  rw [hr.wave]
  simp only [h1, h2, Bool.false_eq_true, if_false]
  rw [hafter _ _ (by rw [hp]; simp), hp, ← e1]
  refine State.foldl_first _ s (fun s' => s.setWave s.now.core s.now.slot x) _ ?_ ?_
  · simpa using hr.gang
  · intro a ha
    obtain ⟨k, _, rfl⟩ := List.mem_map.1 ha
    exact commitPlan_first s x hr.wave _ _ _ _ _ _

/-- The context in which slice k of the issuing gang plans. -/
def State.laneCtx (s : State) (x : Wave) (k : Nat) : Ctx :=
  { core := s.core s.now.core, slot := s.now.slot, wave := x, k, fresh := s.fresh, gang := s.now.slices }

theorem Ready.quiet {s : State} {x : Wave} (hr : Ready s x) {k : Nat} (hk : k ∈ s.now.slices) : (x.slice k).Quiet := by
  obtain ⟨sl, h1, h2⟩ := hr.slices k hk
  rw [Wave.slice_of_find h1]; exact h2

/-- Plans that run in every slice of a ready gang as the driver of lane operations runs them. -/
theorem issuePlans_ran {s : State} {x : Wave} (hr : Ready s x) {plan : Ctx → Slice → Plan}
    {after : List Committed → State → State} (hafter : ∀ l t, (∀ r ∈ l, r.queues = []) → after l t = t) {ps : Nat → List LanePart}
    (h : ∀ k ∈ s.now.slices, ∃ ms ws us, plan (s.laneCtx x k) (x.slice k)
      = .run { (x.slice k).put k (ps k) with pc := (x.slice k).pc.next, marks := ms, windows := ws }
          (allFlags ((ps k).flatMap (fun p => p.raised k))) us [] []) :
    Ran s (issuePlans plan after s) x ps := by
  classical
  choose! ms ws us hp using h
  obtain ⟨z, h1, h2, h3, h4, h5⟩ := issuePlans_run hr plan after hafter _ _ us hp
  exact ⟨z, h1, h2, h3, h4, fun k hk => ⟨ms k, ws k, h5 k hk⟩⟩

/-- A word of lane operations in a ready gang runs in every slice. -/
theorem issueOps_ran {s : State} {x : Wave} (hr : Ready s x) (ops : List LaneOp) (h : ∀ o ∈ ops, o.Clear x) :
    Ran s (issueOps ops s) x (fun _ => ops.map (fun o => o.part (s.laneCtx x) x)) :=
  issuePlans_ran hr (fun l t hl => by
      have : l.flatMap (·.queues) = [] := List.flatMap_eq_nil_iff.2 hl
      simp [commitQueues, this])
    (fun k hk => planSlice_run (x := x) rfl rfl hr.shared (hr.quiet hk) hr.tmask h)

/-! ### One instruction over lanes -/

theorem laneIn_quiet {c : Ctx} {sl : Slice} (hc : c.core.shared = []) (hq : sl.Quiet) (sh : Shape)
    (h : ∀ o ∈ sh.srcs, qNum? o.reg = none) (l : Nat) :
    c.laneIn sl sh l = { lane := l, src := sh.srcs.map (fun o => sl.field o.reg o.wide l), pred := fun n => (sl.pred n).getLsbD l } := by
  have : sh.srcs.zipIdx.map (fun o => c.readRegAt sl o.2 o.1.reg o.1.wide l) = sh.srcs.map (fun o => sl.field o.reg o.wide l) := by
    rw [← List.zipIdx_map_fst 0 sh.srcs, List.map_map, List.zipIdx_map_fst]
    refine List.map_congr_left (fun o ho => ?_)
    exact Ctx.readRegAt_quiet hc hq _ _ _ _ (h o.1 (List.fst_mem_of_mem_zipIdx ho))
  simp [Ctx.laneIn, this]

theorem LanePart.congr {p q : LanePart} (hd : p.d = q.d) {k : Nat} (hl : p.lanes k = q.lanes k) (ho : p.out k = q.out k) :
    p.writes k = q.writes k ∧ p.preds k = q.preds k ∧ p.raised k = q.raised k := by
  obtain ⟨d, ls, o⟩ := p
  obtain ⟨d', ls', o'⟩ := q
  simp only at hd hl ho
  subst hd
  simp [LanePart.writes, LanePart.preds, LanePart.raised, ho, hl]

/-- Parts that answer the same in the issuing gang say the same. -/
theorem Ran.congr {s t : State} {x : Wave} {ps qs : Nat → List LanePart}
    (h : ∀ k ∈ s.now.slices, (ps k).flatMap (fun p => p.writes k) = (qs k).flatMap (fun p => p.writes k)
      ∧ (ps k).flatMap (fun p => p.preds k) = (qs k).flatMap (fun p => p.preds k)
      ∧ (ps k).flatMap (fun p => p.raised k) = (qs k).flatMap (fun p => p.raised k))
    (hr : Ran s t x ps) : Ran s t x qs := by
  obtain ⟨z, h1, h2, h3, h4, h5⟩ := hr
  refine ⟨z, h1, h2, ?_, h4, ?_⟩
  · rw [h3]
    refine List.foldl_ext _ _ _ ?_
    intro e k hk
    rw [(h k hk).2.2]
  · intro k hk
    obtain ⟨ms, ws, e⟩ := h5 k hk
    refine ⟨ms, ws, ?_⟩
    rw [e]
    simp only [Slice.put, (h k hk).1, (h k hk).2.1]

theorem LaneOp.clear_of_fields {x : Wave} {o : LaneOp} (h : x.Fields o.sh.fields) : o.Clear x := by
  have hs : ∀ r ∈ o.sh.srcs, qNum? r.reg = none ∧ ∀ n ∈ vNums r.reg r.wide, n < x.allot := by
    intro r hr
    exact h (r.reg, r.wide) (List.mem_append_right _ (List.mem_map.2 ⟨r, hr, rfl⟩))
  refine ⟨?_, ?_, ?_⟩
  · exact List.filterMap_eq_nil_iff.2 (fun r hr => (hs r hr).1)
  · cases hd : o.sh.d with
    | none => simp [Shape.push?, hd]
    | some p => simpa [Shape.push?, hd] using (h p (List.mem_append_left _ (by simp [hd]))).1
  · intro n hn
    rcases List.mem_append.1 hn with hn | hn
    · obtain ⟨r, hr, hm⟩ := List.mem_flatMap.1 hn
      exact (hs r hr).2 n hm
    · cases hd : o.sh.d with
      | none => simp [hd] at hn
      | some p =>
        obtain ⟨r, w⟩ := p
        rw [hd] at hn
        exact (h (r, w) (List.mem_append_left _ (by simp [hd]))).2 n hn

theorem LaneOp.part_plain {s : State} {x : Wave} (hr : Ready s x) {o : LaneOp} (h : x.Fields o.sh.fields) {k : Nat}
    (hk : k ∈ s.now.slices) : (o.part (s.laneCtx x) x).out k = (o.plain x).out k := by
  funext l
  have h' : ∀ r ∈ o.sh.srcs, qNum? r.reg = none := fun r hr' =>
    (h (r.reg, r.wide) (List.mem_append_right _ (List.mem_map.2 ⟨r, hr', rfl⟩))).1
  show o.f ((s.laneCtx x k).laneIn (x.slice k) o.sh l) = o.f (x.laneRead o.sh k l)
  rw [laneIn_quiet (c := s.laneCtx x k) hr.shared (hr.quiet hk) o.sh h' l]
  rfl

/-- A word of lane operations in a ready gang, from the registers as they stand. -/
theorem issueOps_fields {s : State} {x : Wave} (hr : Ready s x) (ops : List LaneOp) (h : ∀ o ∈ ops, x.Fields o.sh.fields) :
    Ran s (issueOps ops s) x (fun _ => ops.map (fun o => o.plain x)) := by
  refine Ran.congr ?_ (issueOps_ran hr ops (fun o h' => LaneOp.clear_of_fields (h o h')))
  intro k hk
  have key := fun o (h' : o ∈ ops) => LanePart.congr (p := o.part (s.laneCtx x) x) (q := o.plain x) rfl (k := k) rfl
    (LaneOp.part_plain hr (h o h') hk)
  simp only [List.flatMap_map]
  exact ⟨List.flatMap_congr (fun o h' => (key o h').1), List.flatMap_congr (fun o h' => (key o h').2.1),
    List.flatMap_congr (fun o h' => (key o h').2.2)⟩

/-- A lane operation on every executing lane is a part with its guard. -/
theorem LaneOp.plain_part (o : LaneOp) (ho : o.sh.only = none) (x : Wave) :
    o.plain x = x.part o.sh.g o.sh.d (fun k l => o.f (x.laneRead o.sh k l)) := by
  simp [LaneOp.plain, Wave.part, LaneOp.lanes_worked ho]

/-- One lane operation in a ready gang. -/
theorem issueLane_ran {s : State} {x : Wave} (hr : Ready s x) (sh : Shape) (f : LaneIn → LaneOut) (ho : sh.only = none)
    (h : x.Fields sh.fields) :
    Ran s (issueLane sh f s) x (fun _ => [x.part sh.g sh.d (fun k l => f (x.laneRead sh k l))]) := by
  have := issueOps_fields hr [{ sh, f }] (by simpa using h)
  rw [List.map_singleton, LaneOp.plain_part { sh, f } ho] at this
  exact this

/-! ### Cross-lane instructions -/

theorem planCross_run {w : Nat} {sh : Shape} {f : Ctx → LaneIn → LaneOut} {s : State} {x : Wave} {k : Nat} (hr : Ready s x)
    (hk : k ∈ s.now.slices) (h : x.Fields sh.fields) (hm : Together s x w) :
    ∃ ms ws us, planCross w sh f (s.laneCtx x k) (x.slice k)
      = .run { (x.slice k).put k [LaneOp.part { sh, f := f (s.laneCtx x k) } (s.laneCtx x) x] with
                pc := (x.slice k).pc.next, marks := ms, windows := ws }
          (allFlags (([LaneOp.part { sh, f := f (s.laneCtx x k) } (s.laneCtx x) x]).flatMap (fun p => p.raised k))) us [] [] := by
  have hcl : ∀ o ∈ [({ sh, f := f (s.laneCtx x k) } : LaneOp)], o.Clear x := by
    intro o ho
    rw [List.mem_singleton.1 ho]
    exact LaneOp.clear_of_fields h
  obtain ⟨ms, ws, us, e⟩ := planSlice_run (x := x) (c := s.laneCtx x) (k := k) rfl rfl hr.shared (hr.quiet hk) hr.tmask hcl
  have hall : ((s.laneCtx x k).wave.meets w (s.laneCtx x k).k).all (fun j => (s.laneCtx x k).gang.contains j) = true := by
    rw [List.all_eq_true]
    intro j hj
    exact List.contains_iff_mem.2 (hm k hk j hj)
  unfold planCross
  simp only [planChecks_clear (x := s.laneCtx x k) (x.slice k) hcl, (hr.quiet hk).blocked, Bool.false_eq_true, if_false, hall, if_true]
  rw [e]
  exact ⟨_, _, _, rfl⟩

/-- A cross-lane instruction in a ready gang that holds its segments. -/
theorem issueCross_ran {w : Nat} {sh : Shape} {f : Ctx → LaneIn → LaneOut} {s : State} {x : Wave} (hr : Ready s x)
    (ho : sh.only = none) (h : x.Fields sh.fields) (hm : Together s x w) :
    Ran s (issuePlans (planCross w sh f) (fun _ s => s) s) x
      (fun _ => [x.part sh.g sh.d (fun k l => f (s.laneCtx x k) (x.laneRead sh k l))]) := by
  refine Ran.congr ?_ (issuePlans_ran hr (ps := fun k => [LaneOp.part { sh, f := f (s.laneCtx x k) } (s.laneCtx x) x])
    (fun _ _ _ => rfl) (fun k hk => planCross_run hr hk h hm))
  intro k hk
  have hp := LaneOp.part_plain hr (o := { sh, f := f (s.laneCtx x k) }) h hk
  obtain ⟨h1, h2, h3⟩ := LanePart.congr (p := LaneOp.part { sh, f := f (s.laneCtx x k) } (s.laneCtx x) x)
    (q := x.part sh.g sh.d (fun k l => f (s.laneCtx x k) (x.laneRead sh k l))) rfl (k := k)
    (LaneOp.lanes_worked (o := { sh, f := f (s.laneCtx x k) }) ho _) (by rw [hp]; rfl)
  simp only [List.flatMap_singleton]
  exact ⟨h1, h2, h3⟩

/-- What a cross-lane instruction reads of a wave whose slices are quiet. -/
theorem laneVal_quiet {s : State} {x : Wave} (hr : Ready s x) (hq : ∀ k, (x.slice k).Quiet) (k : Nat) (n : BitVec 7) (wide : Bool)
    (lane : Nat) : (s.laneCtx x k).laneVal n.toNat wide lane = x.vlane n wide lane := by
  unfold Ctx.laneVal Wave.vlane
  rw [BitVec.ofNat_toNat, BitVec.setWidth_eq]
  exact Ctx.readReg_quiet (x := (s.laneCtx x k).at_ (lane / 4)) hr.shared (hq _) _ _ _ rfl

end Sys2Proof.Machine
end

