-- ==== Sys2Proof/Laws/Acts.lean ====
section
/-!
SUPPORT. What the driver of instructions that act slice by slice can do: in a ready gang whose slices all go on, each takes its
effect in turn.
-/

namespace Sys2Proof.Machine

theorem Slice.Quiet.noWindows {sl : Slice} (h : sl.Quiet) : { sl with windows := [] } = sl := by
  have := h.windows
  cases sl
  simp_all

theorem Slice.Quiet.atEdge {sl : Slice} (h : sl.Quiet) (edge : Bool) : sl.atEdge edge = sl := by
  cases edge with
  | false => rfl
  | true => exact h.noWindows

/-- A gang of one slice takes one place of a counter. -/
theorem Ctx.counterFull_one {x : Ctx} {k : Nat} (h : x.gang = [k]) (path : Nat) (g : Option Guard) :
    x.counterFull path g = decide (255 ≤ x.wave.counter path) := by
  have h1 : max 1 (x.issuers g) = 1 := by
    have : x.issuers g ≤ 1 := by
      rw [Ctx.issuers, h]
      exact List.length_filter_le _ _
    omega
  rw [Ctx.counterFull, h1]
  exact decide_eq_decide.2 (by omega)

/-- A core that shares no register takes no use. -/
theorem State.shareNow_none {s : State} (h : (s.core s.now.core).shared = []) (us : List (Nat × Nat × ShareUse)) : s.shareNow us = s := by
  simp [State.shareNow, h]

/-- Every slice's plan goes on. -/
theorem issueActs_go {s : State} {x : Wave} (hr : Ready s x) {plan : State → Ctx → Slice → Act} {f : Nat → State → State}
    (h : ∀ k ∈ s.now.slices, plan s (s.laneCtx x k) (x.slice k) = .go (f k)) :
    issueActs plan s = s.now.slices.foldl (fun t k => f k t) s := by
  have hp : s.now.slices.map (fun k => (k, plan s (s.ctx x k) (x.slice k))) = s.now.slices.map (fun k => (k, Act.go (f k))) :=
    List.map_congr_left (fun k hk => by rw [show s.ctx x k = s.laneCtx x k from rfl, h k hk])
  have h2 : waitTogether ((s.now.slices.map (fun k => (k, Act.go (f k)))).map (fun a => (a.1, a.2.wait?))) = false := by
    cases hs : s.now.slices with
    | nil => exact absurd hs hr.gang
    | cons a l => simp [waitTogether, Act.wait?]
  unfold issueActs
  rw [hr.wave]
  simp only [hp, h2, Bool.false_eq_true, if_false]
  rw [if_neg (by simp [Act.isStall]), List.foldl_map]
  rfl

/-- Operands of a ready gang need no wait. -/
theorem operandCheck_clear {s : State} {x : Wave} (hr : Ready s x) {k : Nat} (hk : k ∈ s.now.slices) {sh : Shape} {edge : Bool}
    {lanes : List Nat} (h : x.Fields sh.fields) (he : edge = true → Edged s x) :
    operandCheck sh edge (s.laneCtx x k) (x.slice k) lanes = none := by
  have hc : planChecks [({ sh, f := fun _ => {} } : LaneOp)] (s.laneCtx x k) (x.slice k) = none := by
    refine planChecks_clear _ ?_
    intro o ho
    rw [List.mem_singleton.1 ho]
    exact LaneOp.clear_of_fields h
  unfold operandCheck
  rw [hc]
  simp only [(hr.quiet hk).blocked, (hr.quiet hk).out, List.isEmpty_nil, Bool.not_true, Bool.and_false, Bool.or_false,
    Bool.false_eq_true, if_false]
  cases edge with
  | false => rfl
  | true =>
    obtain ⟨h1, h2⟩ := he rfl k hk
    have h2' : (s.laneCtx x k).core.uncommitted (s.laneCtx x k).slot (s.laneCtx x k).k = false := h2
    simp [h1, h2']

/-- The same of an instruction that is no region edge, in a slice that awaits nothing, whatever its core shares. -/
theorem operandCheck_quiet {s : State} {x : Wave} {k : Nat} (hq : (x.slice k).Quiet) {sh : Shape} {lanes : List Nat}
    (h : x.Fields sh.fields) : operandCheck sh false (s.laneCtx x k) (x.slice k) lanes = none := by
  have hc : planChecks [({ sh, f := fun _ => {} } : LaneOp)] (s.laneCtx x k) (x.slice k) = none := by
    refine planChecks_clear _ ?_
    intro o ho
    rw [List.mem_singleton.1 ho]
    exact LaneOp.clear_of_fields h
  unfold operandCheck
  rw [hc]
  simp only [hq.blocked, Bool.false_and, Bool.or_self, Bool.false_eq_true, if_false]

/-- A control or system instruction in a ready gang. -/
theorem planControl_go {s : State} {x : Wave} (hr : Ready s x) {k : Nat} (hk : k ∈ s.now.slices) {sh : Shape} {edge : Bool}
    {go : Ctx → Slice → List Nat → Act} (h : x.Fields sh.fields) (he : edge = true → Edged s x) :
    planControl sh edge go s (s.laneCtx x k) (x.slice k) = go (s.laneCtx x k) (x.slice k) (x.lanes sh.g k) := by
  unfold planControl
  have hw : (x.slice k).windowPending = false := by simp [Slice.windowPending, (hr.quiet hk).out]
  rw [hw]
  simp only [Bool.false_eq_true, if_false, (hr.quiet hk).noWindows]
  rw [operandCheck_clear hr hk h (fun e => he (by cases edge <;> simp_all))]
  rfl

end Sys2Proof.Machine
end

