-- ==== Sys2Proof/Laws/Coding.lean ====
section
/-!
SUPPORT. Fields of words: what stands where in a word built from fields, the field codes there and back, and every layout's
fields read from the layout they are written in.
-/

namespace Sys2Proof

/-! ### A part of a concatenation -/

theorem extract_high {n m : Nat} (x : BitVec n) (y : BitVec m) {s k : Nat} (h : m ≤ s) :
    (x ++ y).extractLsb' s k = x.extractLsb' (s - m) k := by
  ext i hi
  simp only [BitVec.getElem_extractLsb', BitVec.getLsbD_append]
  rw [if_neg (by omega)]
  congr 1
  omega
theorem extract_low {n m : Nat} (x : BitVec n) (y : BitVec m) {s k : Nat} (h : s + k ≤ m) :
    (x ++ y).extractLsb' s k = y.extractLsb' s k := by
  ext i hi
  simp only [BitVec.getElem_extractLsb', BitVec.getLsbD_append]
  rw [if_pos (by omega)]
@[simp] theorem extract_all {n : Nat} (x : BitVec n) : x.extractLsb' 0 n = x := by simp
theorem bit_high {n m : Nat} (x : BitVec n) (y : BitVec m) {s : Nat} (h : m ≤ s) : (x ++ y).getLsbD s = x.getLsbD (s - m) := by
  rw [BitVec.getLsbD_append, if_neg (by omega)]
theorem bit_low {n m : Nat} (x : BitVec n) (y : BitVec m) {s : Nat} (h : s < m) : (x ++ y).getLsbD s = y.getLsbD s := by
  rw [BitVec.getLsbD_append, if_pos (by omega)]
@[simp] theorem bit_bit (b : Bool) : (bit b)[0] = b := by cases b <;> rfl
@[simp] theorem two_zeros (b : Bool) : (bit b ++ bit false ++ bit false).extractLsb' 0 2 = 0#2 := by cases b <;> rfl
@[simp] theorem plain_mods {n : Nat} (x : BitVec n) : (x ++ Rnd.rne.code ++ bit false).extractLsb' 0 3 = 0#3 := by
  ext i hi
  simp only [BitVec.getElem_extractLsb', BitVec.getLsbD_append]
  obtain rfl | rfl | rfl : i = 0 ∨ i = 1 ∨ i = 2 := by omega
  all_goals simp [Rnd.code, bit]

/-! ### Words -/

theorem RawA.ofWord_toWord (r : RawA) : RawA.ofWord r.toWord = r := by
  obtain ⟨op, guarded, pred, neg, look, d, a, b, c, low⟩ := r
  simp (disch := decide) only [RawA.ofWord, RawA.toWord, extract_high, extract_low, extract_all]
  simp only [Nat.reduceSub, extract_all]

theorem RawB.ofWord_toWord (r : RawB) : RawB.ofWord r.toWord = r := by
  obtain ⟨op, guarded, pred, neg, look, d, a, imm⟩ := r
  simp (disch := decide) only [RawB.ofWord, RawB.toWord, extract_high, extract_low, extract_all]
  simp only [Nat.reduceSub, extract_all]

theorem RawHalf.ofBits_toBits (r : RawHalf) : RawHalf.ofBits r.toBits = r := by
  obtain ⟨op, ⟨first, second, pred, neg, tym, last⟩⟩ := r
  simp (disch := decide) only [RawHalf.ofBits, RawHalf.toBits, extract_high, extract_low, bit_high, bit_low]
  simp only [Nat.reduceSub, extract_all, BitVec.getLsbD_ofBool, decide_true, Bool.true_and]

theorem RawA.form (r : RawA) : r.toWord.extractLsb' 62 2 = 0#2 := by
  simp (disch := decide) only [RawA.toWord, extract_high]; rfl
theorem RawB.form (r : RawB) : r.toWord.extractLsb' 62 2 = 1#2 := by
  simp (disch := decide) only [RawB.toWord, extract_high]; rfl
theorem dualToWord_form (x y : RawHalf) : (dualToWord x y).extractLsb' 62 2 = 2#2 := by
  simp (disch := decide) only [dualToWord, extract_high]; rfl
theorem dualToWord_x (x y : RawHalf) : (dualToWord x y).extractLsb' 31 31 = x.toBits := by
  simp (disch := decide) only [dualToWord, extract_high, extract_low]
  exact extract_all _
theorem dualToWord_y (x y : RawHalf) : (dualToWord x y).extractLsb' 0 31 = y.toBits := by
  simp (disch := decide) only [dualToWord, extract_low]
  exact extract_all _

/-! ### Field codes there and back -/

@[simp] theorem guardOf_fields (g : Option Guard) : guardOf (guardedBit g) (guardPred g) (guardNeg g) = some g := by
  rcases g with _ | ⟨p, n⟩
  · rfl
  · cases n <;> simp [guardOf, guardedBit, guardPred, guardNeg, bit]
@[simp] theorem Reg.ofCode_code (r : Reg) : Reg.ofCode r.code = some r := by
  cases r with
  | v n => revert n; decide
  | s n => revert n; decide
  | q n => revert n; decide
@[simp] theorem vOfCode_code : ∀ n, vOfCode (vCode n) = some n := by decide
@[simp] theorem sOfCode_code : ∀ n, sOfCode (sCode n) = some n := by decide
@[simp] theorem pairOfCode_code : ∀ n, pairOfCode (pairCode n) = some n := by decide
@[simp] theorem quadOfCode_code : ∀ n, quadOfCode (quadCode n) = some n := by decide
@[simp] theorem octOfCode_code : ∀ n, octOfCode (octCode n) = some n := by decide
@[simp] theorem pOfCode_code : ∀ n, pOfCode (pCode n) = some n := by decide
@[simp] theorem tileOfCode_code : ∀ n, tileOfCode (tileCode n) = some n := by decide
@[simp] theorem slotOfCode_code : ∀ n, slotOfCode (slotCode n) = some n := by decide
@[simp] theorem blockOf_code (b : Bool) : blockOf (blockCode b) = some b := by cases b <;> rfl
@[simp] theorem vOfCode_pair : ∀ n, vOfCode (pairCode n) = none := by decide
@[simp] theorem pairCode_ne : ∀ n, ¬ pairCode n = 0#8 := by decide
@[simp] theorem qCode_kind : ∀ n, (qCode n).extractLsb' 3 5 = 28#5 := by decide
@[simp] theorem qCode_num : ∀ n, (qCode n).extractLsb' 0 3 = n := by decide
@[simp] theorem optRegOf_code (r : Option Reg) : optRegOf r.isSome (optRegCode r) = some r := by
  cases r with
  | none => rfl
  | some r => simp [optRegOf, optRegCode, Reg.ofCode_code]
@[simp] theorem Ty.ofCode_code (t : Ty) : Ty.ofCode t.code = some t := by cases t <;> rfl
@[simp] theorem Rnd.ofCode_code (t : Rnd) : Rnd.ofCode t.code = t := by cases t <;> rfl
@[simp] theorem Scope.ofCode_code (t : Scope) : Scope.ofCode t.code = some t := by cases t <;> rfl
@[simp] theorem Scope.code_ne (t : Scope) : t.code ≠ 6#3 := by cases t <;> decide
@[simp] theorem Cond.ofCode_code (t : Cond) : Cond.ofCode t.code = some t := by cases t <;> rfl
@[simp] theorem MonCond.ofCode_code (t : MonCond) : MonCond.ofCode t.code = some t := by cases t <;> rfl
@[simp] theorem FCond.ofCode_code (t : FCond) : FCond.ofCode t.code = t := by cases t <;> rfl
@[simp] theorem Space.ofCode_code (t : Space) : Space.ofCode t.code[0] = t := by cases t <;> rfl
@[simp] theorem POp.ofCode_code (t : POp) : POp.ofCode t.code = some t := by cases t <;> rfl
@[simp] theorem VoteMode.ofCode_code (t : VoteMode) : VoteMode.ofCode t.code = some t := by cases t <;> rfl
@[simp] theorem QDir.ofCode_code (t : QDir) : QDir.ofCode t.code = some t := by cases t <;> rfl
@[simp] theorem AtomKind.ofCode_code (t : AtomKind) : AtomKind.ofCode t.code = t := by cases t <;> rfl
@[simp] theorem AtomTy.ofCode_code (t : AtomTy) : AtomTy.ofCode t.code = t := by cases t <;> rfl
@[simp] theorem RedKind.ofCode_code (t : RedKind) : RedKind.ofCode t.code = some t := by cases t <;> rfl
@[simp] theorem FenceKind.ofCode_code (t : FenceKind) : FenceKind.ofCode t.code = some t := by cases t <;> rfl
@[simp] theorem MonTy.ofCode_code (t : MonTy) : MonTy.ofCode t.code = t := by cases t <;> rfl
@[simp] theorem MFmt.ofCode_code (t : MFmt) : MFmt.ofCode t.code = some t := by cases t <;> rfl
@[simp] theorem AccTy.ofCode_code (t : AccTy) : AccTy.ofCode t.code = some t := by cases t <;> rfl
@[simp] theorem DrainTarget.ofCode_code (t : DrainTarget) : DrainTarget.ofCode t.code = some t := by cases t <;> rfl
@[simp] theorem ObjKind.ofCode_code (t : ObjKind) : ObjKind.ofCode t.code = some t := by cases t <;> rfl
@[simp] theorem GcondKind.ofCode_code (t : GcondKind) : GcondKind.ofCode t.code = t := by cases t <;> rfl
@[simp] theorem DualOp.ofCode_code (t : DualOp) : DualOp.ofCode t.code = some t := by cases t <;> rfl
@[simp] theorem MemberSel.ofCode_code (t : MemberSel) : MemberSel.ofCode t.code = some t := by
  cases t with
  | handle => rfl
  | barrier => rfl
  | monitor c sg sc => cases c <;> cases sg <;> cases sc <;> rfl

/-! ### Layouts there and back -/

@[simp] theorem Alu1.ofRaw_toRaw (op : BitVec 8) (o : Alu1) : Alu1.ofRaw (o.toRaw op) = some o := by
  simp (disch := decide) only [Alu1.ofRaw, Alu1.toRaw, rawA, modLow, RawA.guard, extract_high, extract_low, bit_high, bit_low]
  simp [need]
@[simp] theorem Alu2.ofRaw_toRaw (op : BitVec 8) (o : Alu2) : Alu2.ofRaw (o.toRaw op) = some o := by
  simp (disch := decide) only [Alu2.ofRaw, Alu2.toRaw, rawA, modLow, RawA.guard, extract_high, extract_low, bit_high, bit_low]
  simp [need]
@[simp] theorem Alu3.ofRaw_toRaw (op : BitVec 8) (o : Alu3) : Alu3.ofRaw (o.toRaw op) = some o := by
  simp (disch := decide) only [Alu3.ofRaw, Alu3.toRaw, rawA, modLow, RawA.guard, extract_high, extract_low, bit_high, bit_low]
  simp
@[simp] theorem BfeOp.ofRaw_toRaw (op : BitVec 8) (o : BfeOp) : BfeOp.ofRaw (o.toRaw op) = some o := by
  simp (disch := decide) only [BfeOp.ofRaw, BfeOp.toRaw, rawA, RawA.guard, extract_low, bit_high, bit_low]
  simp [need]
@[simp] theorem IcmpOp.ofRaw_toRaw (op : BitVec 8) (o : IcmpOp) : IcmpOp.ofRaw (o.toRaw op) = some o := by
  simp (disch := decide) only [IcmpOp.ofRaw, IcmpOp.toRaw, rawA, RawA.guard, extract_high, extract_low, bit_high, bit_low]
  simp [need]
@[simp] theorem PickOp.ofRaw_toRaw (op : BitVec 8) (o : PickOp) : PickOp.ofRaw (o.toRaw op) = some o := by
  simp (disch := decide) only [PickOp.ofRaw, PickOp.toRaw, rawA, modLow, RawA.guard, extract_high, extract_low, bit_high, bit_low]
  simp [need]
@[simp] theorem MovxOp.ofRaw_toRaw (op : BitVec 8) (o : MovxOp) : MovxOp.ofRaw (o.toRaw op) = some o := by
  obtain ⟨g, dir, idx, off⟩ := o
  rcases dir with _ | _ <;> simp (disch := decide) only [MovxOp.ofRaw, MovxOp.toRaw, rawA, RawA.guard, extract_high, extract_low, bit_low] <;>
    simp [need]
@[simp] theorem ShmapOp.ofRaw_toRaw (op : BitVec 8) (o : ShmapOp) : ShmapOp.ofRaw (o.toRaw op) = some o := by
  simp (disch := decide) only [ShmapOp.ofRaw, ShmapOp.toRaw, rawA, RawA.guard, extract_high, extract_low]
  simp [need]
@[simp] theorem QcfgOp.ofRaw_toRaw (op : BitVec 8) (o : QcfgOp) : QcfgOp.ofRaw (o.toRaw op) = some o := by
  simp (disch := decide) only [QcfgOp.ofRaw, QcfgOp.toRaw, rawA, RawA.guard, extract_high, extract_low, bit_high, bit_low]
  simp [need]
@[simp] theorem LeaOp.ofRaw_toRaw (op : BitVec 8) (o : LeaOp) : LeaOp.ofRaw (o.toRaw op) = some o := by
  simp (disch := decide) only [LeaOp.ofRaw, LeaOp.toRaw, rawA, RawA.guard, extract_high, extract_low, bit_high, bit_low]
  simp [need]
@[simp] theorem FcmpOp.ofRaw_toRaw (op : BitVec 8) (o : FcmpOp) : FcmpOp.ofRaw (o.toRaw op) = some o := by
  simp (disch := decide) only [FcmpOp.ofRaw, FcmpOp.toRaw, rawA, RawA.guard, extract_high, extract_low, bit_high, bit_low]
  simp [need]
@[simp] theorem FclassOp.ofRaw_toRaw (op : BitVec 8) (o : FclassOp) : FclassOp.ofRaw (o.toRaw op) = some o := by
  simp (disch := decide) only [FclassOp.ofRaw, FclassOp.toRaw, rawA, RawA.guard, extract_high, extract_low, bit_high, bit_low]
  simp [need]
@[simp] theorem FrndOp.ofRaw_toRaw (op : BitVec 8) (o : FrndOp) : FrndOp.ofRaw (o.toRaw op) = some o := by
  simp (disch := decide) only [FrndOp.ofRaw, FrndOp.toRaw, rawA, RawA.guard, extract_high, extract_low, bit_high, bit_low]
  simp [need]
@[simp] theorem CvtOp.ofRaw_toRaw (op : BitVec 8) (o : CvtOp) (hb : o.b.isSome = decide (2 ≤ cvtReads o.code.toNat))
    (hc : o.c.isSome = decide (cvtReads o.code.toNat = 3)) : CvtOp.ofRaw (o.toRaw op) = some o := by
  simp (disch := decide) only [CvtOp.ofRaw, CvtOp.toRaw, rawA, RawA.guard, extract_high, extract_low, bit_high, bit_low]
  simp [need]
  rw [← hb, ← hc]
  simp

@[simp] theorem ShflOp.ofRaw_toRaw (op : BitVec 8) (o : ShflOp) : ShflOp.ofRaw (o.toRaw op) = some o := by
  simp (disch := decide) only [ShflOp.ofRaw, ShflOp.toRaw, rawA, RawA.guard, extract_high, extract_low, bit_high, bit_low]
  simp [need]
@[simp] theorem VoteOp.ofRaw_toRaw (op : BitVec 8) (o : VoteOp) : VoteOp.ofRaw (o.toRaw op) = some o := by
  simp (disch := decide) only [VoteOp.ofRaw, VoteOp.toRaw, rawA, RawA.guard, extract_high, extract_low]
  simp [need]
@[simp] theorem BallotOp.ofRaw_toRaw (op : BitVec 8) (o : BallotOp) : BallotOp.ofRaw (o.toRaw op) = some o := by
  simp (disch := decide) only [BallotOp.ofRaw, BallotOp.toRaw, rawA, modLow, RawA.guard]
  simp [need]
@[simp] theorem LaneRedOp.ofRaw_toRaw (op : BitVec 8) (o : LaneRedOp) : LaneRedOp.ofRaw (o.toRaw op) = some o := by
  simp (disch := decide) only [LaneRedOp.ofRaw, LaneRedOp.toRaw, rawA, RawA.guard, extract_high, extract_low, bit_high]
  simp [need]
@[simp] theorem RdlaneOp.ofRaw_toRaw (op : BitVec 8) (o : RdlaneOp) : RdlaneOp.ofRaw (o.toRaw op) = some o := by
  obtain ⟨g, d, a, aLast, b, ty⟩ := o
  rcases b with _ | _ <;> simp (disch := decide) only [RdlaneOp.ofRaw, RdlaneOp.toRaw, rawA, RawA.guard, extract_high, extract_low, bit_high, bit_low] <;>
    simp [need]
@[simp] theorem PcombOp.ofRaw_toRaw (op : BitVec 8) (o : PcombOp) : PcombOp.ofRaw (o.toRaw op) = some o := by
  simp (disch := decide) only [PcombOp.ofRaw, PcombOp.toRaw, rawA, RawA.guard, extract_high, extract_low, bit_high, bit_low]
  simp [need]
@[simp] theorem P2sOp.ofRaw_toRaw (op : BitVec 8) (o : P2sOp) : P2sOp.ofRaw (o.toRaw op) = some o := by
  simp (disch := decide) only [P2sOp.ofRaw, P2sOp.toRaw, rawA, RawA.guard]
  simp [need]
@[simp] theorem S2pOp.ofRaw_toRaw (op : BitVec 8) (o : S2pOp) : S2pOp.ofRaw (o.toRaw op) = some o := by
  simp (disch := decide) only [S2pOp.ofRaw, S2pOp.toRaw, rawA, RawA.guard]
  simp [need]
@[simp] theorem BrxOp.ofRaw_toRaw (op : BitVec 8) (o : BrxOp) : BrxOp.ofRaw (o.toRaw op) = some o := by
  simp (disch := decide) only [BrxOp.ofRaw, BrxOp.toRaw, rawA, RawA.guard, extract_low, bit_high]
  simp [need]
@[simp] theorem S1Op.ofRaw_toRaw (op : BitVec 8) (o : S1Op) : S1Op.ofRaw (o.toRaw op) = some o := by
  simp (disch := decide) only [S1Op.ofRaw, S1Op.toRaw, rawA, RawA.guard, extract_low, bit_high]
  simp [need]
@[simp] theorem AluI.ofRaw_toRaw (op : BitVec 8) (o : AluI) : AluI.ofRaw (o.toRaw op) = some o := by
  simp (disch := decide) only [AluI.ofRaw, AluI.toRaw, rawB, RawB.guard]
  simp [need]
@[simp] theorem MovI.ofRaw_toRaw (op : BitVec 8) (o : MovI) : MovI.ofRaw (o.toRaw op) = some o := by
  simp (disch := decide) only [MovI.ofRaw, MovI.toRaw, rawB, RawB.guard]
  simp [need]
@[simp] theorem BraOp.ofRaw_toRaw (op : BitVec 8) (o : BraOp) : BraOp.ofRaw (o.toRaw op) = some o := by
  simp (disch := decide) only [BraOp.ofRaw, BraOp.toRaw, rawB, RawB.guard, extract_high, extract_low, bit_high, bit_low]
  simp [need]
@[simp] theorem CallOp.ofRaw_toRaw (op : BitVec 8) (o : CallOp) : CallOp.ofRaw (o.toRaw op) = some o := by
  simp (disch := decide) only [CallOp.ofRaw, CallOp.toRaw, rawB, RawB.guard, extract_high, extract_low]
  simp [need]
@[simp] theorem RegangOp.ofRaw_toRaw (op : BitVec 8) (o : RegangOp) : RegangOp.ofRaw (o.toRaw op) = some o := by
  simp (disch := decide) only [RegangOp.ofRaw, RegangOp.toRaw, rawB, RawB.guard, extract_high, extract_low]
  simp [need]
@[simp] theorem JmpfOp.ofRaw_toRaw (op : BitVec 8) (o : JmpfOp) : JmpfOp.ofRaw (o.toRaw op) = some o := by
  simp (disch := decide) only [JmpfOp.ofRaw, JmpfOp.toRaw, rawB, RawB.guard, extract_high, extract_low]
  simp [need]
@[simp] theorem CfetchOp.ofRaw_toRaw (op : BitVec 8) (o : CfetchOp) : CfetchOp.ofRaw (o.toRaw op) = some o := by
  simp (disch := decide) only [CfetchOp.ofRaw, CfetchOp.toRaw, rawB, RawB.guard, extract_high, extract_low]
  simp [need]
@[simp] theorem Imm16Op.ofRaw_toRaw (op : BitVec 8) (o : Imm16Op) : Imm16Op.ofRaw (o.toRaw op) = some o := by
  simp (disch := decide) only [Imm16Op.ofRaw, Imm16Op.toRaw, rawB, RawB.guard, extract_high, extract_low]
  simp [need]
@[simp] theorem SvcOp.ofRaw_toRaw (op : BitVec 8) (o : SvcOp) : SvcOp.ofRaw (o.toRaw op) = some o := by
  simp (disch := decide) only [SvcOp.ofRaw, SvcOp.toRaw, rawB, RawB.guard, extract_high, extract_low]
  simp [need]
@[simp] theorem RsrOp.ofRaw_toRaw (op : BitVec 8) (o : RsrOp) : RsrOp.ofRaw (o.toRaw op) = some o := by
  obtain ⟨g, d, num⟩ := o
  rcases d with _ | _ <;> simp (disch := decide) only [RsrOp.ofRaw, RsrOp.toRaw, rawB, RawB.guard, extract_high, extract_low] <;>
    simp [need, RsrDst.code]
@[simp] theorem WsrOp.ofRaw_toRaw (op : BitVec 8) (o : WsrOp) : WsrOp.ofRaw (o.toRaw op) = some o := by
  simp (disch := decide) only [WsrOp.ofRaw, WsrOp.toRaw, rawB, RawB.guard, extract_high, extract_low]
  simp [need]
@[simp] theorem MemOp.ofRaw_toRaw (op : BitVec 8) (o : MemOp) : MemOp.ofRaw (o.toRaw op) = some o := by
  simp (disch := decide) only [MemOp.ofRaw, MemOp.toRaw, rawB, RawB.guard, extract_high, extract_low]
  simp
@[simp] theorem PrefOp.ofRaw_toRaw (op : BitVec 8) (o : PrefOp) : PrefOp.ofRaw (o.toRaw op) = some o := by
  simp (disch := decide) only [PrefOp.ofRaw, PrefOp.toRaw, rawB, RawB.guard, extract_high, extract_low]
  simp [need]
@[simp] theorem AtomOp.ofRaw_toRaw (op : BitVec 8) (o : AtomOp) (hc : o.c.isSome = (o.kind == .cas)) : AtomOp.ofRaw (o.toRaw op) = some o := by
  simp (disch := decide) only [AtomOp.ofRaw, AtomOp.toRaw, rawA, RawA.guard, extract_high, extract_low, bit_high, bit_low]
  simp [need]
  rw [← hc]
  simp

@[simp] theorem RedMOp.ofRaw_toRaw (op : BitVec 8) (o : RedMOp) : RedMOp.ofRaw (o.toRaw op) = some o := by
  simp (disch := decide) only [RedMOp.ofRaw, RedMOp.toRaw, rawA, RawA.guard, extract_high, extract_low, bit_high]
  simp [need]
@[simp] theorem FenceOp.ofRaw_toRaw (op : BitVec 8) (o : FenceOp) : FenceOp.ofRaw (o.toRaw op) = some o := by
  simp (disch := decide) only [FenceOp.ofRaw, FenceOp.toRaw, rawA, RawA.guard, extract_high, extract_low]
  simp [need]
@[simp] theorem FenceMOp.ofRaw_toRaw (op : BitVec 8) (o : FenceMOp) : FenceMOp.ofRaw (o.toRaw op) = some o := by
  simp (disch := decide) only [FenceMOp.ofRaw, FenceMOp.toRaw, rawA, RawA.guard, extract_high, extract_low]
  simp [need]
@[simp] theorem WaitcmpOp.ofRaw_toRaw (op : BitVec 8) (o : WaitcmpOp) : WaitcmpOp.ofRaw (o.toRaw op) = some o := by
  simp (disch := decide) only [WaitcmpOp.ofRaw, WaitcmpOp.toRaw, rawA, RawA.guard, extract_high, extract_low, bit_high, bit_low]
  simp [need]
@[simp] theorem WaitcOp.ofRaw_toRaw (op : BitVec 8) (o : WaitcOp) : WaitcOp.ofRaw (o.toRaw op) = some o := by
  simp (disch := decide) only [WaitcOp.ofRaw, WaitcOp.toRaw, rawA, RawA.guard, extract_high, extract_low, bit_high]
  simp [need]
@[simp] theorem BinitOp.ofRaw_toRaw (op : BitVec 8) (o : BinitOp) : BinitOp.ofRaw (o.toRaw op) = some o := by
  simp (disch := decide) only [BinitOp.ofRaw, BinitOp.toRaw, rawA, RawA.guard, extract_low, bit_high, bit_low]
  simp [need]
@[simp] theorem BarOp.ofRaw_toRaw (op : BitVec 8) (o : BarOp) : BarOp.ofRaw (o.toRaw op) = some o := by
  simp (disch := decide) only [BarOp.ofRaw, BarOp.toRaw, rawA, RawA.guard, extract_high, extract_low]
  simp [need]
@[simp] theorem XstatOp.ofRaw_toRaw (op : BitVec 8) (o : XstatOp) : XstatOp.ofRaw (o.toRaw op) = some o := by
  simp (disch := decide) only [XstatOp.ofRaw, XstatOp.toRaw, rawA, RawA.guard, extract_low, bit_high]
  simp [need]
@[simp] theorem ObresOp.ofRaw_toRaw (op : BitVec 8) (o : ObresOp) : ObresOp.ofRaw (o.toRaw op) = some o := by
  simp (disch := decide) only [ObresOp.ofRaw, ObresOp.toRaw, rawA, RawA.guard, extract_high, extract_low, bit_high, bit_low]
  simp [need]
@[simp] theorem WldOp.ofRaw_toRaw (op : BitVec 8) (o : WldOp) : WldOp.ofRaw (o.toRaw op) = some o := by
  simp (disch := decide) only [WldOp.ofRaw, WldOp.toRaw, rawA, RawA.guard, extract_high, extract_low, bit_high, bit_low]
  simp [need]
@[simp] theorem MmaOp.ofRaw_toRaw (op : BitVec 8) (o : MmaOp) : MmaOp.ofRaw (o.toRaw op) = some o := by
  simp (disch := decide) only [MmaOp.ofRaw, MmaOp.toRaw, rawA, RawA.guard, extract_high, extract_low, bit_high, bit_low]
  simp [need]
@[simp] theorem TileOp.ofRaw_toRaw (op : BitVec 8) (o : TileOp) : TileOp.ofRaw (o.toRaw op) = some o := by
  simp (disch := decide) only [TileOp.ofRaw, TileOp.toRaw, rawA, RawA.guard]
  simp [need]
@[simp] theorem ObrelOp.ofRaw_toRaw (op : BitVec 8) (o : ObrelOp) : ObrelOp.ofRaw (o.toRaw op) = some o := by
  simp (disch := decide) only [ObrelOp.ofRaw, ObrelOp.toRaw, rawA, RawA.guard]
  simp [need]
@[simp] theorem MrelOp.ofRaw_toRaw (op : BitVec 8) (o : MrelOp) : MrelOp.ofRaw (o.toRaw op) = some o := by
  simp (disch := decide) only [MrelOp.ofRaw, MrelOp.toRaw, rawA, RawA.guard, extract_low, bit_high]
  simp [need]
@[simp] theorem MrdOp.ofRaw_toRaw (op : BitVec 8) (o : MrdOp) : MrdOp.ofRaw (o.toRaw op) = some o := by
  simp (disch := decide) only [MrdOp.ofRaw, MrdOp.toRaw, rawA, RawA.guard, extract_low, bit_high, bit_low]
  simp [need]
@[simp] theorem MwrOp.ofRaw_toRaw (op : BitVec 8) (o : MwrOp) : MwrOp.ofRaw (o.toRaw op) = some o := by
  simp (disch := decide) only [MwrOp.ofRaw, MwrOp.toRaw, rawA, RawA.guard, extract_low, bit_high, bit_low]
  simp [need]
@[simp] theorem MdrainOp.ofRaw_toRaw (op : BitVec 8) (o : MdrainOp) : MdrainOp.ofRaw (o.toRaw op) = some o := by
  obtain ⟨d, quad, max, target, scale, wide, space⟩ := o
  rcases max with _ | _ <;> simp (disch := decide) only [MdrainOp.ofRaw, MdrainOp.toRaw, rawA, RawA.guard, extract_high, extract_low, bit_high, bit_low] <;>
    simp [need]
@[simp] theorem MzeroOp.ofRaw_toRaw (op : BitVec 8) (o : MzeroOp) : MzeroOp.ofRaw (o.toRaw op) = some o := by
  simp (disch := decide) only [MzeroOp.ofRaw, MzeroOp.toRaw, rawA, RawA.guard, extract_high, extract_low]
  simp [need]
@[simp] theorem WinvOp.ofRaw_toRaw (op : BitVec 8) (o : WinvOp) : WinvOp.ofRaw (o.toRaw op) = some o := by
  simp (disch := decide) only [WinvOp.ofRaw, WinvOp.toRaw, rawA, RawA.guard]
  simp [need]
@[simp] theorem PairOp.ofRaw_toRaw (op : BitVec 8) (o : PairOp) : PairOp.ofRaw (o.toRaw op) = some o := by
  simp (disch := decide) only [PairOp.ofRaw, PairOp.toRaw, rawA, RawA.guard]
  simp [need]
@[simp] theorem WcreateOp.ofRaw_toRaw (op : BitVec 8) (o : WcreateOp) : WcreateOp.ofRaw (o.toRaw op) = some o := by
  simp (disch := decide) only [WcreateOp.ofRaw, WcreateOp.toRaw, rawA, RawA.guard, extract_high, extract_low]
  simp [need]
@[simp] theorem K2Op.ofRaw_toRaw (op : BitVec 8) (o : K2Op) : K2Op.ofRaw (o.toRaw op) = some o := by
  simp (disch := decide) only [K2Op.ofRaw, K2Op.toRaw, rawA, RawA.guard, extract_low, bit_high]
  simp [need]
@[simp] theorem K1Op.ofRaw_toRaw (op : BitVec 8) (o : K1Op) : K1Op.ofRaw (o.toRaw op) = some o := by
  simp (disch := decide) only [K1Op.ofRaw, K1Op.toRaw, rawA, RawA.guard, extract_low, bit_high]
  simp [need]
@[simp] theorem PrecvOp.ofRaw_toRaw (op : BitVec 8) (o : PrecvOp) : PrecvOp.ofRaw (o.toRaw op) = some o := by
  obtain ⟨g, d, quad, landing, flag⟩ := o
  rcases landing with _ | _ <;> simp (disch := decide) only [PrecvOp.ofRaw, PrecvOp.toRaw, rawA, RawA.guard, extract_low, bit_high] <;>
    simp [need]
@[simp] theorem PnoteOp.ofRaw_toRaw (op : BitVec 8) (o : PnoteOp) : PnoteOp.ofRaw (o.toRaw op) = some o := by
  simp (disch := decide) only [PnoteOp.ofRaw, PnoteOp.toRaw, rawA, RawA.guard]
  simp [need]
@[simp] theorem WsaddOp.ofRaw_toRaw (op : BitVec 8) (o : WsaddOp) : WsaddOp.ofRaw (o.toRaw op) = some o := by
  simp (disch := decide) only [WsaddOp.ofRaw, WsaddOp.toRaw, rawA, RawA.guard]
  simp [need]
@[simp] theorem TarmOp.ofRaw_toRaw (op : BitVec 8) (o : TarmOp) : TarmOp.ofRaw (o.toRaw op) = some o := by
  simp (disch := decide) only [TarmOp.ofRaw, TarmOp.toRaw, rawA, RawA.guard, extract_low, bit_high]
  simp [need]
@[simp] theorem KPairOp.ofRaw_toRaw (op : BitVec 8) (o : KPairOp) : KPairOp.ofRaw (o.toRaw op) = some o := by
  simp (disch := decide) only [KPairOp.ofRaw, KPairOp.toRaw, rawA, RawA.guard]
  simp [need]
@[simp] theorem NsbindOp.ofRaw_toRaw (op : BitVec 8) (o : NsbindOp) : NsbindOp.ofRaw (o.toRaw op) = some o := by
  obtain ⟨g, d, a, b⟩ := o
  rcases b with _ | _ <;> simp (disch := decide) only [NsbindOp.ofRaw, NsbindOp.toRaw, rawA, RawA.guard, extract_low, bit_high] <;>
    simp [need]
@[simp] theorem GcondOp.ofRaw_toRaw (op : BitVec 8) (o : GcondOp) : GcondOp.ofRaw (o.toRaw op) = some o := by
  simp (disch := decide) only [GcondOp.ofRaw, GcondOp.toRaw, rawA, RawA.guard, extract_high, extract_low]
  simp [need]
@[simp] theorem HintOp.ofRaw_toRaw (op : BitVec 8) (o : HintOp) : HintOp.ofRaw (o.toRaw op) = some o := by
  simp (disch := decide) only [HintOp.ofRaw, HintOp.toRaw, rawA, RawA.guard, extract_low, bit_high]
  simp [need]
@[simp] theorem OinfoOp.ofRaw_toRaw (op : BitVec 8) (o : OinfoOp) : OinfoOp.ofRaw (o.toRaw op) = some o := by
  simp (disch := decide) only [OinfoOp.ofRaw, OinfoOp.toRaw, rawA, RawA.guard, extract_high, extract_low]
  simp [need]

@[simp] theorem Bits3Op.ofRaw_toRaw (tail : BitVec 7) (op : BitVec 8) (o : Bits3Op) : Bits3Op.ofRaw tail (o.toRaw tail op) = some o := by
  simp (disch := decide) only [Bits3Op.ofRaw, Bits3Op.toRaw, rawA, RawA.guard, extract_low, bit_high, bit_low]
  simp [need]
@[simp] theorem bareOfRaw_toRaw (op : BitVec 8) (g : Option Guard) : bareOfRaw (bareToRaw op g) = some g := by
  simp [bareOfRaw, bareToRaw, rawA, RawA.guard, need]
@[simp] theorem fretOfRaw_toRaw (op : BitVec 8) (index : BitVec 12) : fretOfRaw (fretToRaw op index) = some index := by
  simp (disch := decide) only [fretOfRaw, fretToRaw, rawB, RawB.guard, extract_high, extract_low]
  simp [need]

/-! ### The opcode of a layout -/

@[simp] theorem Alu1.toRaw_op (op : BitVec 8) (o : Alu1) : (o.toRaw op).op = op := rfl
@[simp] theorem Alu2.toRaw_op (op : BitVec 8) (o : Alu2) : (o.toRaw op).op = op := rfl
@[simp] theorem Alu3.toRaw_op (op : BitVec 8) (o : Alu3) : (o.toRaw op).op = op := rfl
@[simp] theorem BfeOp.toRaw_op (op : BitVec 8) (o : BfeOp) : (o.toRaw op).op = op := rfl
@[simp] theorem Bits3Op.toRaw_op (tail : BitVec 7) (op : BitVec 8) (o : Bits3Op) : (o.toRaw tail op).op = op := rfl
@[simp] theorem IcmpOp.toRaw_op (op : BitVec 8) (o : IcmpOp) : (o.toRaw op).op = op := rfl
@[simp] theorem PickOp.toRaw_op (op : BitVec 8) (o : PickOp) : (o.toRaw op).op = op := rfl
@[simp] theorem MovxOp.toRaw_op (op : BitVec 8) (o : MovxOp) : (o.toRaw op).op = op := by unfold MovxOp.toRaw; split <;> rfl
@[simp] theorem ShmapOp.toRaw_op (op : BitVec 8) (o : ShmapOp) : (o.toRaw op).op = op := rfl
@[simp] theorem QcfgOp.toRaw_op (op : BitVec 8) (o : QcfgOp) : (o.toRaw op).op = op := rfl
@[simp] theorem LeaOp.toRaw_op (op : BitVec 8) (o : LeaOp) : (o.toRaw op).op = op := rfl
@[simp] theorem FcmpOp.toRaw_op (op : BitVec 8) (o : FcmpOp) : (o.toRaw op).op = op := rfl
@[simp] theorem FclassOp.toRaw_op (op : BitVec 8) (o : FclassOp) : (o.toRaw op).op = op := rfl
@[simp] theorem FrndOp.toRaw_op (op : BitVec 8) (o : FrndOp) : (o.toRaw op).op = op := rfl
@[simp] theorem CvtOp.toRaw_op (op : BitVec 8) (o : CvtOp) : (o.toRaw op).op = op := rfl
@[simp] theorem ShflOp.toRaw_op (op : BitVec 8) (o : ShflOp) : (o.toRaw op).op = op := rfl
@[simp] theorem VoteOp.toRaw_op (op : BitVec 8) (o : VoteOp) : (o.toRaw op).op = op := rfl
@[simp] theorem BallotOp.toRaw_op (op : BitVec 8) (o : BallotOp) : (o.toRaw op).op = op := rfl
@[simp] theorem LaneRedOp.toRaw_op (op : BitVec 8) (o : LaneRedOp) : (o.toRaw op).op = op := rfl
@[simp] theorem RdlaneOp.toRaw_op (op : BitVec 8) (o : RdlaneOp) : (o.toRaw op).op = op := by unfold RdlaneOp.toRaw; split <;> rfl
@[simp] theorem PcombOp.toRaw_op (op : BitVec 8) (o : PcombOp) : (o.toRaw op).op = op := rfl
@[simp] theorem P2sOp.toRaw_op (op : BitVec 8) (o : P2sOp) : (o.toRaw op).op = op := rfl
@[simp] theorem S2pOp.toRaw_op (op : BitVec 8) (o : S2pOp) : (o.toRaw op).op = op := rfl
@[simp] theorem BrxOp.toRaw_op (op : BitVec 8) (o : BrxOp) : (o.toRaw op).op = op := rfl
@[simp] theorem S1Op.toRaw_op (op : BitVec 8) (o : S1Op) : (o.toRaw op).op = op := rfl
@[simp] theorem bareToRaw_op (op : BitVec 8) (g : Option Guard) : (bareToRaw op g).op = op := rfl
@[simp] theorem AluI.toRaw_op (op : BitVec 8) (o : AluI) : (o.toRaw op).op = op := rfl
@[simp] theorem MovI.toRaw_op (op : BitVec 8) (o : MovI) : (o.toRaw op).op = op := rfl
@[simp] theorem BraOp.toRaw_op (op : BitVec 8) (o : BraOp) : (o.toRaw op).op = op := rfl
@[simp] theorem CallOp.toRaw_op (op : BitVec 8) (o : CallOp) : (o.toRaw op).op = op := rfl
@[simp] theorem RegangOp.toRaw_op (op : BitVec 8) (o : RegangOp) : (o.toRaw op).op = op := rfl
@[simp] theorem JmpfOp.toRaw_op (op : BitVec 8) (o : JmpfOp) : (o.toRaw op).op = op := rfl
@[simp] theorem CfetchOp.toRaw_op (op : BitVec 8) (o : CfetchOp) : (o.toRaw op).op = op := rfl
@[simp] theorem fretToRaw_op (op : BitVec 8) (i : BitVec 12) : (fretToRaw op i).op = op := rfl
@[simp] theorem Imm16Op.toRaw_op (op : BitVec 8) (o : Imm16Op) : (o.toRaw op).op = op := rfl
@[simp] theorem SvcOp.toRaw_op (op : BitVec 8) (o : SvcOp) : (o.toRaw op).op = op := rfl
@[simp] theorem RsrOp.toRaw_op (op : BitVec 8) (o : RsrOp) : (o.toRaw op).op = op := rfl
@[simp] theorem WsrOp.toRaw_op (op : BitVec 8) (o : WsrOp) : (o.toRaw op).op = op := rfl
@[simp] theorem MemOp.toRaw_op (op : BitVec 8) (o : MemOp) : (o.toRaw op).op = op := rfl
@[simp] theorem PrefOp.toRaw_op (op : BitVec 8) (o : PrefOp) : (o.toRaw op).op = op := rfl
@[simp] theorem AtomOp.toRaw_op (op : BitVec 8) (o : AtomOp) : (o.toRaw op).op = op := rfl
@[simp] theorem RedMOp.toRaw_op (op : BitVec 8) (o : RedMOp) : (o.toRaw op).op = op := rfl
@[simp] theorem FenceOp.toRaw_op (op : BitVec 8) (o : FenceOp) : (o.toRaw op).op = op := rfl
@[simp] theorem FenceMOp.toRaw_op (op : BitVec 8) (o : FenceMOp) : (o.toRaw op).op = op := rfl
@[simp] theorem WaitcmpOp.toRaw_op (op : BitVec 8) (o : WaitcmpOp) : (o.toRaw op).op = op := rfl
@[simp] theorem WaitcOp.toRaw_op (op : BitVec 8) (o : WaitcOp) : (o.toRaw op).op = op := rfl
@[simp] theorem BinitOp.toRaw_op (op : BitVec 8) (o : BinitOp) : (o.toRaw op).op = op := rfl
@[simp] theorem BarOp.toRaw_op (op : BitVec 8) (o : BarOp) : (o.toRaw op).op = op := rfl
@[simp] theorem XstatOp.toRaw_op (op : BitVec 8) (o : XstatOp) : (o.toRaw op).op = op := rfl
@[simp] theorem ObresOp.toRaw_op (op : BitVec 8) (o : ObresOp) : (o.toRaw op).op = op := rfl
@[simp] theorem WldOp.toRaw_op (op : BitVec 8) (o : WldOp) : (o.toRaw op).op = op := rfl
@[simp] theorem MmaOp.toRaw_op (op : BitVec 8) (o : MmaOp) : (o.toRaw op).op = op := rfl
@[simp] theorem TileOp.toRaw_op (op : BitVec 8) (o : TileOp) : (o.toRaw op).op = op := rfl
@[simp] theorem ObrelOp.toRaw_op (op : BitVec 8) (o : ObrelOp) : (o.toRaw op).op = op := rfl
@[simp] theorem MrelOp.toRaw_op (op : BitVec 8) (o : MrelOp) : (o.toRaw op).op = op := rfl
@[simp] theorem MrdOp.toRaw_op (op : BitVec 8) (o : MrdOp) : (o.toRaw op).op = op := rfl
@[simp] theorem MwrOp.toRaw_op (op : BitVec 8) (o : MwrOp) : (o.toRaw op).op = op := rfl
@[simp] theorem MdrainOp.toRaw_op (op : BitVec 8) (o : MdrainOp) : (o.toRaw op).op = op := by unfold MdrainOp.toRaw; split <;> rfl
@[simp] theorem MzeroOp.toRaw_op (op : BitVec 8) (o : MzeroOp) : (o.toRaw op).op = op := rfl
@[simp] theorem WinvOp.toRaw_op (op : BitVec 8) (o : WinvOp) : (o.toRaw op).op = op := rfl
@[simp] theorem PairOp.toRaw_op (op : BitVec 8) (o : PairOp) : (o.toRaw op).op = op := rfl
@[simp] theorem WcreateOp.toRaw_op (op : BitVec 8) (o : WcreateOp) : (o.toRaw op).op = op := rfl
@[simp] theorem K2Op.toRaw_op (op : BitVec 8) (o : K2Op) : (o.toRaw op).op = op := rfl
@[simp] theorem K1Op.toRaw_op (op : BitVec 8) (o : K1Op) : (o.toRaw op).op = op := rfl
@[simp] theorem PrecvOp.toRaw_op (op : BitVec 8) (o : PrecvOp) : (o.toRaw op).op = op := by unfold PrecvOp.toRaw; split <;> rfl
@[simp] theorem PnoteOp.toRaw_op (op : BitVec 8) (o : PnoteOp) : (o.toRaw op).op = op := rfl
@[simp] theorem WsaddOp.toRaw_op (op : BitVec 8) (o : WsaddOp) : (o.toRaw op).op = op := rfl
@[simp] theorem TarmOp.toRaw_op (op : BitVec 8) (o : TarmOp) : (o.toRaw op).op = op := rfl
@[simp] theorem KPairOp.toRaw_op (op : BitVec 8) (o : KPairOp) : (o.toRaw op).op = op := rfl
@[simp] theorem NsbindOp.toRaw_op (op : BitVec 8) (o : NsbindOp) : (o.toRaw op).op = op := by unfold NsbindOp.toRaw; split <;> rfl
@[simp] theorem GcondOp.toRaw_op (op : BitVec 8) (o : GcondOp) : (o.toRaw op).op = op := rfl
@[simp] theorem HintOp.toRaw_op (op : BitVec 8) (o : HintOp) : (o.toRaw op).op = op := rfl
@[simp] theorem OinfoOp.toRaw_op (op : BitVec 8) (o : OinfoOp) : (o.toRaw op).op = op := rfl

/-! ### Whole words -/

theorem decode_rawA (r : RawA) (i : Instr) (ho : r.op.toNat ∈ opcodesA) (hf : fieldsA r = some i) (hw : i.wf = true) :
    decode r.toWord = .instr i := by
  unfold decode
  rw [r.form, RawA.ofWord_toWord]
  show decodeA r = _
  rw [decodeA, if_pos ho, hf, checkWord, if_pos hw]

theorem decode_rawB (r : RawB) (i : Instr) (ho : r.op.toNat ∈ opcodesB) (hf : fieldsB r = some i) (hw : i.wf = true) :
    decode r.toWord = .instr i := by
  unfold decode
  rw [r.form, RawB.ofWord_toWord]
  show decodeB r = _
  rw [decodeB, if_pos ho, hf, checkWord, if_pos hw]

theorem decode_dual (x y : DualHalf) (hw : (dualInstr x y).wf = true) : decode (dualToWord x.raw y.raw) = .instr (dualInstr x y) := by
  unfold decode
  rw [dualToWord_form, dualToWord_x, dualToWord_y, RawHalf.ofBits_toBits, RawHalf.ofBits_toBits]
  show decodeDual x.raw y.raw = _
  unfold decodeDual
  rw [show DualOp.ofCode x.raw.op = some x.op from DualOp.ofCode_code x.op, show DualOp.ofCode y.raw.op = some y.op from DualOp.ofCode_code y.op]
  show checkWord (some (dualInstr x y)) = _
  rw [checkWord, if_pos hw]

end Sys2Proof
end

