-- ==== Sys2Proof/Laws/State.lean ====
section
/-!
SUPPORT. One lemma for each field of State under each named update, so that no proof unfolds an update.
-/

namespace Sys2Proof.Machine

/-! ### Updates of one component -/

@[simp] theorem State.phase_setCore (s : State) (c : Nat) (x : Core) : (s.setCore c x).phase = s.phase := rfl
@[simp] theorem State.now_setCore (s : State) (c : Nat) (x : Core) : (s.setCore c x).now = s.now := rfl
@[simp] theorem State.schedule_setCore (s : State) (c : Nat) (x : Core) : (s.setCore c x).schedule = s.schedule := rfl
@[simp] theorem State.fresh_setCore (s : State) (c : Nat) (x : Core) : (s.setCore c x).fresh = s.fresh := rfl
@[simp] theorem State.time_setCore (s : State) (c : Nat) (x : Core) : (s.setCore c x).time = s.time := rfl
@[simp] theorem State.clocks_setCore (s : State) (c : Nat) (x : Core) : (s.setCore c x).clocks = s.clocks := rfl
@[simp] theorem State.cycles_setCore (s : State) (c : Nat) (x : Core) : (s.setCore c x).cycles = s.cycles := rfl
@[simp] theorem State.serial_setCore (s : State) (c : Nat) (x : Core) : (s.setCore c x).serial = s.serial := rfl
@[simp] theorem State.clusters_setCore (s : State) (c : Nat) (x : Core) : (s.setCore c x).clusters = s.clusters := rfl
@[simp] theorem State.teams_setCore (s : State) (c : Nat) (x : Core) : (s.setCore c x).teams = s.teams := rfl
@[simp] theorem State.launches_setCore (s : State) (c : Nat) (x : Core) : (s.setCore c x).launches = s.launches := rfl
@[simp] theorem State.launchQueue_setCore (s : State) (c : Nat) (x : Core) : (s.setCore c x).launchQueue = s.launchQueue := rfl
@[simp] theorem State.handed_setCore (s : State) (c : Nat) (x : Core) : (s.setCore c x).handed = s.handed := rfl
@[simp] theorem State.objects_setCore (s : State) (c : Nat) (x : Core) : (s.setCore c x).objects = s.objects := rfl
@[simp] theorem State.objectTable_setCore (s : State) (c : Nat) (x : Core) : (s.setCore c x).objectTable = s.objectTable := rfl
@[simp] theorem State.tabled_setCore (s : State) (c : Nat) (x : Core) : (s.setCore c x).tabled = s.tabled := rfl
@[simp] theorem State.names_setCore (s : State) (c : Nat) (x : Core) : (s.setCore c x).names = s.names := rfl
@[simp] theorem State.commands_setCore (s : State) (c : Nat) (x : Core) : (s.setCore c x).commands = s.commands := rfl
@[simp] theorem State.pools_setCore (s : State) (c : Nat) (x : Core) : (s.setCore c x).pools = s.pools := rfl
@[simp] theorem State.heldMarks_setCore (s : State) (c : Nat) (x : Core) : (s.setCore c x).heldMarks = s.heldMarks := rfl
@[simp] theorem State.hbm_setCore (s : State) (c : Nat) (x : Core) : (s.setCore c x).hbm = s.hbm := rfl
@[simp] theorem State.tier2_setCore (s : State) (c : Nat) (x : Core) : (s.setCore c x).tier2 = s.tier2 := rfl
@[simp] theorem State.host_setCore (s : State) (c : Nat) (x : Core) : (s.setCore c x).host = s.host := rfl
@[simp] theorem State.stale_setCore (s : State) (c : Nat) (x : Core) : (s.setCore c x).stale = s.stale := rfl
@[simp] theorem State.replicaWrites_setCore (s : State) (c : Nat) (x : Core) : (s.setCore c x).replicaWrites = s.replicaWrites := rfl
@[simp] theorem State.poisoned_setCore (s : State) (c : Nat) (x : Core) : (s.setCore c x).poisoned = s.poisoned := rfl
@[simp] theorem State.lineGen_setCore (s : State) (c : Nat) (x : Core) : (s.setCore c x).lineGen = s.lineGen := rfl
@[simp] theorem State.inflight_setCore (s : State) (c : Nat) (x : Core) : (s.setCore c x).inflight = s.inflight := rfl
@[simp] theorem State.tags_setCore (s : State) (c : Nat) (x : Core) : (s.setCore c x).tags = s.tags := rfl
@[simp] theorem State.hostLines_setCore (s : State) (c : Nat) (x : Core) : (s.setCore c x).hostLines = s.hostLines := rfl
@[simp] theorem State.ports_setCore (s : State) (c : Nat) (x : Core) : (s.setCore c x).ports = s.ports := rfl
@[simp] theorem State.chip_setCore (s : State) (c : Nat) (x : Core) : (s.setCore c x).chip = s.chip := rfl
@[simp] theorem State.cliqueSize_setCore (s : State) (c : Nat) (x : Core) : (s.setCore c x).cliqueSize = s.cliqueSize := rfl
@[simp] theorem State.sent_setCore (s : State) (c : Nat) (x : Core) : (s.setCore c x).sent = s.sent := rfl
@[simp] theorem State.outSeq_setCore (s : State) (c : Nat) (x : Core) : (s.setCore c x).outSeq = s.outSeq := rfl
@[simp] theorem State.streams_setCore (s : State) (c : Nat) (x : Core) : (s.setCore c x).streams = s.streams := rfl
@[simp] theorem State.accessTable_setCore (s : State) (c : Nat) (x : Core) : (s.setCore c x).accessTable = s.accessTable := rfl
@[simp] theorem State.replicas_setCore (s : State) (c : Nat) (x : Core) : (s.setCore c x).replicas = s.replicas := rfl
@[simp] theorem State.updates_setCore (s : State) (c : Nat) (x : Core) : (s.setCore c x).updates = s.updates := rfl
@[simp] theorem State.wire_setCore (s : State) (c : Nat) (x : Core) : (s.setCore c x).wire = s.wire := rfl
@[simp] theorem State.queues_setCore (s : State) (c : Nat) (x : Core) : (s.setCore c x).queues = s.queues := rfl
@[simp] theorem State.vectors_setCore (s : State) (c : Nat) (x : Core) : (s.setCore c x).vectors = s.vectors := rfl
@[simp] theorem State.eventRing_setCore (s : State) (c : Nat) (x : Core) : (s.setCore c x).eventRing = s.eventRing := rfl
@[simp] theorem State.events_setCore (s : State) (c : Nat) (x : Core) : (s.setCore c x).events = s.events := rfl
@[simp] theorem State.eventsLost_setCore (s : State) (c : Nat) (x : Core) : (s.setCore c x).eventsLost = s.eventsLost := rfl
@[simp] theorem State.cxlUp_setCore (s : State) (c : Nat) (x : Core) : (s.setCore c x).cxlUp = s.cxlUp := rfl
@[simp] theorem State.exposedBase_setCore (s : State) (c : Nat) (x : Core) : (s.setCore c x).exposedBase = s.exposedBase := rfl
@[simp] theorem State.exposedBytes_setCore (s : State) (c : Nat) (x : Core) : (s.setCore c x).exposedBytes = s.exposedBytes := rfl
@[simp] theorem State.dieBanks_setCore (s : State) (c : Nat) (x : Core) : (s.setCore c x).dieBanks = s.dieBanks := rfl
@[simp] theorem State.systemRoot_setCore (s : State) (c : Nat) (x : Core) : (s.setCore c x).systemRoot = s.systemRoot := rfl
@[simp] theorem State.security_setCore (s : State) (c : Nat) (x : Core) : (s.setCore c x).security = s.security := rfl

@[simp] theorem State.phase_setCluster (s : State) (c : Nat) (x : Cluster) : (s.setCluster c x).phase = s.phase := rfl
@[simp] theorem State.now_setCluster (s : State) (c : Nat) (x : Cluster) : (s.setCluster c x).now = s.now := rfl
@[simp] theorem State.schedule_setCluster (s : State) (c : Nat) (x : Cluster) : (s.setCluster c x).schedule = s.schedule := rfl
@[simp] theorem State.fresh_setCluster (s : State) (c : Nat) (x : Cluster) : (s.setCluster c x).fresh = s.fresh := rfl
@[simp] theorem State.time_setCluster (s : State) (c : Nat) (x : Cluster) : (s.setCluster c x).time = s.time := rfl
@[simp] theorem State.clocks_setCluster (s : State) (c : Nat) (x : Cluster) : (s.setCluster c x).clocks = s.clocks := rfl
@[simp] theorem State.cycles_setCluster (s : State) (c : Nat) (x : Cluster) : (s.setCluster c x).cycles = s.cycles := rfl
@[simp] theorem State.serial_setCluster (s : State) (c : Nat) (x : Cluster) : (s.setCluster c x).serial = s.serial := rfl
@[simp] theorem State.cores_setCluster (s : State) (c : Nat) (x : Cluster) : (s.setCluster c x).cores = s.cores := rfl
@[simp] theorem State.teams_setCluster (s : State) (c : Nat) (x : Cluster) : (s.setCluster c x).teams = s.teams := rfl
@[simp] theorem State.launches_setCluster (s : State) (c : Nat) (x : Cluster) : (s.setCluster c x).launches = s.launches := rfl
@[simp] theorem State.launchQueue_setCluster (s : State) (c : Nat) (x : Cluster) : (s.setCluster c x).launchQueue = s.launchQueue := rfl
@[simp] theorem State.handed_setCluster (s : State) (c : Nat) (x : Cluster) : (s.setCluster c x).handed = s.handed := rfl
@[simp] theorem State.objects_setCluster (s : State) (c : Nat) (x : Cluster) : (s.setCluster c x).objects = s.objects := rfl
@[simp] theorem State.objectTable_setCluster (s : State) (c : Nat) (x : Cluster) : (s.setCluster c x).objectTable = s.objectTable := rfl
@[simp] theorem State.tabled_setCluster (s : State) (c : Nat) (x : Cluster) : (s.setCluster c x).tabled = s.tabled := rfl
@[simp] theorem State.names_setCluster (s : State) (c : Nat) (x : Cluster) : (s.setCluster c x).names = s.names := rfl
@[simp] theorem State.commands_setCluster (s : State) (c : Nat) (x : Cluster) : (s.setCluster c x).commands = s.commands := rfl
@[simp] theorem State.pools_setCluster (s : State) (c : Nat) (x : Cluster) : (s.setCluster c x).pools = s.pools := rfl
@[simp] theorem State.heldMarks_setCluster (s : State) (c : Nat) (x : Cluster) : (s.setCluster c x).heldMarks = s.heldMarks := rfl
@[simp] theorem State.hbm_setCluster (s : State) (c : Nat) (x : Cluster) : (s.setCluster c x).hbm = s.hbm := rfl
@[simp] theorem State.tier2_setCluster (s : State) (c : Nat) (x : Cluster) : (s.setCluster c x).tier2 = s.tier2 := rfl
@[simp] theorem State.host_setCluster (s : State) (c : Nat) (x : Cluster) : (s.setCluster c x).host = s.host := rfl
@[simp] theorem State.stale_setCluster (s : State) (c : Nat) (x : Cluster) : (s.setCluster c x).stale = s.stale := rfl
@[simp] theorem State.replicaWrites_setCluster (s : State) (c : Nat) (x : Cluster) : (s.setCluster c x).replicaWrites = s.replicaWrites := rfl
@[simp] theorem State.poisoned_setCluster (s : State) (c : Nat) (x : Cluster) : (s.setCluster c x).poisoned = s.poisoned := rfl
@[simp] theorem State.lineGen_setCluster (s : State) (c : Nat) (x : Cluster) : (s.setCluster c x).lineGen = s.lineGen := rfl
@[simp] theorem State.inflight_setCluster (s : State) (c : Nat) (x : Cluster) : (s.setCluster c x).inflight = s.inflight := rfl
@[simp] theorem State.tags_setCluster (s : State) (c : Nat) (x : Cluster) : (s.setCluster c x).tags = s.tags := rfl
@[simp] theorem State.hostLines_setCluster (s : State) (c : Nat) (x : Cluster) : (s.setCluster c x).hostLines = s.hostLines := rfl
@[simp] theorem State.ports_setCluster (s : State) (c : Nat) (x : Cluster) : (s.setCluster c x).ports = s.ports := rfl
@[simp] theorem State.chip_setCluster (s : State) (c : Nat) (x : Cluster) : (s.setCluster c x).chip = s.chip := rfl
@[simp] theorem State.cliqueSize_setCluster (s : State) (c : Nat) (x : Cluster) : (s.setCluster c x).cliqueSize = s.cliqueSize := rfl
@[simp] theorem State.sent_setCluster (s : State) (c : Nat) (x : Cluster) : (s.setCluster c x).sent = s.sent := rfl
@[simp] theorem State.outSeq_setCluster (s : State) (c : Nat) (x : Cluster) : (s.setCluster c x).outSeq = s.outSeq := rfl
@[simp] theorem State.streams_setCluster (s : State) (c : Nat) (x : Cluster) : (s.setCluster c x).streams = s.streams := rfl
@[simp] theorem State.accessTable_setCluster (s : State) (c : Nat) (x : Cluster) : (s.setCluster c x).accessTable = s.accessTable := rfl
@[simp] theorem State.replicas_setCluster (s : State) (c : Nat) (x : Cluster) : (s.setCluster c x).replicas = s.replicas := rfl
@[simp] theorem State.updates_setCluster (s : State) (c : Nat) (x : Cluster) : (s.setCluster c x).updates = s.updates := rfl
@[simp] theorem State.wire_setCluster (s : State) (c : Nat) (x : Cluster) : (s.setCluster c x).wire = s.wire := rfl
@[simp] theorem State.queues_setCluster (s : State) (c : Nat) (x : Cluster) : (s.setCluster c x).queues = s.queues := rfl
@[simp] theorem State.vectors_setCluster (s : State) (c : Nat) (x : Cluster) : (s.setCluster c x).vectors = s.vectors := rfl
@[simp] theorem State.eventRing_setCluster (s : State) (c : Nat) (x : Cluster) : (s.setCluster c x).eventRing = s.eventRing := rfl
@[simp] theorem State.events_setCluster (s : State) (c : Nat) (x : Cluster) : (s.setCluster c x).events = s.events := rfl
@[simp] theorem State.eventsLost_setCluster (s : State) (c : Nat) (x : Cluster) : (s.setCluster c x).eventsLost = s.eventsLost := rfl
@[simp] theorem State.cxlUp_setCluster (s : State) (c : Nat) (x : Cluster) : (s.setCluster c x).cxlUp = s.cxlUp := rfl
@[simp] theorem State.exposedBase_setCluster (s : State) (c : Nat) (x : Cluster) : (s.setCluster c x).exposedBase = s.exposedBase := rfl
@[simp] theorem State.exposedBytes_setCluster (s : State) (c : Nat) (x : Cluster) : (s.setCluster c x).exposedBytes = s.exposedBytes := rfl
@[simp] theorem State.dieBanks_setCluster (s : State) (c : Nat) (x : Cluster) : (s.setCluster c x).dieBanks = s.dieBanks := rfl
@[simp] theorem State.systemRoot_setCluster (s : State) (c : Nat) (x : Cluster) : (s.setCluster c x).systemRoot = s.systemRoot := rfl
@[simp] theorem State.security_setCluster (s : State) (c : Nat) (x : Cluster) : (s.setCluster c x).security = s.security := rfl

@[simp] theorem State.phase_setWave (s : State) (c w : Nat) (x : Wave) : (s.setWave c w x).phase = s.phase := rfl
@[simp] theorem State.now_setWave (s : State) (c w : Nat) (x : Wave) : (s.setWave c w x).now = s.now := rfl
@[simp] theorem State.schedule_setWave (s : State) (c w : Nat) (x : Wave) : (s.setWave c w x).schedule = s.schedule := rfl
@[simp] theorem State.fresh_setWave (s : State) (c w : Nat) (x : Wave) : (s.setWave c w x).fresh = s.fresh := rfl
@[simp] theorem State.time_setWave (s : State) (c w : Nat) (x : Wave) : (s.setWave c w x).time = s.time := rfl
@[simp] theorem State.clocks_setWave (s : State) (c w : Nat) (x : Wave) : (s.setWave c w x).clocks = s.clocks := rfl
@[simp] theorem State.cycles_setWave (s : State) (c w : Nat) (x : Wave) : (s.setWave c w x).cycles = s.cycles := rfl
@[simp] theorem State.serial_setWave (s : State) (c w : Nat) (x : Wave) : (s.setWave c w x).serial = s.serial := rfl
@[simp] theorem State.clusters_setWave (s : State) (c w : Nat) (x : Wave) : (s.setWave c w x).clusters = s.clusters := rfl
@[simp] theorem State.teams_setWave (s : State) (c w : Nat) (x : Wave) : (s.setWave c w x).teams = s.teams := rfl
@[simp] theorem State.launches_setWave (s : State) (c w : Nat) (x : Wave) : (s.setWave c w x).launches = s.launches := rfl
@[simp] theorem State.launchQueue_setWave (s : State) (c w : Nat) (x : Wave) : (s.setWave c w x).launchQueue = s.launchQueue := rfl
@[simp] theorem State.handed_setWave (s : State) (c w : Nat) (x : Wave) : (s.setWave c w x).handed = s.handed := rfl
@[simp] theorem State.objects_setWave (s : State) (c w : Nat) (x : Wave) : (s.setWave c w x).objects = s.objects := rfl
@[simp] theorem State.objectTable_setWave (s : State) (c w : Nat) (x : Wave) : (s.setWave c w x).objectTable = s.objectTable := rfl
@[simp] theorem State.tabled_setWave (s : State) (c w : Nat) (x : Wave) : (s.setWave c w x).tabled = s.tabled := rfl
@[simp] theorem State.names_setWave (s : State) (c w : Nat) (x : Wave) : (s.setWave c w x).names = s.names := rfl
@[simp] theorem State.commands_setWave (s : State) (c w : Nat) (x : Wave) : (s.setWave c w x).commands = s.commands := rfl
@[simp] theorem State.pools_setWave (s : State) (c w : Nat) (x : Wave) : (s.setWave c w x).pools = s.pools := rfl
@[simp] theorem State.heldMarks_setWave (s : State) (c w : Nat) (x : Wave) : (s.setWave c w x).heldMarks = s.heldMarks := rfl
@[simp] theorem State.hbm_setWave (s : State) (c w : Nat) (x : Wave) : (s.setWave c w x).hbm = s.hbm := rfl
@[simp] theorem State.tier2_setWave (s : State) (c w : Nat) (x : Wave) : (s.setWave c w x).tier2 = s.tier2 := rfl
@[simp] theorem State.host_setWave (s : State) (c w : Nat) (x : Wave) : (s.setWave c w x).host = s.host := rfl
@[simp] theorem State.stale_setWave (s : State) (c w : Nat) (x : Wave) : (s.setWave c w x).stale = s.stale := rfl
@[simp] theorem State.replicaWrites_setWave (s : State) (c w : Nat) (x : Wave) : (s.setWave c w x).replicaWrites = s.replicaWrites := rfl
@[simp] theorem State.poisoned_setWave (s : State) (c w : Nat) (x : Wave) : (s.setWave c w x).poisoned = s.poisoned := rfl
@[simp] theorem State.lineGen_setWave (s : State) (c w : Nat) (x : Wave) : (s.setWave c w x).lineGen = s.lineGen := rfl
@[simp] theorem State.inflight_setWave (s : State) (c w : Nat) (x : Wave) : (s.setWave c w x).inflight = s.inflight := rfl
@[simp] theorem State.tags_setWave (s : State) (c w : Nat) (x : Wave) : (s.setWave c w x).tags = s.tags := rfl
@[simp] theorem State.hostLines_setWave (s : State) (c w : Nat) (x : Wave) : (s.setWave c w x).hostLines = s.hostLines := rfl
@[simp] theorem State.ports_setWave (s : State) (c w : Nat) (x : Wave) : (s.setWave c w x).ports = s.ports := rfl
@[simp] theorem State.chip_setWave (s : State) (c w : Nat) (x : Wave) : (s.setWave c w x).chip = s.chip := rfl
@[simp] theorem State.cliqueSize_setWave (s : State) (c w : Nat) (x : Wave) : (s.setWave c w x).cliqueSize = s.cliqueSize := rfl
@[simp] theorem State.sent_setWave (s : State) (c w : Nat) (x : Wave) : (s.setWave c w x).sent = s.sent := rfl
@[simp] theorem State.outSeq_setWave (s : State) (c w : Nat) (x : Wave) : (s.setWave c w x).outSeq = s.outSeq := rfl
@[simp] theorem State.streams_setWave (s : State) (c w : Nat) (x : Wave) : (s.setWave c w x).streams = s.streams := rfl
@[simp] theorem State.accessTable_setWave (s : State) (c w : Nat) (x : Wave) : (s.setWave c w x).accessTable = s.accessTable := rfl
@[simp] theorem State.replicas_setWave (s : State) (c w : Nat) (x : Wave) : (s.setWave c w x).replicas = s.replicas := rfl
@[simp] theorem State.updates_setWave (s : State) (c w : Nat) (x : Wave) : (s.setWave c w x).updates = s.updates := rfl
@[simp] theorem State.wire_setWave (s : State) (c w : Nat) (x : Wave) : (s.setWave c w x).wire = s.wire := rfl
@[simp] theorem State.queues_setWave (s : State) (c w : Nat) (x : Wave) : (s.setWave c w x).queues = s.queues := rfl
@[simp] theorem State.vectors_setWave (s : State) (c w : Nat) (x : Wave) : (s.setWave c w x).vectors = s.vectors := rfl
@[simp] theorem State.eventRing_setWave (s : State) (c w : Nat) (x : Wave) : (s.setWave c w x).eventRing = s.eventRing := rfl
@[simp] theorem State.events_setWave (s : State) (c w : Nat) (x : Wave) : (s.setWave c w x).events = s.events := rfl
@[simp] theorem State.eventsLost_setWave (s : State) (c w : Nat) (x : Wave) : (s.setWave c w x).eventsLost = s.eventsLost := rfl
@[simp] theorem State.cxlUp_setWave (s : State) (c w : Nat) (x : Wave) : (s.setWave c w x).cxlUp = s.cxlUp := rfl
@[simp] theorem State.exposedBase_setWave (s : State) (c w : Nat) (x : Wave) : (s.setWave c w x).exposedBase = s.exposedBase := rfl
@[simp] theorem State.exposedBytes_setWave (s : State) (c w : Nat) (x : Wave) : (s.setWave c w x).exposedBytes = s.exposedBytes := rfl
@[simp] theorem State.dieBanks_setWave (s : State) (c w : Nat) (x : Wave) : (s.setWave c w x).dieBanks = s.dieBanks := rfl
@[simp] theorem State.systemRoot_setWave (s : State) (c w : Nat) (x : Wave) : (s.setWave c w x).systemRoot = s.systemRoot := rfl
@[simp] theorem State.security_setWave (s : State) (c w : Nat) (x : Wave) : (s.setWave c w x).security = s.security := rfl

@[simp] theorem State.phase_setObj (s : State) (i : Nat) (o : Obj) : (s.setObj i o).phase = s.phase := rfl
@[simp] theorem State.now_setObj (s : State) (i : Nat) (o : Obj) : (s.setObj i o).now = s.now := rfl
@[simp] theorem State.schedule_setObj (s : State) (i : Nat) (o : Obj) : (s.setObj i o).schedule = s.schedule := rfl
@[simp] theorem State.fresh_setObj (s : State) (i : Nat) (o : Obj) : (s.setObj i o).fresh = s.fresh := rfl
@[simp] theorem State.time_setObj (s : State) (i : Nat) (o : Obj) : (s.setObj i o).time = s.time := rfl
@[simp] theorem State.clocks_setObj (s : State) (i : Nat) (o : Obj) : (s.setObj i o).clocks = s.clocks := rfl
@[simp] theorem State.cycles_setObj (s : State) (i : Nat) (o : Obj) : (s.setObj i o).cycles = s.cycles := rfl
@[simp] theorem State.serial_setObj (s : State) (i : Nat) (o : Obj) : (s.setObj i o).serial = s.serial := rfl
@[simp] theorem State.cores_setObj (s : State) (i : Nat) (o : Obj) : (s.setObj i o).cores = s.cores := rfl
@[simp] theorem State.clusters_setObj (s : State) (i : Nat) (o : Obj) : (s.setObj i o).clusters = s.clusters := rfl
@[simp] theorem State.teams_setObj (s : State) (i : Nat) (o : Obj) : (s.setObj i o).teams = s.teams := rfl
@[simp] theorem State.launches_setObj (s : State) (i : Nat) (o : Obj) : (s.setObj i o).launches = s.launches := rfl
@[simp] theorem State.launchQueue_setObj (s : State) (i : Nat) (o : Obj) : (s.setObj i o).launchQueue = s.launchQueue := rfl
@[simp] theorem State.handed_setObj (s : State) (i : Nat) (o : Obj) : (s.setObj i o).handed = s.handed := rfl
@[simp] theorem State.objectTable_setObj (s : State) (i : Nat) (o : Obj) : (s.setObj i o).objectTable = s.objectTable := rfl
@[simp] theorem State.tabled_setObj (s : State) (i : Nat) (o : Obj) : (s.setObj i o).tabled = s.tabled := rfl
@[simp] theorem State.names_setObj (s : State) (i : Nat) (o : Obj) : (s.setObj i o).names = s.names := rfl
@[simp] theorem State.commands_setObj (s : State) (i : Nat) (o : Obj) : (s.setObj i o).commands = s.commands := rfl
@[simp] theorem State.pools_setObj (s : State) (i : Nat) (o : Obj) : (s.setObj i o).pools = s.pools := rfl
@[simp] theorem State.heldMarks_setObj (s : State) (i : Nat) (o : Obj) : (s.setObj i o).heldMarks = s.heldMarks := rfl
@[simp] theorem State.hbm_setObj (s : State) (i : Nat) (o : Obj) : (s.setObj i o).hbm = s.hbm := rfl
@[simp] theorem State.tier2_setObj (s : State) (i : Nat) (o : Obj) : (s.setObj i o).tier2 = s.tier2 := rfl
@[simp] theorem State.host_setObj (s : State) (i : Nat) (o : Obj) : (s.setObj i o).host = s.host := rfl
@[simp] theorem State.stale_setObj (s : State) (i : Nat) (o : Obj) : (s.setObj i o).stale = s.stale := rfl
@[simp] theorem State.replicaWrites_setObj (s : State) (i : Nat) (o : Obj) : (s.setObj i o).replicaWrites = s.replicaWrites := rfl
@[simp] theorem State.poisoned_setObj (s : State) (i : Nat) (o : Obj) : (s.setObj i o).poisoned = s.poisoned := rfl
@[simp] theorem State.lineGen_setObj (s : State) (i : Nat) (o : Obj) : (s.setObj i o).lineGen = s.lineGen := rfl
@[simp] theorem State.inflight_setObj (s : State) (i : Nat) (o : Obj) : (s.setObj i o).inflight = s.inflight := rfl
@[simp] theorem State.tags_setObj (s : State) (i : Nat) (o : Obj) : (s.setObj i o).tags = s.tags := rfl
@[simp] theorem State.hostLines_setObj (s : State) (i : Nat) (o : Obj) : (s.setObj i o).hostLines = s.hostLines := rfl
@[simp] theorem State.ports_setObj (s : State) (i : Nat) (o : Obj) : (s.setObj i o).ports = s.ports := rfl
@[simp] theorem State.chip_setObj (s : State) (i : Nat) (o : Obj) : (s.setObj i o).chip = s.chip := rfl
@[simp] theorem State.cliqueSize_setObj (s : State) (i : Nat) (o : Obj) : (s.setObj i o).cliqueSize = s.cliqueSize := rfl
@[simp] theorem State.sent_setObj (s : State) (i : Nat) (o : Obj) : (s.setObj i o).sent = s.sent := rfl
@[simp] theorem State.outSeq_setObj (s : State) (i : Nat) (o : Obj) : (s.setObj i o).outSeq = s.outSeq := rfl
@[simp] theorem State.streams_setObj (s : State) (i : Nat) (o : Obj) : (s.setObj i o).streams = s.streams := rfl
@[simp] theorem State.accessTable_setObj (s : State) (i : Nat) (o : Obj) : (s.setObj i o).accessTable = s.accessTable := rfl
@[simp] theorem State.replicas_setObj (s : State) (i : Nat) (o : Obj) : (s.setObj i o).replicas = s.replicas := rfl
@[simp] theorem State.updates_setObj (s : State) (i : Nat) (o : Obj) : (s.setObj i o).updates = s.updates := rfl
@[simp] theorem State.wire_setObj (s : State) (i : Nat) (o : Obj) : (s.setObj i o).wire = s.wire := rfl
@[simp] theorem State.queues_setObj (s : State) (i : Nat) (o : Obj) : (s.setObj i o).queues = s.queues := rfl
@[simp] theorem State.vectors_setObj (s : State) (i : Nat) (o : Obj) : (s.setObj i o).vectors = s.vectors := rfl
@[simp] theorem State.eventRing_setObj (s : State) (i : Nat) (o : Obj) : (s.setObj i o).eventRing = s.eventRing := rfl
@[simp] theorem State.events_setObj (s : State) (i : Nat) (o : Obj) : (s.setObj i o).events = s.events := rfl
@[simp] theorem State.eventsLost_setObj (s : State) (i : Nat) (o : Obj) : (s.setObj i o).eventsLost = s.eventsLost := rfl
@[simp] theorem State.cxlUp_setObj (s : State) (i : Nat) (o : Obj) : (s.setObj i o).cxlUp = s.cxlUp := rfl
@[simp] theorem State.exposedBase_setObj (s : State) (i : Nat) (o : Obj) : (s.setObj i o).exposedBase = s.exposedBase := rfl
@[simp] theorem State.exposedBytes_setObj (s : State) (i : Nat) (o : Obj) : (s.setObj i o).exposedBytes = s.exposedBytes := rfl
@[simp] theorem State.dieBanks_setObj (s : State) (i : Nat) (o : Obj) : (s.setObj i o).dieBanks = s.dieBanks := rfl
@[simp] theorem State.systemRoot_setObj (s : State) (i : Nat) (o : Obj) : (s.setObj i o).systemRoot = s.systemRoot := rfl
@[simp] theorem State.security_setObj (s : State) (i : Nat) (o : Obj) : (s.setObj i o).security = s.security := rfl

/-! ### Updates that find their target -/

@[simp] theorem State.phase_modSlice (s : State) (c w k : Nat) (f : Slice → Slice) : (s.modSlice c w k f).phase = s.phase := by
  unfold State.modSlice; repeat (first | rfl | split)
@[simp] theorem State.now_modSlice (s : State) (c w k : Nat) (f : Slice → Slice) : (s.modSlice c w k f).now = s.now := by
  unfold State.modSlice; repeat (first | rfl | split)
@[simp] theorem State.schedule_modSlice (s : State) (c w k : Nat) (f : Slice → Slice) : (s.modSlice c w k f).schedule = s.schedule := by
  unfold State.modSlice; repeat (first | rfl | split)
@[simp] theorem State.fresh_modSlice (s : State) (c w k : Nat) (f : Slice → Slice) : (s.modSlice c w k f).fresh = s.fresh := by
  unfold State.modSlice; repeat (first | rfl | split)
@[simp] theorem State.time_modSlice (s : State) (c w k : Nat) (f : Slice → Slice) : (s.modSlice c w k f).time = s.time := by
  unfold State.modSlice; repeat (first | rfl | split)
@[simp] theorem State.clocks_modSlice (s : State) (c w k : Nat) (f : Slice → Slice) : (s.modSlice c w k f).clocks = s.clocks := by
  unfold State.modSlice; repeat (first | rfl | split)
@[simp] theorem State.cycles_modSlice (s : State) (c w k : Nat) (f : Slice → Slice) : (s.modSlice c w k f).cycles = s.cycles := by
  unfold State.modSlice; repeat (first | rfl | split)
@[simp] theorem State.serial_modSlice (s : State) (c w k : Nat) (f : Slice → Slice) : (s.modSlice c w k f).serial = s.serial := by
  unfold State.modSlice; repeat (first | rfl | split)
@[simp] theorem State.clusters_modSlice (s : State) (c w k : Nat) (f : Slice → Slice) : (s.modSlice c w k f).clusters = s.clusters := by
  unfold State.modSlice; repeat (first | rfl | split)
@[simp] theorem State.teams_modSlice (s : State) (c w k : Nat) (f : Slice → Slice) : (s.modSlice c w k f).teams = s.teams := by
  unfold State.modSlice; repeat (first | rfl | split)
@[simp] theorem State.launches_modSlice (s : State) (c w k : Nat) (f : Slice → Slice) : (s.modSlice c w k f).launches = s.launches := by
  unfold State.modSlice; repeat (first | rfl | split)
@[simp] theorem State.launchQueue_modSlice (s : State) (c w k : Nat) (f : Slice → Slice) : (s.modSlice c w k f).launchQueue = s.launchQueue := by
  unfold State.modSlice; repeat (first | rfl | split)
@[simp] theorem State.handed_modSlice (s : State) (c w k : Nat) (f : Slice → Slice) : (s.modSlice c w k f).handed = s.handed := by
  unfold State.modSlice; repeat (first | rfl | split)
@[simp] theorem State.objects_modSlice (s : State) (c w k : Nat) (f : Slice → Slice) : (s.modSlice c w k f).objects = s.objects := by
  unfold State.modSlice; repeat (first | rfl | split)
@[simp] theorem State.objectTable_modSlice (s : State) (c w k : Nat) (f : Slice → Slice) : (s.modSlice c w k f).objectTable = s.objectTable := by
  unfold State.modSlice; repeat (first | rfl | split)
@[simp] theorem State.tabled_modSlice (s : State) (c w k : Nat) (f : Slice → Slice) : (s.modSlice c w k f).tabled = s.tabled := by
  unfold State.modSlice; repeat (first | rfl | split)
@[simp] theorem State.names_modSlice (s : State) (c w k : Nat) (f : Slice → Slice) : (s.modSlice c w k f).names = s.names := by
  unfold State.modSlice; repeat (first | rfl | split)
@[simp] theorem State.commands_modSlice (s : State) (c w k : Nat) (f : Slice → Slice) : (s.modSlice c w k f).commands = s.commands := by
  unfold State.modSlice; repeat (first | rfl | split)
@[simp] theorem State.pools_modSlice (s : State) (c w k : Nat) (f : Slice → Slice) : (s.modSlice c w k f).pools = s.pools := by
  unfold State.modSlice; repeat (first | rfl | split)
@[simp] theorem State.heldMarks_modSlice (s : State) (c w k : Nat) (f : Slice → Slice) : (s.modSlice c w k f).heldMarks = s.heldMarks := by
  unfold State.modSlice; repeat (first | rfl | split)
@[simp] theorem State.hbm_modSlice (s : State) (c w k : Nat) (f : Slice → Slice) : (s.modSlice c w k f).hbm = s.hbm := by
  unfold State.modSlice; repeat (first | rfl | split)
@[simp] theorem State.tier2_modSlice (s : State) (c w k : Nat) (f : Slice → Slice) : (s.modSlice c w k f).tier2 = s.tier2 := by
  unfold State.modSlice; repeat (first | rfl | split)
@[simp] theorem State.host_modSlice (s : State) (c w k : Nat) (f : Slice → Slice) : (s.modSlice c w k f).host = s.host := by
  unfold State.modSlice; repeat (first | rfl | split)
@[simp] theorem State.stale_modSlice (s : State) (c w k : Nat) (f : Slice → Slice) : (s.modSlice c w k f).stale = s.stale := by
  unfold State.modSlice; repeat (first | rfl | split)
@[simp] theorem State.replicaWrites_modSlice (s : State) (c w k : Nat) (f : Slice → Slice) : (s.modSlice c w k f).replicaWrites = s.replicaWrites := by
  unfold State.modSlice; repeat (first | rfl | split)
@[simp] theorem State.poisoned_modSlice (s : State) (c w k : Nat) (f : Slice → Slice) : (s.modSlice c w k f).poisoned = s.poisoned := by
  unfold State.modSlice; repeat (first | rfl | split)
@[simp] theorem State.lineGen_modSlice (s : State) (c w k : Nat) (f : Slice → Slice) : (s.modSlice c w k f).lineGen = s.lineGen := by
  unfold State.modSlice; repeat (first | rfl | split)
@[simp] theorem State.inflight_modSlice (s : State) (c w k : Nat) (f : Slice → Slice) : (s.modSlice c w k f).inflight = s.inflight := by
  unfold State.modSlice; repeat (first | rfl | split)
@[simp] theorem State.tags_modSlice (s : State) (c w k : Nat) (f : Slice → Slice) : (s.modSlice c w k f).tags = s.tags := by
  unfold State.modSlice; repeat (first | rfl | split)
@[simp] theorem State.hostLines_modSlice (s : State) (c w k : Nat) (f : Slice → Slice) : (s.modSlice c w k f).hostLines = s.hostLines := by
  unfold State.modSlice; repeat (first | rfl | split)
@[simp] theorem State.ports_modSlice (s : State) (c w k : Nat) (f : Slice → Slice) : (s.modSlice c w k f).ports = s.ports := by
  unfold State.modSlice; repeat (first | rfl | split)
@[simp] theorem State.chip_modSlice (s : State) (c w k : Nat) (f : Slice → Slice) : (s.modSlice c w k f).chip = s.chip := by
  unfold State.modSlice; repeat (first | rfl | split)
@[simp] theorem State.cliqueSize_modSlice (s : State) (c w k : Nat) (f : Slice → Slice) : (s.modSlice c w k f).cliqueSize = s.cliqueSize := by
  unfold State.modSlice; repeat (first | rfl | split)
@[simp] theorem State.sent_modSlice (s : State) (c w k : Nat) (f : Slice → Slice) : (s.modSlice c w k f).sent = s.sent := by
  unfold State.modSlice; repeat (first | rfl | split)
@[simp] theorem State.outSeq_modSlice (s : State) (c w k : Nat) (f : Slice → Slice) : (s.modSlice c w k f).outSeq = s.outSeq := by
  unfold State.modSlice; repeat (first | rfl | split)
@[simp] theorem State.streams_modSlice (s : State) (c w k : Nat) (f : Slice → Slice) : (s.modSlice c w k f).streams = s.streams := by
  unfold State.modSlice; repeat (first | rfl | split)
@[simp] theorem State.accessTable_modSlice (s : State) (c w k : Nat) (f : Slice → Slice) : (s.modSlice c w k f).accessTable = s.accessTable := by
  unfold State.modSlice; repeat (first | rfl | split)
@[simp] theorem State.replicas_modSlice (s : State) (c w k : Nat) (f : Slice → Slice) : (s.modSlice c w k f).replicas = s.replicas := by
  unfold State.modSlice; repeat (first | rfl | split)
@[simp] theorem State.updates_modSlice (s : State) (c w k : Nat) (f : Slice → Slice) : (s.modSlice c w k f).updates = s.updates := by
  unfold State.modSlice; repeat (first | rfl | split)
@[simp] theorem State.wire_modSlice (s : State) (c w k : Nat) (f : Slice → Slice) : (s.modSlice c w k f).wire = s.wire := by
  unfold State.modSlice; repeat (first | rfl | split)
@[simp] theorem State.queues_modSlice (s : State) (c w k : Nat) (f : Slice → Slice) : (s.modSlice c w k f).queues = s.queues := by
  unfold State.modSlice; repeat (first | rfl | split)
@[simp] theorem State.vectors_modSlice (s : State) (c w k : Nat) (f : Slice → Slice) : (s.modSlice c w k f).vectors = s.vectors := by
  unfold State.modSlice; repeat (first | rfl | split)
@[simp] theorem State.eventRing_modSlice (s : State) (c w k : Nat) (f : Slice → Slice) : (s.modSlice c w k f).eventRing = s.eventRing := by
  unfold State.modSlice; repeat (first | rfl | split)
@[simp] theorem State.events_modSlice (s : State) (c w k : Nat) (f : Slice → Slice) : (s.modSlice c w k f).events = s.events := by
  unfold State.modSlice; repeat (first | rfl | split)
@[simp] theorem State.eventsLost_modSlice (s : State) (c w k : Nat) (f : Slice → Slice) : (s.modSlice c w k f).eventsLost = s.eventsLost := by
  unfold State.modSlice; repeat (first | rfl | split)
@[simp] theorem State.cxlUp_modSlice (s : State) (c w k : Nat) (f : Slice → Slice) : (s.modSlice c w k f).cxlUp = s.cxlUp := by
  unfold State.modSlice; repeat (first | rfl | split)
@[simp] theorem State.exposedBase_modSlice (s : State) (c w k : Nat) (f : Slice → Slice) : (s.modSlice c w k f).exposedBase = s.exposedBase := by
  unfold State.modSlice; repeat (first | rfl | split)
@[simp] theorem State.exposedBytes_modSlice (s : State) (c w k : Nat) (f : Slice → Slice) : (s.modSlice c w k f).exposedBytes = s.exposedBytes := by
  unfold State.modSlice; repeat (first | rfl | split)
@[simp] theorem State.dieBanks_modSlice (s : State) (c w k : Nat) (f : Slice → Slice) : (s.modSlice c w k f).dieBanks = s.dieBanks := by
  unfold State.modSlice; repeat (first | rfl | split)
@[simp] theorem State.systemRoot_modSlice (s : State) (c w k : Nat) (f : Slice → Slice) : (s.modSlice c w k f).systemRoot = s.systemRoot := by
  unfold State.modSlice; repeat (first | rfl | split)
@[simp] theorem State.security_modSlice (s : State) (c w k : Nat) (f : Slice → Slice) : (s.modSlice c w k f).security = s.security := by
  unfold State.modSlice; repeat (first | rfl | split)

@[simp] theorem State.phase_modWave (s : State) (c w : Nat) (f : Wave → Wave) : (s.modWave c w f).phase = s.phase := by
  unfold State.modWave; repeat (first | rfl | split)
@[simp] theorem State.now_modWave (s : State) (c w : Nat) (f : Wave → Wave) : (s.modWave c w f).now = s.now := by
  unfold State.modWave; repeat (first | rfl | split)
@[simp] theorem State.schedule_modWave (s : State) (c w : Nat) (f : Wave → Wave) : (s.modWave c w f).schedule = s.schedule := by
  unfold State.modWave; repeat (first | rfl | split)
@[simp] theorem State.fresh_modWave (s : State) (c w : Nat) (f : Wave → Wave) : (s.modWave c w f).fresh = s.fresh := by
  unfold State.modWave; repeat (first | rfl | split)
@[simp] theorem State.time_modWave (s : State) (c w : Nat) (f : Wave → Wave) : (s.modWave c w f).time = s.time := by
  unfold State.modWave; repeat (first | rfl | split)
@[simp] theorem State.clocks_modWave (s : State) (c w : Nat) (f : Wave → Wave) : (s.modWave c w f).clocks = s.clocks := by
  unfold State.modWave; repeat (first | rfl | split)
@[simp] theorem State.cycles_modWave (s : State) (c w : Nat) (f : Wave → Wave) : (s.modWave c w f).cycles = s.cycles := by
  unfold State.modWave; repeat (first | rfl | split)
@[simp] theorem State.serial_modWave (s : State) (c w : Nat) (f : Wave → Wave) : (s.modWave c w f).serial = s.serial := by
  unfold State.modWave; repeat (first | rfl | split)
@[simp] theorem State.clusters_modWave (s : State) (c w : Nat) (f : Wave → Wave) : (s.modWave c w f).clusters = s.clusters := by
  unfold State.modWave; repeat (first | rfl | split)
@[simp] theorem State.teams_modWave (s : State) (c w : Nat) (f : Wave → Wave) : (s.modWave c w f).teams = s.teams := by
  unfold State.modWave; repeat (first | rfl | split)
@[simp] theorem State.launches_modWave (s : State) (c w : Nat) (f : Wave → Wave) : (s.modWave c w f).launches = s.launches := by
  unfold State.modWave; repeat (first | rfl | split)
@[simp] theorem State.launchQueue_modWave (s : State) (c w : Nat) (f : Wave → Wave) : (s.modWave c w f).launchQueue = s.launchQueue := by
  unfold State.modWave; repeat (first | rfl | split)
@[simp] theorem State.handed_modWave (s : State) (c w : Nat) (f : Wave → Wave) : (s.modWave c w f).handed = s.handed := by
  unfold State.modWave; repeat (first | rfl | split)
@[simp] theorem State.objects_modWave (s : State) (c w : Nat) (f : Wave → Wave) : (s.modWave c w f).objects = s.objects := by
  unfold State.modWave; repeat (first | rfl | split)
@[simp] theorem State.objectTable_modWave (s : State) (c w : Nat) (f : Wave → Wave) : (s.modWave c w f).objectTable = s.objectTable := by
  unfold State.modWave; repeat (first | rfl | split)
@[simp] theorem State.tabled_modWave (s : State) (c w : Nat) (f : Wave → Wave) : (s.modWave c w f).tabled = s.tabled := by
  unfold State.modWave; repeat (first | rfl | split)
@[simp] theorem State.names_modWave (s : State) (c w : Nat) (f : Wave → Wave) : (s.modWave c w f).names = s.names := by
  unfold State.modWave; repeat (first | rfl | split)
@[simp] theorem State.commands_modWave (s : State) (c w : Nat) (f : Wave → Wave) : (s.modWave c w f).commands = s.commands := by
  unfold State.modWave; repeat (first | rfl | split)
@[simp] theorem State.pools_modWave (s : State) (c w : Nat) (f : Wave → Wave) : (s.modWave c w f).pools = s.pools := by
  unfold State.modWave; repeat (first | rfl | split)
@[simp] theorem State.heldMarks_modWave (s : State) (c w : Nat) (f : Wave → Wave) : (s.modWave c w f).heldMarks = s.heldMarks := by
  unfold State.modWave; repeat (first | rfl | split)
@[simp] theorem State.hbm_modWave (s : State) (c w : Nat) (f : Wave → Wave) : (s.modWave c w f).hbm = s.hbm := by
  unfold State.modWave; repeat (first | rfl | split)
@[simp] theorem State.tier2_modWave (s : State) (c w : Nat) (f : Wave → Wave) : (s.modWave c w f).tier2 = s.tier2 := by
  unfold State.modWave; repeat (first | rfl | split)
@[simp] theorem State.host_modWave (s : State) (c w : Nat) (f : Wave → Wave) : (s.modWave c w f).host = s.host := by
  unfold State.modWave; repeat (first | rfl | split)
@[simp] theorem State.stale_modWave (s : State) (c w : Nat) (f : Wave → Wave) : (s.modWave c w f).stale = s.stale := by
  unfold State.modWave; repeat (first | rfl | split)
@[simp] theorem State.replicaWrites_modWave (s : State) (c w : Nat) (f : Wave → Wave) : (s.modWave c w f).replicaWrites = s.replicaWrites := by
  unfold State.modWave; repeat (first | rfl | split)
@[simp] theorem State.poisoned_modWave (s : State) (c w : Nat) (f : Wave → Wave) : (s.modWave c w f).poisoned = s.poisoned := by
  unfold State.modWave; repeat (first | rfl | split)
@[simp] theorem State.lineGen_modWave (s : State) (c w : Nat) (f : Wave → Wave) : (s.modWave c w f).lineGen = s.lineGen := by
  unfold State.modWave; repeat (first | rfl | split)
@[simp] theorem State.inflight_modWave (s : State) (c w : Nat) (f : Wave → Wave) : (s.modWave c w f).inflight = s.inflight := by
  unfold State.modWave; repeat (first | rfl | split)
@[simp] theorem State.tags_modWave (s : State) (c w : Nat) (f : Wave → Wave) : (s.modWave c w f).tags = s.tags := by
  unfold State.modWave; repeat (first | rfl | split)
@[simp] theorem State.hostLines_modWave (s : State) (c w : Nat) (f : Wave → Wave) : (s.modWave c w f).hostLines = s.hostLines := by
  unfold State.modWave; repeat (first | rfl | split)
@[simp] theorem State.ports_modWave (s : State) (c w : Nat) (f : Wave → Wave) : (s.modWave c w f).ports = s.ports := by
  unfold State.modWave; repeat (first | rfl | split)
@[simp] theorem State.chip_modWave (s : State) (c w : Nat) (f : Wave → Wave) : (s.modWave c w f).chip = s.chip := by
  unfold State.modWave; repeat (first | rfl | split)
@[simp] theorem State.cliqueSize_modWave (s : State) (c w : Nat) (f : Wave → Wave) : (s.modWave c w f).cliqueSize = s.cliqueSize := by
  unfold State.modWave; repeat (first | rfl | split)
@[simp] theorem State.sent_modWave (s : State) (c w : Nat) (f : Wave → Wave) : (s.modWave c w f).sent = s.sent := by
  unfold State.modWave; repeat (first | rfl | split)
@[simp] theorem State.outSeq_modWave (s : State) (c w : Nat) (f : Wave → Wave) : (s.modWave c w f).outSeq = s.outSeq := by
  unfold State.modWave; repeat (first | rfl | split)
@[simp] theorem State.streams_modWave (s : State) (c w : Nat) (f : Wave → Wave) : (s.modWave c w f).streams = s.streams := by
  unfold State.modWave; repeat (first | rfl | split)
@[simp] theorem State.accessTable_modWave (s : State) (c w : Nat) (f : Wave → Wave) : (s.modWave c w f).accessTable = s.accessTable := by
  unfold State.modWave; repeat (first | rfl | split)
@[simp] theorem State.replicas_modWave (s : State) (c w : Nat) (f : Wave → Wave) : (s.modWave c w f).replicas = s.replicas := by
  unfold State.modWave; repeat (first | rfl | split)
@[simp] theorem State.updates_modWave (s : State) (c w : Nat) (f : Wave → Wave) : (s.modWave c w f).updates = s.updates := by
  unfold State.modWave; repeat (first | rfl | split)
@[simp] theorem State.wire_modWave (s : State) (c w : Nat) (f : Wave → Wave) : (s.modWave c w f).wire = s.wire := by
  unfold State.modWave; repeat (first | rfl | split)
@[simp] theorem State.queues_modWave (s : State) (c w : Nat) (f : Wave → Wave) : (s.modWave c w f).queues = s.queues := by
  unfold State.modWave; repeat (first | rfl | split)
@[simp] theorem State.vectors_modWave (s : State) (c w : Nat) (f : Wave → Wave) : (s.modWave c w f).vectors = s.vectors := by
  unfold State.modWave; repeat (first | rfl | split)
@[simp] theorem State.eventRing_modWave (s : State) (c w : Nat) (f : Wave → Wave) : (s.modWave c w f).eventRing = s.eventRing := by
  unfold State.modWave; repeat (first | rfl | split)
@[simp] theorem State.events_modWave (s : State) (c w : Nat) (f : Wave → Wave) : (s.modWave c w f).events = s.events := by
  unfold State.modWave; repeat (first | rfl | split)
@[simp] theorem State.eventsLost_modWave (s : State) (c w : Nat) (f : Wave → Wave) : (s.modWave c w f).eventsLost = s.eventsLost := by
  unfold State.modWave; repeat (first | rfl | split)
@[simp] theorem State.cxlUp_modWave (s : State) (c w : Nat) (f : Wave → Wave) : (s.modWave c w f).cxlUp = s.cxlUp := by
  unfold State.modWave; repeat (first | rfl | split)
@[simp] theorem State.exposedBase_modWave (s : State) (c w : Nat) (f : Wave → Wave) : (s.modWave c w f).exposedBase = s.exposedBase := by
  unfold State.modWave; repeat (first | rfl | split)
@[simp] theorem State.exposedBytes_modWave (s : State) (c w : Nat) (f : Wave → Wave) : (s.modWave c w f).exposedBytes = s.exposedBytes := by
  unfold State.modWave; repeat (first | rfl | split)
@[simp] theorem State.dieBanks_modWave (s : State) (c w : Nat) (f : Wave → Wave) : (s.modWave c w f).dieBanks = s.dieBanks := by
  unfold State.modWave; repeat (first | rfl | split)
@[simp] theorem State.systemRoot_modWave (s : State) (c w : Nat) (f : Wave → Wave) : (s.modWave c w f).systemRoot = s.systemRoot := by
  unfold State.modWave; repeat (first | rfl | split)
@[simp] theorem State.security_modWave (s : State) (c w : Nat) (f : Wave → Wave) : (s.modWave c w f).security = s.security := by
  unfold State.modWave; repeat (first | rfl | split)

@[simp] theorem State.phase_modProcess (s : State) (i : Nat) (f : Process → Process) : (s.modProcess i f).phase = s.phase := by
  unfold State.modProcess; repeat (first | rfl | split)
@[simp] theorem State.now_modProcess (s : State) (i : Nat) (f : Process → Process) : (s.modProcess i f).now = s.now := by
  unfold State.modProcess; repeat (first | rfl | split)
@[simp] theorem State.schedule_modProcess (s : State) (i : Nat) (f : Process → Process) : (s.modProcess i f).schedule = s.schedule := by
  unfold State.modProcess; repeat (first | rfl | split)
@[simp] theorem State.fresh_modProcess (s : State) (i : Nat) (f : Process → Process) : (s.modProcess i f).fresh = s.fresh := by
  unfold State.modProcess; repeat (first | rfl | split)
@[simp] theorem State.time_modProcess (s : State) (i : Nat) (f : Process → Process) : (s.modProcess i f).time = s.time := by
  unfold State.modProcess; repeat (first | rfl | split)
@[simp] theorem State.clocks_modProcess (s : State) (i : Nat) (f : Process → Process) : (s.modProcess i f).clocks = s.clocks := by
  unfold State.modProcess; repeat (first | rfl | split)
@[simp] theorem State.cycles_modProcess (s : State) (i : Nat) (f : Process → Process) : (s.modProcess i f).cycles = s.cycles := by
  unfold State.modProcess; repeat (first | rfl | split)
@[simp] theorem State.serial_modProcess (s : State) (i : Nat) (f : Process → Process) : (s.modProcess i f).serial = s.serial := by
  unfold State.modProcess; repeat (first | rfl | split)
@[simp] theorem State.cores_modProcess (s : State) (i : Nat) (f : Process → Process) : (s.modProcess i f).cores = s.cores := by
  unfold State.modProcess; repeat (first | rfl | split)
@[simp] theorem State.clusters_modProcess (s : State) (i : Nat) (f : Process → Process) : (s.modProcess i f).clusters = s.clusters := by
  unfold State.modProcess; repeat (first | rfl | split)
@[simp] theorem State.teams_modProcess (s : State) (i : Nat) (f : Process → Process) : (s.modProcess i f).teams = s.teams := by
  unfold State.modProcess; repeat (first | rfl | split)
@[simp] theorem State.launches_modProcess (s : State) (i : Nat) (f : Process → Process) : (s.modProcess i f).launches = s.launches := by
  unfold State.modProcess; repeat (first | rfl | split)
@[simp] theorem State.launchQueue_modProcess (s : State) (i : Nat) (f : Process → Process) : (s.modProcess i f).launchQueue = s.launchQueue := by
  unfold State.modProcess; repeat (first | rfl | split)
@[simp] theorem State.handed_modProcess (s : State) (i : Nat) (f : Process → Process) : (s.modProcess i f).handed = s.handed := by
  unfold State.modProcess; repeat (first | rfl | split)
@[simp] theorem State.objectTable_modProcess (s : State) (i : Nat) (f : Process → Process) : (s.modProcess i f).objectTable = s.objectTable := by
  unfold State.modProcess; repeat (first | rfl | split)
@[simp] theorem State.tabled_modProcess (s : State) (i : Nat) (f : Process → Process) : (s.modProcess i f).tabled = s.tabled := by
  unfold State.modProcess; repeat (first | rfl | split)
@[simp] theorem State.names_modProcess (s : State) (i : Nat) (f : Process → Process) : (s.modProcess i f).names = s.names := by
  unfold State.modProcess; repeat (first | rfl | split)
@[simp] theorem State.commands_modProcess (s : State) (i : Nat) (f : Process → Process) : (s.modProcess i f).commands = s.commands := by
  unfold State.modProcess; repeat (first | rfl | split)
@[simp] theorem State.pools_modProcess (s : State) (i : Nat) (f : Process → Process) : (s.modProcess i f).pools = s.pools := by
  unfold State.modProcess; repeat (first | rfl | split)
@[simp] theorem State.heldMarks_modProcess (s : State) (i : Nat) (f : Process → Process) : (s.modProcess i f).heldMarks = s.heldMarks := by
  unfold State.modProcess; repeat (first | rfl | split)
@[simp] theorem State.hbm_modProcess (s : State) (i : Nat) (f : Process → Process) : (s.modProcess i f).hbm = s.hbm := by
  unfold State.modProcess; repeat (first | rfl | split)
@[simp] theorem State.tier2_modProcess (s : State) (i : Nat) (f : Process → Process) : (s.modProcess i f).tier2 = s.tier2 := by
  unfold State.modProcess; repeat (first | rfl | split)
@[simp] theorem State.host_modProcess (s : State) (i : Nat) (f : Process → Process) : (s.modProcess i f).host = s.host := by
  unfold State.modProcess; repeat (first | rfl | split)
@[simp] theorem State.stale_modProcess (s : State) (i : Nat) (f : Process → Process) : (s.modProcess i f).stale = s.stale := by
  unfold State.modProcess; repeat (first | rfl | split)
@[simp] theorem State.replicaWrites_modProcess (s : State) (i : Nat) (f : Process → Process) : (s.modProcess i f).replicaWrites = s.replicaWrites := by
  unfold State.modProcess; repeat (first | rfl | split)
@[simp] theorem State.poisoned_modProcess (s : State) (i : Nat) (f : Process → Process) : (s.modProcess i f).poisoned = s.poisoned := by
  unfold State.modProcess; repeat (first | rfl | split)
@[simp] theorem State.lineGen_modProcess (s : State) (i : Nat) (f : Process → Process) : (s.modProcess i f).lineGen = s.lineGen := by
  unfold State.modProcess; repeat (first | rfl | split)
@[simp] theorem State.inflight_modProcess (s : State) (i : Nat) (f : Process → Process) : (s.modProcess i f).inflight = s.inflight := by
  unfold State.modProcess; repeat (first | rfl | split)
@[simp] theorem State.tags_modProcess (s : State) (i : Nat) (f : Process → Process) : (s.modProcess i f).tags = s.tags := by
  unfold State.modProcess; repeat (first | rfl | split)
@[simp] theorem State.hostLines_modProcess (s : State) (i : Nat) (f : Process → Process) : (s.modProcess i f).hostLines = s.hostLines := by
  unfold State.modProcess; repeat (first | rfl | split)
@[simp] theorem State.ports_modProcess (s : State) (i : Nat) (f : Process → Process) : (s.modProcess i f).ports = s.ports := by
  unfold State.modProcess; repeat (first | rfl | split)
@[simp] theorem State.chip_modProcess (s : State) (i : Nat) (f : Process → Process) : (s.modProcess i f).chip = s.chip := by
  unfold State.modProcess; repeat (first | rfl | split)
@[simp] theorem State.cliqueSize_modProcess (s : State) (i : Nat) (f : Process → Process) : (s.modProcess i f).cliqueSize = s.cliqueSize := by
  unfold State.modProcess; repeat (first | rfl | split)
@[simp] theorem State.sent_modProcess (s : State) (i : Nat) (f : Process → Process) : (s.modProcess i f).sent = s.sent := by
  unfold State.modProcess; repeat (first | rfl | split)
@[simp] theorem State.outSeq_modProcess (s : State) (i : Nat) (f : Process → Process) : (s.modProcess i f).outSeq = s.outSeq := by
  unfold State.modProcess; repeat (first | rfl | split)
@[simp] theorem State.streams_modProcess (s : State) (i : Nat) (f : Process → Process) : (s.modProcess i f).streams = s.streams := by
  unfold State.modProcess; repeat (first | rfl | split)
@[simp] theorem State.accessTable_modProcess (s : State) (i : Nat) (f : Process → Process) : (s.modProcess i f).accessTable = s.accessTable := by
  unfold State.modProcess; repeat (first | rfl | split)
@[simp] theorem State.replicas_modProcess (s : State) (i : Nat) (f : Process → Process) : (s.modProcess i f).replicas = s.replicas := by
  unfold State.modProcess; repeat (first | rfl | split)
@[simp] theorem State.updates_modProcess (s : State) (i : Nat) (f : Process → Process) : (s.modProcess i f).updates = s.updates := by
  unfold State.modProcess; repeat (first | rfl | split)
@[simp] theorem State.wire_modProcess (s : State) (i : Nat) (f : Process → Process) : (s.modProcess i f).wire = s.wire := by
  unfold State.modProcess; repeat (first | rfl | split)
@[simp] theorem State.queues_modProcess (s : State) (i : Nat) (f : Process → Process) : (s.modProcess i f).queues = s.queues := by
  unfold State.modProcess; repeat (first | rfl | split)
@[simp] theorem State.vectors_modProcess (s : State) (i : Nat) (f : Process → Process) : (s.modProcess i f).vectors = s.vectors := by
  unfold State.modProcess; repeat (first | rfl | split)
@[simp] theorem State.eventRing_modProcess (s : State) (i : Nat) (f : Process → Process) : (s.modProcess i f).eventRing = s.eventRing := by
  unfold State.modProcess; repeat (first | rfl | split)
@[simp] theorem State.events_modProcess (s : State) (i : Nat) (f : Process → Process) : (s.modProcess i f).events = s.events := by
  unfold State.modProcess; repeat (first | rfl | split)
@[simp] theorem State.eventsLost_modProcess (s : State) (i : Nat) (f : Process → Process) : (s.modProcess i f).eventsLost = s.eventsLost := by
  unfold State.modProcess; repeat (first | rfl | split)
@[simp] theorem State.cxlUp_modProcess (s : State) (i : Nat) (f : Process → Process) : (s.modProcess i f).cxlUp = s.cxlUp := by
  unfold State.modProcess; repeat (first | rfl | split)
@[simp] theorem State.exposedBase_modProcess (s : State) (i : Nat) (f : Process → Process) : (s.modProcess i f).exposedBase = s.exposedBase := by
  unfold State.modProcess; repeat (first | rfl | split)
@[simp] theorem State.exposedBytes_modProcess (s : State) (i : Nat) (f : Process → Process) : (s.modProcess i f).exposedBytes = s.exposedBytes := by
  unfold State.modProcess; repeat (first | rfl | split)
@[simp] theorem State.dieBanks_modProcess (s : State) (i : Nat) (f : Process → Process) : (s.modProcess i f).dieBanks = s.dieBanks := by
  unfold State.modProcess; repeat (first | rfl | split)
@[simp] theorem State.systemRoot_modProcess (s : State) (i : Nat) (f : Process → Process) : (s.modProcess i f).systemRoot = s.systemRoot := by
  unfold State.modProcess; repeat (first | rfl | split)
@[simp] theorem State.security_modProcess (s : State) (i : Nat) (f : Process → Process) : (s.modProcess i f).security = s.security := by
  unfold State.modProcess; repeat (first | rfl | split)

end Sys2Proof.Machine
end

