-- ==== Sys2Proof/Laws/Memory.lean ====
section
/-!
SUPPORT. Reading bytes after writing them: what a write at the home changes, and what leaves every byte alone.
-/

namespace Sys2Proof.Machine

/-! ### The canonical form -/

theorem Memory.get_set_self (m : Memory) (a : Nat) (b : Byte) : Memory.get (Memory.set m a b) a = b := Store.get_set_self ..
theorem Memory.get_set_ne (m : Memory) {a c : Nat} (b : Byte) (hc : c ≠ a) : Memory.get (Memory.set m a b) c = Memory.get m c :=
  Store.get_set_ne _ _ _ hc
theorem Memory.wf_set {m : Memory} (h : Memory.wf m) (a : Nat) (b : Byte) : Memory.wf (Memory.set m a b) :=
  ⟨Store.set_sorted h.1 _ _ _, Store.set_plain h.2 _ _⟩
theorem Memory.wf_nil : Memory.wf [] := ⟨List.Pairwise.nil, by simp⟩
theorem Memory.wf_write (bs : List Byte) : ∀ {m : Memory} (a : Nat), Memory.wf m → Memory.wf (Memory.write m a bs) := by
  induction bs with
  | nil => exact fun _ h => h
  | cons b bs ih => exact fun a h => ih (a + 1) (Memory.wf_set h a b)

/-- Writing a byte keeps the canonical form. -/
theorem State.Canonical.poke {s : State} (h : s.Canonical) (p : Place) (a : Nat) (b : Byte) : (s.poke p a b).Canonical := by
  cases p
  case hbm => exact ⟨Memory.wf_set h.hbm a b, h.tier2, h.host, h.scratch⟩
  case tier2 => exact ⟨h.hbm, Memory.wf_set h.tier2 a b, h.host, h.scratch⟩
  case host => exact ⟨h.hbm, h.tier2, Memory.wf_set h.host a b, h.scratch⟩
  case peer c => exact h
  case params l => exact h
  case scratch c =>
    refine ⟨h.hbm, h.tier2, h.host, ?_⟩
    intro d
    by_cases hd : d = c
    · subst hd
      simpa [State.poke, State.core, State.setCore, Store.find?_insert] using Memory.wf_set (h.scratch d) a b
    · simpa [State.poke, State.core, State.setCore, Store.find?_insert, hd] using h.scratch d
  case device =>
    simp only [State.poke, State.setDeviceByte]
    split
    · exact ⟨h.hbm, h.tier2, h.host, h.scratch⟩
    · exact h

theorem State.Canonical.pokeN (p : Place) (bs : List Byte) : ∀ {s : State} (a : Nat), s.Canonical → (s.pokeN p a bs).Canonical := by
  induction bs with
  | nil => exact fun _ h => h
  | cons b bs ih => exact fun a h => ih (a + 1) (h.poke p a b)

/-! ### Changes that leave every byte -/

/-- The fields that reading a byte looks at are the same. -/
structure SameBytes (s t : State) : Prop where
  stale : t.stale = s.stale
  hbm : t.hbm = s.hbm
  tier2 : t.tier2 = s.tier2
  host : t.host = s.host
  scratch : ∀ c, (t.core c).scratch = (s.core c).scratch
  launches : t.launches = s.launches
  security : t.security = s.security
  chip : t.chip = s.chip
  cliqueSize : t.cliqueSize = s.cliqueSize
  ports : t.ports = s.ports
  exposedBytes : t.exposedBytes = s.exposedBytes

theorem SameBytes.refl (s : State) : SameBytes s s := ⟨rfl, rfl, rfl, rfl, fun _ => rfl, rfl, rfl, rfl, rfl, rfl, rfl⟩
theorem SameBytes.trans {s t u : State} (h : SameBytes s t) (g : SameBytes t u) : SameBytes s u :=
  ⟨g.stale.trans h.stale, g.hbm.trans h.hbm, g.tier2.trans h.tier2, g.host.trans h.host, fun c => (g.scratch c).trans (h.scratch c),
   g.launches.trans h.launches, g.security.trans h.security, g.chip.trans h.chip, g.cliqueSize.trans h.cliqueSize,
   g.ports.trans h.ports, g.exposedBytes.trans h.exposedBytes⟩

theorem SameBytes.canonical {s t : State} (h : SameBytes s t) (hs : s.Canonical) : t.Canonical :=
  ⟨h.hbm ▸ hs.hbm, h.tier2 ▸ hs.tier2, h.host ▸ hs.host, fun c => h.scratch c ▸ hs.scratch c⟩

theorem SameBytes.homeByte {s t : State} (h : SameBytes s t) (p : Place) (a : Nat) : t.homeByte p a = s.homeByte p a := by
  cases p with
  | hbm => simp only [State.homeByte, h.hbm]
  | tier2 => simp only [State.homeByte, h.tier2]
  | host => simp only [State.homeByte, h.host]
  | peer c => rfl
  | scratch c => simp only [State.homeByte, h.scratch]
  | params l => simp only [State.homeByte, h.launches]
  | device =>
    have : t.capabilityWords = s.capabilityWords := by
      unfold State.capabilityWords clustersMask portsMask
      rw [h.security, h.chip, h.cliqueSize, h.ports, h.exposedBytes]
    simp only [State.homeByte, State.deviceByte, this, h.security]

theorem SameBytes.peek {s t : State} (h : SameBytes s t) (die : Nat) (p : Place) (a : Nat) : t.peek die p a = s.peek die p a := by
  simp only [State.peek, h.stale, h.homeByte]

/-- A change of a core that leaves its scratchpad. -/
theorem SameBytes.setCore (s : State) (c : Nat) (x : Core) (h : x.scratch = (s.core c).scratch) : SameBytes s (s.setCore c x) := by
  refine ⟨rfl, rfl, rfl, rfl, ?_, rfl, rfl, rfl, rfl, rfl, rfl⟩
  intro d
  by_cases hd : d = c
  · subst hd; simp [State.core, State.setCore, Store.find?_insert] at h ⊢; exact h
  · simp [State.core, State.setCore, Store.find?_insert, hd]

theorem SameBytes.setWave (s : State) (c w : Nat) (x : Wave) : SameBytes s (s.setWave c w x) := SameBytes.setCore _ _ _ rfl
theorem SameBytes.modSlice (s : State) (c w k : Nat) (f : Slice → Slice) : SameBytes s (s.modSlice c w k f) := by
  unfold State.modSlice
  split
  · exact .refl s
  · split
    · exact .refl s
    · exact .setWave ..
theorem SameBytes.modWave (s : State) (c w : Nat) (f : Wave → Wave) : SameBytes s (s.modWave c w f) := by
  unfold State.modWave
  split
  · exact .refl s
  · exact .setWave ..

/-- Cores changed without their scratchpads. -/
theorem SameBytes.mapCores (s : State) (f : Nat × Core → Nat × Core) (hk : ∀ c, (f c).1 = c.1) (hs : ∀ c, (f c).2.scratch = c.2.scratch) :
    SameBytes s { s with cores := s.cores.map f } := by
  refine ⟨rfl, rfl, rfl, rfl, ?_, rfl, rfl, rfl, rfl, rfl, rfl⟩
  intro d
  simp only [State.core]
  generalize s.cores = m
  induction m with
  | nil => rfl
  | cons c m ih =>
    obtain ⟨i, x⟩ := c
    have h1 := hk (i, x)
    have h2 := hs (i, x)
    cases hf : f (i, x) with
    | mk j y =>
      rw [hf] at h1 h2
      simp only at h1 h2
      subst h1
      simp only [List.map_cons, hf, Store.find?]
      split
      · exact h2
      · exact ih

theorem SameBytes.setL1 (s : State) (d : L1Dom) (p : Place) (a : Nat) (x : Option L1Line) : SameBytes s (s.setL1 d p a x) :=
  SameBytes.setCore _ _ _ rfl
theorem SameBytes.roomL1 (s : State) (d : L1Dom) : SameBytes s (s.roomL1 d) := by
  unfold State.roomL1; simp only; split
  · exact .refl s
  · split
    · exact .setCore _ _ _ rfl
    · exact .refl s
theorem SameBytes.bringL1 (s : State) (d : L1Dom) (p : Place) (a : Nat) (bs : List Byte) : SameBytes s (s.bringL1 d p a bs) := by
  unfold State.bringL1; split
  · exact .setL1 ..
  · exact (SameBytes.roomL1 s d).trans (.setL1 ..)
theorem SameBytes.fillL1 (s : State) (d : L1Dom) (p : Place) (a : Nat) : SameBytes s (s.fillL1 d p a) := by
  unfold State.fillL1; split <;> first | exact .bringL1 .. | exact .refl s
theorem SameBytes.passL1 (s : State) (d : L1Dom) (p : Place) (a n : Nat) : SameBytes s (s.passL1 d p a n) := by
  unfold State.passL1; split
  · exact .refl s
  · exact .setL1 ..
theorem SameBytes.evictL1 (s : State) (d : L1Dom) (p : Place) (a : Nat) : SameBytes s (s.evictL1 d p a) := by
  unfold State.evictL1; split
  · exact .refl s
  · exact .setL1 ..
theorem SameBytes.dirtyL1 (s : State) (d : L1Dom) (p : Place) (a : Nat) (bs : List Byte) (id : Nat) :
    SameBytes s (s.dirtyL1 d p a bs id) := by
  unfold State.dirtyL1; split
  · exact .setL1 ..
  · exact (SameBytes.roomL1 s d).trans (.setL1 ..)
theorem SameBytes.cleanL1 (s : State) (d : L1Dom) (p : Place) (a n id : Nat) : SameBytes s (s.cleanL1 d p a n id) := by
  unfold State.cleanL1; split
  · exact .refl s
  · exact .setL1 ..
theorem SameBytes.contestL1 (s : State) (p : Place) (a n id : Nat) : SameBytes s (s.contestL1 p a n id) := by
  unfold State.contestL1; split
  · exact .mapCores _ _ (fun _ => rfl) (fun _ => rfl)
  · exact .refl s
theorem SameBytes.recallLine (s : State) (p : Place) (a : Nat) : SameBytes s (s.recallLine p a) := by
  unfold State.recallLine; split
  · exact (SameBytes.mapCores s (fun c => (c.1, { c.2 with l1 := c.2.l1.filter (fun l => !keyIs l.1 p a) }))
      (fun _ => rfl) (fun _ => rfl)).trans ⟨rfl, rfl, rfl, rfl, fun _ => rfl, rfl, rfl, rfl, rfl, rfl, rfl⟩
  · exact .refl s
theorem SameBytes.discardL1 (s : State) (d : L1Dom) (all : Bool) : SameBytes s (s.discardL1 d all) := SameBytes.setCore _ _ _ rfl
theorem SameBytes.holdHostLine (s : State) (p : Place) (a : Nat) : SameBytes s (s.holdHostLine p a) := by
  unfold State.holdHostLine; split
  · split
    · exact .refl s
    · exact ⟨rfl, rfl, rfl, rfl, fun _ => rfl, rfl, rfl, rfl, rfl, rfl, rfl⟩
  · exact .refl s
theorem SameBytes.enterLlc (s : State) (a : Nat) (bs : List Byte) (id : Nat) : SameBytes s (s.enterLlc a bs id) :=
  (SameBytes.holdHostLine s .host a).trans ⟨rfl, rfl, rfl, rfl, fun _ => rfl, rfl, rfl, rfl, rfl, rfl, rfl⟩
theorem SameBytes.leaveLlc (s : State) (p : Place) (a : Nat) (bs : List Byte) (id : Nat) : SameBytes s (s.leaveLlc p a bs id) := by
  unfold State.leaveLlc; split
  · exact ⟨rfl, rfl, rfl, rfl, fun _ => rfl, rfl, rfl, rfl, rfl, rfl, rfl⟩
  · exact .refl s
theorem SameBytes.untag (s : State) (p : Place) (a n id : Nat) : SameBytes s (s.untag p a n id) := by
  unfold State.untag; split
  · exact .refl s
  · exact ⟨rfl, rfl, rfl, rfl, fun _ => rfl, rfl, rfl, rfl, rfl, rfl, rfl⟩
theorem SameBytes.checkLine (s : State) (p : Place) (a : Nat) : SameBytes s (s.checkLine p a) := by
  unfold State.checkLine
  split
  · split
    · unfold State.poison
      split
      · exact .refl s
      · unfold State.raiseEvent
        split <;> exact ⟨rfl, rfl, rfl, rfl, fun _ => rfl, rfl, rfl, rfl, rfl, rfl, rfl⟩
    · exact .refl s
  · exact .refl s

/-! ### Writing -/

/-- A byte written at its home. -/
theorem State.homeByte_poke (s : State) {p : Place} (hp : p.plain) (a : Nat) (b : Byte) (q : Place) (c : Nat) :
    (s.poke p a b).homeByte q c = if q = p ∧ c = a then b else s.homeByte q c := by
  have hset : ∀ (m : Memory) (c : Nat), Memory.get (Memory.set m a b) c = if c = a then b else Memory.get m c := by
    intro m c
    by_cases h : c = a
    · subst h; simp [Memory.get_set_self]
    · simp [h, Memory.get_set_ne _ b h]
  cases p <;> simp only [Place.plain] at hp
  case scratch e =>
    cases q
    case scratch d =>
      simp only [State.homeByte, State.poke, Place.scratch.injEq]
      by_cases hd : d = e
      · subst hd; simp [State.core, State.setCore, Store.find?_insert, hset]
      · simp [hd, State.core, State.setCore, Store.find?_insert]
    all_goals simp [State.homeByte, State.poke, State.setCore, State.deviceByte, State.capabilityWords, clustersMask, portsMask]
  all_goals cases q <;>
    simp [State.homeByte, State.poke, State.deviceByte, State.capabilityWords, clustersMask, portsMask, State.core, hset]

theorem State.stale_poke (s : State) (p : Place) (a : Nat) (b : Byte) : (s.poke p a b).stale = s.stale := by
  cases p <;> simp only [State.poke, State.stale_setCore]
  case device => unfold State.setDeviceByte; simp only; split <;> rfl

theorem State.stale_pokeN (p : Place) (bs : List Byte) : ∀ (s : State) (a : Nat), (s.pokeN p a bs).stale = s.stale := by
  induction bs with
  | nil => exact fun _ _ => rfl
  | cons b bs ih => intro s a; rw [State.pokeN, ih, State.stale_poke]

/-- A replica that is out of step keeps its own byte. -/
theorem State.peek_poke (s : State) {p : Place} (hp : p.plain) (a : Nat) (b : Byte) (die : Nat) (q : Place) (c : Nat) :
    (s.poke p a b).peek die q c = if q = p ∧ c = a ∧ Store.find? s.stale (staleKey p a die) = none then b else s.peek die q c := by
  simp only [State.peek, State.stale_poke, State.homeByte_poke s hp]
  by_cases h : q = p ∧ c = a
  · obtain ⟨rfl, rfl⟩ := h
    cases hs : Store.find? s.stale (staleKey q c die) <;> simp
  · rw [if_neg h, if_neg (fun g => h ⟨g.1, g.2.1⟩)]

/-- Bytes written from an address on. -/
theorem State.peek_pokeN {p : Place} (hp : p.plain) (bs : List Byte) (die : Nat) (q : Place) (c : Nat) : ∀ (s : State) (a : Nat),
    (s.pokeN p a bs).peek die q c = if q = p ∧ a ≤ c ∧ Store.find? s.stale (staleKey p c die) = none
      then (bs[c - a]?).getD (s.peek die q c) else s.peek die q c := by
  induction bs with
  | nil => intro s a; simp [State.pokeN]
  | cons b bs ih =>
    intro s a
    rw [State.pokeN, ih, State.stale_poke, State.peek_poke s hp]
    by_cases hq : q = p
    · subst hq
      by_cases hst : Store.find? s.stale (staleKey q c die) = none
      · simp only [true_and]
        rcases Nat.lt_trichotomy c a with h | h | h
        · rw [if_neg (by omega), if_neg (by omega), if_neg (by omega)]
        · subst h
          rw [if_neg (by omega), if_pos ⟨rfl, hst⟩, if_pos ⟨Nat.le_refl _, hst⟩]
          simp
        · rw [if_pos ⟨by omega, hst⟩, if_neg (by omega), if_pos ⟨by omega, hst⟩]
          obtain ⟨j, rfl⟩ : ∃ j, c = a + 1 + j := ⟨c - (a + 1), by omega⟩
          simp [show a + 1 + j - a = j + 1 by omega]
      · rw [if_neg (by rintro ⟨-, -, h⟩; exact hst h), if_neg (by rintro ⟨-, rfl, h⟩; exact hst h), if_neg (by rintro ⟨-, -, h⟩; exact hst h)]
    · simp [hq]

theorem SameBytes.withPoisoned (s : State) (l : List Nat) : SameBytes s { s with poisoned := l } :=
  ⟨rfl, rfl, rfl, rfl, fun _ => rfl, rfl, rfl, rfl, rfl, rfl, rfl⟩
theorem SameBytes.withLineGen (s : State) (m : Store Nat) : SameBytes s { s with lineGen := m } :=
  ⟨rfl, rfl, rfl, rfl, fun _ => rfl, rfl, rfl, rfl, rfl, rfl, rfl⟩

theorem SameBytes.settlePoison (s : State) (p : Place) (a n : Nat) : SameBytes s (s.settlePoison p a n) := by
  unfold State.settlePoison
  split
  · exact .withPoisoned s _
  · exact .checkLine s p a

theorem SameBytes.stampLine (s : State) (p : Place) (a n : Nat) : SameBytes s (s.stampLine p a n) := by
  have h1 := SameBytes.settlePoison s p a n
  unfold State.stampLine
  generalize s.settlePoison p a n = u at h1 ⊢
  simp only
  split
  · exact h1.trans (.withLineGen u _)
  · exact h1

/-- A write within one line, without a replica. -/
theorem State.homeWriteLine_pokeN (s : State) (p : Place) (a : Nat) (bs : List Byte) (id : Nat) :
    SameBytes ((s.stampLine p a bs.length).pokeN p a bs) (s.homeWriteLine p a bs false id) :=
  (SameBytes.contestL1 ..).trans (.leaveLlc ..)

theorem State.homeWriteLine_peek (s : State) {p : Place} (hp : p.plain) (a : Nat) (bs : List Byte) (id die : Nat) (q : Place) (c : Nat) :
    (s.homeWriteLine p a bs false id).peek die q c = (if q = p ∧ a ≤ c ∧ Store.find? s.stale (staleKey p c die) = none
      then (bs[c - a]?).getD (s.peek die q c) else s.peek die q c)
    ∧ (s.homeWriteLine p a bs false id).stale = s.stale ∧ (s.Canonical → (s.homeWriteLine p a bs false id).Canonical) := by
  have h1 := SameBytes.stampLine s p a bs.length
  have h3 := s.homeWriteLine_pokeN p a bs id
  refine ⟨?_, ?_, fun hs => h3.canonical (.pokeN p bs a (h1.canonical hs))⟩
  · rw [h3.peek, State.peek_pokeN hp bs die q c _ a, h1.peek, h1.stale]
  · rw [h3.stale, State.stale_pokeN, h1.stale]

theorem State.homeWriteAll_peek {p : Place} (hp : p.plain) (id die : Nat) (q : Place) (c fuel : Nat) :
    ∀ (s : State) (a : Nat) (bs : List Byte), bs.length ≤ 128 * fuel - a % 128 →
      (s.homeWriteAll p false id fuel a bs).peek die q c = (if q = p ∧ a ≤ c ∧ Store.find? s.stale (staleKey p c die) = none
        then (bs[c - a]?).getD (s.peek die q c) else s.peek die q c)
      ∧ (s.homeWriteAll p false id fuel a bs).stale = s.stale ∧ (s.Canonical → (s.homeWriteAll p false id fuel a bs).Canonical) := by
  induction fuel with
  | zero =>
    intro s a bs h
    have : bs = [] := List.length_eq_zero_iff.1 (by omega)
    subst this
    simp [State.homeWriteAll]
  | succ n ih =>
    intro s a bs h
    cases hb : bs with
    | nil => simp [State.homeWriteAll]
    | cons b0 rest =>
      rw [← hb]
      have e : s.homeWriteAll p false id (n + 1) a bs = State.homeWriteAll (s.homeWriteLine p a (bs.take (128 - a % 128)) false id) p false id n
          (a + (128 - a % 128)) (bs.drop (128 - a % 128)) := by rw [hb]; rfl
      obtain ⟨h1, h2, h2c⟩ := State.homeWriteLine_peek s hp a (bs.take (128 - a % 128)) id die q c
      obtain ⟨h3, h4, h5⟩   := ih _ (a + (128 - a % 128)) (bs.drop (128 - a % 128)) (by
        simp only [List.length_drop]
        have : (a + (128 - a % 128)) % 128 = 0 := by omega
        omega)
      rw [e]
      refine ⟨?_, h4.trans h2, fun hs => h5 (h2c hs)⟩
      rw [h3, h1, h2]
      by_cases hq : q = p ∧ Store.find? s.stale (staleKey p c die) = none
      · obtain ⟨hq, hst⟩ := hq
        by_cases hc : a ≤ c
        · by_cases hc2 : a + (128 - a % 128) ≤ c
          · rw [if_pos ⟨hq, hc2, hst⟩, if_pos ⟨hq, hc, hst⟩, if_pos ⟨hq, hc, hst⟩]
            rw [List.getElem?_drop, List.getElem?_take]
            rw [if_neg (by omega)]
            simp [show 128 - a % 128 + (c - (a + (128 - a % 128))) = c - a by omega]
          · rw [if_neg (by tauto), if_pos ⟨hq, hc, hst⟩, if_pos ⟨hq, hc, hst⟩]
            rw [List.getElem?_take, if_pos (by omega)]
        · rw [if_neg (by omega), if_neg (by omega), if_neg (by omega)]
      · rw [if_neg (by tauto), if_neg (by tauto), if_neg (by tauto)]

/-- A write at the home, without a replica: the bytes it names and no others. -/
theorem State.homeWrite_peek (s : State) {p : Place} (hp : p.plain) (a : Nat) (bs : List Byte) (id die : Nat) (q : Place) (c : Nat) :
    (s.homeWrite p a bs false id).peek die q c = (if q = p ∧ a ≤ c ∧ Store.find? s.stale (staleKey p c die) = none
      then (bs[c - a]?).getD (s.peek die q c) else s.peek die q c)
    ∧ (s.homeWrite p a bs false id).stale = s.stale ∧ (s.Canonical → (s.homeWrite p a bs false id).Canonical) :=
  State.homeWriteAll_peek hp id die q c _ s a bs (by have := Nat.mod_lt a (show 0 < 128 by omega); have := Nat.div_add_mod bs.length 128; have := Nat.mod_lt bs.length (show 0 < 128 by omega); omega)

/-- Nor does it change the security blocks. -/
theorem State.homeWrite_security (s : State) {p : Place} (hp : p.plain) (a : Nat) (bs : List Byte) (id : Nat) :
    (s.homeWrite p a bs false id).security = s.security := by
  have h1 : ∀ (bs : List Byte) (s : State) (a : Nat), (s.pokeN p a bs).security = s.security := by
    intro bs
    induction bs with
    | nil => exact fun _ _ => rfl
    | cons b bs ih =>
      intro s a
      rw [State.pokeN, ih]
      cases p <;> first | rfl | exact absurd hp (fun h => h)
  have h2 : ∀ (s : State) (a : Nat) (bs : List Byte), (s.homeWriteLine p a bs false id).security = s.security := fun s a bs => by
    rw [(s.homeWriteLine_pokeN p a bs id).security, h1, (SameBytes.stampLine s p a bs.length).security]
  unfold State.homeWrite
  generalize bs.length / 128 + 2 = fuel
  induction fuel generalizing s a bs with
  | zero => rfl
  | succ n ih =>
    cases bs with
    | nil => rfl
    | cons b bs => exact (ih _ _ _).trans (h2 _ _ _)

/-! ### Accesses in flight -/

theorem SameBytes.modOwner (s : State) (c w : Nat) (g : BitVec 8) (k : Nat) (f : Slice → Slice) : SameBytes s (s.modOwner c w g k f) := by
  unfold State.modOwner
  split
  · exact .modSlice ..
  · exact .setCore _ _ _ rfl

theorem SameBytes.withInflight (s : State) (m : Store Access) : SameBytes s { s with inflight := m } :=
  ⟨rfl, rfl, rfl, rfl, fun _ => rfl, rfl, rfl, rfl, rfl, rfl, rfl⟩

theorem SameBytes.settlePath (s : State) (c w : Nat) (g : BitVec 8) (p : Nat) : SameBytes s (s.settlePath c w g p) := by
  unfold State.settlePath
  simp only
  split
  · exact (SameBytes.withInflight s _).trans (.modWave ..)
  · exact .withInflight s _

theorem SameBytes.finish (s : State) (id : Nat) (a : Access) : SameBytes s (s.finish id a) := by
  unfold State.finish
  split
  · exact .withInflight s _
  · exact (SameBytes.withInflight s _).trans (.settlePath ..)

theorem SameBytes.launchAccess (s : State) (a : Access) : SameBytes s (s.launchAccess a) := by
  unfold State.launchAccess
  have h : ∀ b, SameBytes s { s with inflight := Store.insert s.inflight s.serial b, serial := s.serial + 1 } :=
    fun _ => ⟨rfl, rfl, rfl, rfl, fun _ => rfl, rfl, rfl, rfl, rfl, rfl, rfl⟩
  simp only
  split
  · exact (h _).trans (.modWave ..)
  · exact h _

theorem SameBytes.advance (s : State) (sh : Shape) (lanes : List Nat) (k : Nat) : SameBytes s (s.advance sh lanes k) := .modSlice ..

theorem SameBytes.fillTlb (s : State) (c : Nat) (t : Xlat) : SameBytes s (s.fillTlb c t) := by
  unfold State.fillTlb
  simp only
  split
  · exact .refl s
  · exact ⟨rfl, rfl, rfl, rfl, fun _ => rfl, rfl, rfl, rfl, rfl, rfl, rfl⟩

theorem SameBytes.foldl {α : Type} (f : State → α → State) (h : ∀ s a, SameBytes s (f s a)) (l : List α) :
    ∀ s, SameBytes s (l.foldl f s) := by
  induction l with
  | nil => exact fun s => .refl s
  | cons a l ih => exact fun s => (h s a).trans (ih _)

/-! ### What leaves the accesses in flight alone -/

@[simp] theorem State.inflight_modOwner (s : State) (c w : Nat) (g : BitVec 8) (k : Nat) (f : Slice → Slice) :
    (s.modOwner c w g k f).inflight = s.inflight := by
  unfold State.modOwner; split
  · exact State.inflight_modSlice ..
  · rfl
theorem State.inflight_takeTags (s : State) (c w k : Nat) (scope : Sys2Proof.Scope) (ts : List Tag) : (s.takeTags c w k scope ts).inflight = s.inflight := by
  unfold State.takeTags; split
  · rfl
  · rename_i x hx
    clear hx
    generalize ts.filter (fun t => t.reaches scope c w x) = l
    induction l generalizing s with
    | nil => rfl
    | cons t l ih => rw [List.foldl_cons, ih, State.inflight_modSlice]
@[simp] theorem State.inflight_meet (s : State) (c w : Nat) (g : BitVec 8) (k : Nat) (scope : Option Sys2Proof.Scope) (p : Place) (a n : Nat) :
    (s.meet c w g k scope p a n).inflight = s.inflight := by
  unfold State.meet; split
  · rfl
  · split
    · exact State.inflight_takeTags ..
    · exact State.inflight_modSlice ..
@[simp] theorem State.inflight_checkLine (s : State) (p : Place) (a : Nat) : (s.checkLine p a).inflight = s.inflight := by
  unfold State.checkLine State.poison State.raiseEvent; repeat' split
  all_goals rfl
@[simp] theorem State.inflight_holdHostLine (s : State) (p : Place) (a : Nat) : (s.holdHostLine p a).inflight = s.inflight := by
  unfold State.holdHostLine; repeat' split
  all_goals rfl
@[simp] theorem State.inflight_evictL1 (s : State) (d : L1Dom) (p : Place) (a : Nat) : (s.evictL1 d p a).inflight = s.inflight := by
  unfold State.evictL1; split <;> rfl
@[simp] theorem State.inflight_passL1 (s : State) (d : L1Dom) (p : Place) (a n : Nat) : (s.passL1 d p a n).inflight = s.inflight := by
  unfold State.passL1; split <;> rfl
@[simp] theorem State.inflight_fillL1 (s : State) (d : L1Dom) (p : Place) (a : Nat) : (s.fillL1 d p a).inflight = s.inflight := by
  have h : ∀ bs, (s.bringL1 d p a bs).inflight = s.inflight := by
    intro bs
    unfold State.bringL1 State.roomL1; simp only; repeat' split
    all_goals rfl
  unfold State.fillL1; split <;> first | rfl | exact h _
@[simp] theorem State.inflight_sawWrites (s : State) (a : Access) (ids : List Nat) : (s.sawWrites a ids).inflight = s.inflight := by
  unfold State.sawWrites; split
  · rfl
  · exact State.inflight_modOwner ..
@[simp] theorem State.inflight_deny (s : State) (a : Access) (p : Part) : (s.deny a p).inflight = s.inflight := by
  unfold State.deny; split
  · rfl
  · exact State.inflight_modOwner ..

/-- Reading a part leaves every access in flight as it is. -/
theorem State.inflight_readPart (s : State) (id : Nat) (a : Access) (i : Nat) (p : Part) : (s.readPart id a i p).2.inflight = s.inflight := by
  unfold State.readPart
  simp only
  split
  · simp
  · cases a.noL1 <;> simp only [Bool.false_eq_true, if_true, if_false] <;> split
    all_goals first
      | (simp; done)
      | (split
         · simp
         · simp only []; split <;> simp)

/-! ### Parts that no peer holds -/

/-- An access of this package alone has nothing to send. -/
theorem State.sendParts_local (s : State) (id : Nat) (a : Access) (body : Nat → Part → Option PacketBody) (range : Part → Nat × Nat)
    (h : ∀ p ∈ a.parts, p.place.isPeer = false) : s.sendParts id a body range = s := by
  unfold State.sendParts
  simp only
  have : ∀ (ps : List (Part × Nat)) (u : State) (f : State → Part × Nat → State), (∀ u p, p ∈ ps → f u p = u) → ps.foldl f u = u := by
    intro ps u f h
    induction ps generalizing u with
    | nil => rfl
    | cons p ps ih => rw [List.foldl_cons, h _ _ (by simp)]; exact ih _ (fun u q hq => h u q (by simp [hq]))
  refine this _ _ _ ?_
  rintro u ⟨p, i⟩ hp
  have hq := h p (by
    have := List.mem_zipIdx hp
    exact this.2.2 ▸ List.getElem_mem _)
  cases hpl : p.place <;> first
    | rfl
    | (rw [hpl] at hq; simp [Place.isPeer] at hq)
theorem State.fillPeer_local (s : State) (a : Access) {p : Part} (h : p.place.isPeer = false) : s.fillPeer a p = s := by
  unfold State.fillPeer
  split
  · rename_i hp _; rw [hp] at h; simp [Place.isPeer] at h
  · rfl

/-! ### What leaves every byte alone, of what an access does on its way -/

theorem SameBytes.takeTags (s : State) (c w k : Nat) (scope : Sys2Proof.Scope) (ts : List Tag) : SameBytes s (s.takeTags c w k scope ts) := by
  unfold State.takeTags; split
  · exact .refl s
  · exact .foldl _ (fun _ _ => .modSlice ..) _ _
theorem SameBytes.meet (s : State) (c w : Nat) (g : BitVec 8) (k : Nat) (scope : Option Sys2Proof.Scope) (p : Place) (a n : Nat) :
    SameBytes s (s.meet c w g k scope p a n) := by
  unfold State.meet; split
  · exact .refl s
  · split
    · exact .takeTags ..
    · exact .modSlice ..
theorem SameBytes.modPart (s : State) (id i : Nat) (f : Part → Part) : SameBytes s (s.modPart id i f) := .withInflight s _
theorem SameBytes.peekN {s t : State} (h : SameBytes s t) (die : Nat) (p : Place) (a n : Nat) : t.peekN die p a n = s.peekN die p a n := by
  simp only [State.peekN, h.peek]

end Sys2Proof.Machine
end

