-- ==== Sys2Proof/Laws/PerInstr.lean ====
section
/-!
SUPPORT. What holds of every instruction, one lemma per constructor.
-/

/-! ### Coding: the word of an instruction, where it has one, is not of the reserved form 11 (01 R25) -/

namespace Sys2Proof.Laws.Coding

def Statement (i : Instr) : Prop := ∀ w, encode i = some w → w.extractLsb' 62 2 ≠ 3#2

theorem of_full_a {i : Instr} {r : RawA} (h : encode i = some r.toWord) : Statement i := by
  intro w hw
  obtain rfl : r.toWord = w := Option.some.inj (h.symm.trans hw)
  rw [r.form]
  decide
theorem of_full_b {i : Instr} {r : RawB} (h : encode i = some r.toWord) : Statement i := by
  intro w hw
  obtain rfl : r.toWord = w := Option.some.inj (h.symm.trans hw)
  rw [r.form]
  decide
theorem of_dual {i : Instr} {x y : RawHalf} (h : encode i = some (dualToWord x y)) : Statement i := by
  intro w hw
  obtain rfl : dualToWord x y = w := Option.some.inj (h.symm.trans hw)
  rw [dualToWord_form]
  decide
theorem of_event {i : Instr} (h : encode i = none) : Statement i := fun _ hw => nomatch h.symm.trans hw

theorem iadd (o : Alu2) : Statement (.iadd o) := of_full_a rfl
theorem iaddImm (o : AluI) : Statement (.iaddImm o) := of_full_b rfl
theorem isub (o : Alu2) : Statement (.isub o) := of_full_a rfl
theorem isubImm (o : AluI) : Statement (.isubImm o) := of_full_b rfl
theorem imul (o : Alu2) : Statement (.imul o) := of_full_a rfl
theorem imulImm (o : AluI) : Statement (.imulImm o) := of_full_b rfl
theorem imulh (o : Alu2) : Statement (.imulh o) := of_full_a rfl
theorem imad (o : Alu3) : Statement (.imad o) := of_full_a rfl
theorem idiv (o : Alu2) : Statement (.idiv o) := of_full_a rfl
theorem irem (o : Alu2) : Statement (.irem o) := of_full_a rfl
theorem imin (o : Alu2) : Statement (.imin o) := of_full_a rfl
theorem iminImm (o : AluI) : Statement (.iminImm o) := of_full_b rfl
theorem imax (o : Alu2) : Statement (.imax o) := of_full_a rfl
theorem imaxImm (o : AluI) : Statement (.imaxImm o) := of_full_b rfl
theorem iabs (o : Alu1) : Statement (.iabs o) := of_full_a rfl
theorem and (o : Alu2) : Statement (.and o) := of_full_a rfl
theorem andImm (o : AluI) : Statement (.andImm o) := of_full_b rfl
theorem or (o : Alu2) : Statement (.or o) := of_full_a rfl
theorem orImm (o : AluI) : Statement (.orImm o) := of_full_b rfl
theorem xor (o : Alu2) : Statement (.xor o) := of_full_a rfl
theorem xorImm (o : AluI) : Statement (.xorImm o) := of_full_b rfl
theorem andn (o : Alu2) : Statement (.andn o) := of_full_a rfl
theorem andnImm (o : AluI) : Statement (.andnImm o) := of_full_b rfl
theorem shl (o : Alu2) : Statement (.shl o) := of_full_a rfl
theorem shlImm (o : AluI) : Statement (.shlImm o) := of_full_b rfl
theorem shr (o : Alu2) : Statement (.shr o) := of_full_a rfl
theorem shrImm (o : AluI) : Statement (.shrImm o) := of_full_b rfl
theorem rot (o : Alu2) : Statement (.rot o) := of_full_a rfl
theorem rotImm (o : AluI) : Statement (.rotImm o) := of_full_b rfl
theorem bfe (o : BfeOp) : Statement (.bfe o) := of_full_a rfl
theorem bfi (o : Bits3Op) : Statement (.bfi o) := of_full_a rfl
theorem popc (o : Alu1) : Statement (.popc o) := of_full_a rfl
theorem clz (o : Alu1) : Statement (.clz o) := of_full_a rfl
theorem brev (o : Alu1) : Statement (.brev o) := of_full_a rfl
theorem icmp (o : IcmpOp) : Statement (.icmp o) := of_full_a rfl
theorem pick (o : PickOp) : Statement (.pick o) := of_full_a rfl
theorem mov (o : Alu1) : Statement (.mov o) := of_full_a rfl
theorem movImm (o : MovI) : Statement (.movImm o) := of_full_b rfl
theorem movx (o : MovxOp) : Statement (.movx o) := of_full_a rfl
theorem shmap (o : ShmapOp) : Statement (.shmap o) := of_full_a rfl
theorem qcfg (o : QcfgOp) : Statement (.qcfg o) := of_full_a rfl
theorem lea (o : LeaOp) : Statement (.lea o) := of_full_a rfl
theorem bsel (o : Bits3Op) : Statement (.bsel o) := of_full_a rfl
theorem fadd (o : Alu2) : Statement (.fadd o) := of_full_a rfl
theorem faddImm (o : AluI) : Statement (.faddImm o) := of_full_b rfl
theorem fsub (o : Alu2) : Statement (.fsub o) := of_full_a rfl
theorem fsubImm (o : AluI) : Statement (.fsubImm o) := of_full_b rfl
theorem fmul (o : Alu2) : Statement (.fmul o) := of_full_a rfl
theorem fmulImm (o : AluI) : Statement (.fmulImm o) := of_full_b rfl
theorem ffma (o : Alu3) : Statement (.ffma o) := of_full_a rfl
theorem fmin (o : Alu2) : Statement (.fmin o) := of_full_a rfl
theorem fminImm (o : AluI) : Statement (.fminImm o) := of_full_b rfl
theorem fmax (o : Alu2) : Statement (.fmax o) := of_full_a rfl
theorem fmaxImm (o : AluI) : Statement (.fmaxImm o) := of_full_b rfl
theorem fcmp (o : FcmpOp) : Statement (.fcmp o) := of_full_a rfl
theorem fclass (o : FclassOp) : Statement (.fclass o) := of_full_a rfl
theorem fabs (o : Alu1) : Statement (.fabs o) := of_full_a rfl
theorem fneg (o : Alu1) : Statement (.fneg o) := of_full_a rfl
theorem fdot2 (o : Alu3) : Statement (.fdot2 o) := of_full_a rfl
theorem fdot4 (o : Alu3) : Statement (.fdot4 o) := of_full_a rfl
theorem fcpys (o : Alu2) : Statement (.fcpys o) := of_full_a rfl
theorem frnd (o : FrndOp) : Statement (.frnd o) := of_full_a rfl
theorem fscale (o : Alu2) : Statement (.fscale o) := of_full_a rfl
theorem fexp (o : Alu1) : Statement (.fexp o) := of_full_a rfl
theorem cvt (o : CvtOp) : Statement (.cvt o) := of_full_a rfl
theorem rcp (o : Alu1) : Statement (.rcp o) := of_full_a rfl
theorem rsq (o : Alu1) : Statement (.rsq o) := of_full_a rfl
theorem sqrt (o : Alu1) : Statement (.sqrt o) := of_full_a rfl
theorem ex2 (o : Alu1) : Statement (.ex2 o) := of_full_a rfl
theorem lg2 (o : Alu1) : Statement (.lg2 o) := of_full_a rfl
theorem sin (o : Alu1) : Statement (.sin o) := of_full_a rfl
theorem cos (o : Alu1) : Statement (.cos o) := of_full_a rfl
theorem tanh (o : Alu1) : Statement (.tanh o) := of_full_a rfl
theorem shfl (o : ShflOp) : Statement (.shfl o) := of_full_a rfl
theorem shflx (o : ShflOp) : Statement (.shflx o) := of_full_a rfl
theorem shflup (o : ShflOp) : Statement (.shflup o) := of_full_a rfl
theorem shfldn (o : ShflOp) : Statement (.shfldn o) := of_full_a rfl
theorem vote (o : VoteOp) : Statement (.vote o) := of_full_a rfl
theorem ballot (o : BallotOp) : Statement (.ballot o) := of_full_a rfl
theorem redl (o : LaneRedOp) : Statement (.redl o) := of_full_a rfl
theorem scanl (o : LaneRedOp) : Statement (.scanl o) := of_full_a rfl
theorem rdlane (o : RdlaneOp) : Statement (.rdlane o) := of_full_a rfl
theorem pcomb (o : PcombOp) : Statement (.pcomb o) := of_full_a rfl
theorem p2s (o : P2sOp) : Statement (.p2s o) := of_full_a rfl
theorem s2p (o : S2pOp) : Statement (.s2p o) := of_full_a rfl
theorem bra (o : BraOp) : Statement (.bra o) := of_full_b rfl
theorem brx (o : BrxOp) : Statement (.brx o) := of_full_a rfl
theorem call (o : CallOp) : Statement (.call o) := of_full_b rfl
theorem ret (o : S1Op) : Statement (.ret o) := of_full_a rfl
theorem regang (o : RegangOp) : Statement (.regang o) := of_full_b rfl
theorem jmpf (o : JmpfOp) : Statement (.jmpf o) := of_full_b rfl
theorem cfetch (o : CfetchOp) : Statement (.cfetch o) := of_full_b rfl
theorem exit (g : Option Guard) : Statement (.exit g) := of_full_a rfl
theorem fret (index : BitVec 12) : Statement (.fret index) := of_full_b rfl
theorem enter (o : Imm16Op) : Statement (.enter o) := of_full_b rfl
theorem leave (g : Option Guard) : Statement (.leave g) := of_full_a rfl
theorem svc (o : SvcOp) : Statement (.svc o) := of_full_b rfl
theorem rsr (o : RsrOp) : Statement (.rsr o) := of_full_b rfl
theorem wsr (o : WsrOp) : Statement (.wsr o) := of_full_b rfl
theorem brk (o : Imm16Op) : Statement (.brk o) := of_full_b rfl
theorem nop (g : Option Guard) : Statement (.nop g) := of_full_a rfl
theorem yield (g : Option Guard) : Statement (.yield g) := of_full_a rfl
theorem ldGN8 (o : MemOp) : Statement (.ldGN8 o) := of_full_b rfl
theorem ldGS8 (o : MemOp) : Statement (.ldGS8 o) := of_full_b rfl
theorem ldGN16 (o : MemOp) : Statement (.ldGN16 o) := of_full_b rfl
theorem ldGS16 (o : MemOp) : Statement (.ldGS16 o) := of_full_b rfl
theorem ldGB32 (o : MemOp) : Statement (.ldGB32 o) := of_full_b rfl
theorem ldGB64 (o : MemOp) : Statement (.ldGB64 o) := of_full_b rfl
theorem ldSN8 (o : MemOp) : Statement (.ldSN8 o) := of_full_b rfl
theorem ldSS8 (o : MemOp) : Statement (.ldSS8 o) := of_full_b rfl
theorem ldSN16 (o : MemOp) : Statement (.ldSN16 o) := of_full_b rfl
theorem ldSS16 (o : MemOp) : Statement (.ldSS16 o) := of_full_b rfl
theorem ldSB32 (o : MemOp) : Statement (.ldSB32 o) := of_full_b rfl
theorem ldSB64 (o : MemOp) : Statement (.ldSB64 o) := of_full_b rfl
theorem ldPB32 (o : MemOp) : Statement (.ldPB32 o) := of_full_b rfl
theorem stGB8 (o : MemOp) : Statement (.stGB8 o) := of_full_b rfl
theorem stGB16 (o : MemOp) : Statement (.stGB16 o) := of_full_b rfl
theorem stGB32 (o : MemOp) : Statement (.stGB32 o) := of_full_b rfl
theorem stGB64 (o : MemOp) : Statement (.stGB64 o) := of_full_b rfl
theorem stSB8 (o : MemOp) : Statement (.stSB8 o) := of_full_b rfl
theorem stSB16 (o : MemOp) : Statement (.stSB16 o) := of_full_b rfl
theorem stSB32 (o : MemOp) : Statement (.stSB32 o) := of_full_b rfl
theorem stSB64 (o : MemOp) : Statement (.stSB64 o) := of_full_b rfl
theorem atom (o : AtomOp) : Statement (.atom o) := of_full_a rfl
theorem redM (o : RedMOp) : Statement (.redM o) := of_full_a rfl
theorem fence (o : FenceOp) : Statement (.fence o) := of_full_a rfl
theorem fenceM (o : FenceMOp) : Statement (.fenceM o) := of_full_a rfl
theorem waitcmp (o : WaitcmpOp) : Statement (.waitcmp o) := of_full_a rfl
theorem waitc (o : WaitcOp) : Statement (.waitc o) := of_full_a rfl
theorem pref (o : PrefOp) : Statement (.pref o) := of_full_b rfl
theorem binit (o : BinitOp) : Statement (.binit o) := of_full_a rfl
theorem barv (o : BarOp) : Statement (.barv o) := of_full_a rfl
theorem bwait (o : BarOp) : Statement (.bwait o) := of_full_a rfl
theorem obres (o : ObresOp) : Statement (.obres o) := of_full_a rfl
theorem obrel (o : ObrelOp) : Statement (.obrel o) := of_full_a rfl
theorem wld (o : WldOp) : Statement (.wld o) := of_full_a rfl
theorem mma (o : MmaOp) : Statement (.mma o) := of_full_a rfl
theorem macq (o : TileOp) : Statement (.macq o) := of_full_a rfl
theorem mrel (o : MrelOp) : Statement (.mrel o) := of_full_a rfl
theorem mrd (o : MrdOp) : Statement (.mrd o) := of_full_a rfl
theorem mwr (o : MwrOp) : Statement (.mwr o) := of_full_a rfl
theorem mdrain (o : MdrainOp) : Statement (.mdrain o) := of_full_a rfl
theorem mzero (o : MzeroOp) : Statement (.mzero o) := of_full_a rfl
theorem winv (o : WinvOp) : Statement (.winv o) := of_full_a rfl
theorem mstat (o : PairOp) : Statement (.mstat o) := of_full_a rfl
theorem xkick (o : S1Op) : Statement (.xkick o) := of_full_a rfl
theorem xsusp (o : S1Op) : Statement (.xsusp o) := of_full_a rfl
theorem xstat (o : XstatOp) : Statement (.xstat o) := of_full_a rfl
theorem wcreate (o : WcreateOp) : Statement (.wcreate o) := of_full_a rfl
theorem psend (o : K2Op) : Statement (.psend o) := of_full_a rfl
theorem precv (o : PrecvOp) : Statement (.precv o) := of_full_a rfl
theorem pnote (o : PnoteOp) : Statement (.pnote o) := of_full_a rfl
theorem wsadd (o : WsaddOp) : Statement (.wsadd o) := of_full_a rfl
theorem wsdel (o : K2Op) : Statement (.wsdel o) := of_full_a rfl
theorem wswait (o : K2Op) : Statement (.wswait o) := of_full_a rfl
theorem tarm (o : TarmOp) : Statement (.tarm o) := of_full_a rfl
theorem tcan (o : K1Op) : Statement (.tcan o) := of_full_a rfl
theorem oclose (o : K1Op) : Statement (.oclose o) := of_full_a rfl
theorem odup (o : K2Op) : Statement (.odup o) := of_full_a rfl
theorem nslook (o : KPairOp) : Statement (.nslook o) := of_full_a rfl
theorem nsbind (o : NsbindOp) : Statement (.nsbind o) := of_full_a rfl
theorem glaunch (o : K1Op) : Statement (.glaunch o) := of_full_a rfl
theorem gcond (o : GcondOp) : Statement (.gcond o) := of_full_a rfl
theorem hint (o : HintOp) : Statement (.hint o) := of_full_a rfl
theorem launch (o : KPairOp) : Statement (.launch o) := of_full_a rfl
theorem oinfo (o : OinfoOp) : Statement (.oinfo o) := of_full_a rfl
theorem rotarm (o : K1Op) : Statement (.rotarm o) := of_full_a rfl
theorem rotjoin (o : K2Op) : Statement (.rotjoin o) := of_full_a rfl
theorem aearm (o : K2Op) : Statement (.aearm o) := of_full_a rfl
theorem aewait (o : K2Op) : Statement (.aewait o) := of_full_a rfl
theorem rotend (o : K1Op) : Statement (.rotend o) := of_full_a rfl
theorem dualNop (x : HalfFields) (y : DualHalf) : Statement (.dualNop x y) := of_dual rfl
theorem dualIadd (x : HalfFields) (y : DualHalf) : Statement (.dualIadd x y) := of_dual rfl
theorem dualIsub (x : HalfFields) (y : DualHalf) : Statement (.dualIsub x y) := of_dual rfl
theorem dualImul (x : HalfFields) (y : DualHalf) : Statement (.dualImul x y) := of_dual rfl
theorem dualImin (x : HalfFields) (y : DualHalf) : Statement (.dualImin x y) := of_dual rfl
theorem dualImax (x : HalfFields) (y : DualHalf) : Statement (.dualImax x y) := of_dual rfl
theorem dualAnd (x : HalfFields) (y : DualHalf) : Statement (.dualAnd x y) := of_dual rfl
theorem dualOr (x : HalfFields) (y : DualHalf) : Statement (.dualOr x y) := of_dual rfl
theorem dualXor (x : HalfFields) (y : DualHalf) : Statement (.dualXor x y) := of_dual rfl
theorem dualAndn (x : HalfFields) (y : DualHalf) : Statement (.dualAndn x y) := of_dual rfl
theorem dualShl (x : HalfFields) (y : DualHalf) : Statement (.dualShl x y) := of_dual rfl
theorem dualShr (x : HalfFields) (y : DualHalf) : Statement (.dualShr x y) := of_dual rfl
theorem dualMov (x : HalfFields) (y : DualHalf) : Statement (.dualMov x y) := of_dual rfl
theorem iaddi (x : HalfFields) (y : DualHalf) : Statement (.iaddi x y) := of_dual rfl
theorem movi (x : HalfFields) (y : DualHalf) : Statement (.movi x y) := of_dual rfl
theorem shli (x : HalfFields) (y : DualHalf) : Statement (.shli x y) := of_dual rfl
theorem shri (x : HalfFields) (y : DualHalf) : Statement (.shri x y) := of_dual rfl
theorem dualIcmpEq (x : HalfFields) (y : DualHalf) : Statement (.dualIcmpEq x y) := of_dual rfl
theorem dualIcmpNe (x : HalfFields) (y : DualHalf) : Statement (.dualIcmpNe x y) := of_dual rfl
theorem dualIcmpLtS32 (x : HalfFields) (y : DualHalf) : Statement (.dualIcmpLtS32 x y) := of_dual rfl
theorem dualIcmpLtN32 (x : HalfFields) (y : DualHalf) : Statement (.dualIcmpLtN32 x y) := of_dual rfl
theorem dualIcmpLeS32 (x : HalfFields) (y : DualHalf) : Statement (.dualIcmpLeS32 x y) := of_dual rfl
theorem dualIcmpLeN32 (x : HalfFields) (y : DualHalf) : Statement (.dualIcmpLeN32 x y) := of_dual rfl
theorem pand (x : HalfFields) (y : DualHalf) : Statement (.pand x y) := of_dual rfl
theorem por (x : HalfFields) (y : DualHalf) : Statement (.por x y) := of_dual rfl
theorem pxor (x : HalfFields) (y : DualHalf) : Statement (.pxor x y) := of_dual rfl
theorem pnot (x : HalfFields) (y : DualHalf) : Statement (.pnot x y) := of_dual rfl
theorem pmov (x : HalfFields) (y : DualHalf) : Statement (.pmov x y) := of_dual rfl
theorem dualFadd (x : HalfFields) (y : DualHalf) : Statement (.dualFadd x y) := of_dual rfl
theorem dualFsub (x : HalfFields) (y : DualHalf) : Statement (.dualFsub x y) := of_dual rfl
theorem dualFmul (x : HalfFields) (y : DualHalf) : Statement (.dualFmul x y) := of_dual rfl
theorem dualFmin (x : HalfFields) (y : DualHalf) : Statement (.dualFmin x y) := of_dual rfl
theorem dualFmax (x : HalfFields) (y : DualHalf) : Statement (.dualFmax x y) := of_dual rfl
theorem dualFabs (x : HalfFields) (y : DualHalf) : Statement (.dualFabs x y) := of_dual rfl
theorem dualFneg (x : HalfFields) (y : DualHalf) : Statement (.dualFneg x y) := of_dual rfl
theorem dualPopc (x : HalfFields) (y : DualHalf) : Statement (.dualPopc x y) := of_dual rfl
theorem dualClz (x : HalfFields) (y : DualHalf) : Statement (.dualClz x y) := of_dual rfl
theorem dualBrev (x : HalfFields) (y : DualHalf) : Statement (.dualBrev x y) := of_dual rfl
theorem dualIabs (x : HalfFields) (y : DualHalf) : Statement (.dualIabs x y) := of_dual rfl
theorem dualFcmpLtF32 (x : HalfFields) (y : DualHalf) : Statement (.dualFcmpLtF32 x y) := of_dual rfl
theorem nonceRead (o : PairOp) : Statement (.nonceRead o) := of_full_b rfl
theorem entropyRead (o : PairOp) : Statement (.entropyRead o) := of_full_b rfl
theorem keywipeWrite (o : PairOp) : Statement (.keywipeWrite o) := of_full_b rfl
theorem dbgctlWrite (o : PairOp) : Statement (.dbgctlWrite o) := of_full_b rfl
theorem measureWrite (o : PairOp) : Statement (.measureWrite o) := of_full_b rfl
theorem mbwaitRead (o : PairOp) : Statement (.mbwaitRead o) := of_full_b rfl
theorem dropWrite (o : PairOp) : Statement (.dropWrite o) := of_full_b rfl
theorem reprioWrite (o : PairOp) : Statement (.reprioWrite o) := of_full_b rfl
theorem illegalOpcode (word : W64) (code : BitVec 8) : Statement (.illegalOpcode word code) := of_event rfl
theorem segmentFetchComplete (core index : Nat) : Statement (.segmentFetchComplete core index) := of_event rfl
theorem launchQueueHandoff (cluster : Nat) : Statement (.launchQueueHandoff cluster) := of_event rfl
theorem launchRecordAccept (cluster : Nat) : Statement (.launchRecordAccept cluster) := of_event rfl
theorem teamPlacement (cluster core : Nat) (slots : List Nat) : Statement (.teamPlacement cluster core slots) := of_event rfl
theorem waveRetire (core slot : Nat) : Statement (.waveRetire core slot) := of_event rfl
theorem regangRelease (w : SliceRef) : Statement (.regangRelease w) := of_event rfl
theorem segmentMeetingRelease (w : SliceRef) : Statement (.segmentMeetingRelease w) := of_event rfl
theorem shmapPairing (w : SliceRef) : Statement (.shmapPairing w) := of_event rfl
theorem bwaitRelease (w : SliceRef) : Statement (.bwaitRelease w) := of_event rfl
theorem waitcmpMonitorRead (w : SliceRef) : Statement (.waitcmpMonitorRead w) := of_event rfl
theorem kernelOpBegin (w : SliceRef) : Statement (.kernelOpBegin w) := of_event rfl
theorem mmaPassEnter (core : Nat) : Statement (.mmaPassEnter core) := of_event rfl
theorem mmaCommit (core : Nat) : Statement (.mmaCommit core) := of_event rfl
theorem copyQueueReadRecord (cluster : Nat) : Statement (.copyQueueReadRecord cluster) := of_event rfl
theorem copyGranule (cluster engine : Nat) : Statement (.copyGranule cluster engine) := of_event rfl
theorem queueLoadRowFetch (core slot q : Nat) : Statement (.queueLoadRowFetch core slot q) := of_event rfl
theorem queueStoreRowPerform (core slot q : Nat) : Statement (.queueStoreRowPerform core slot q) := of_event rfl
theorem userTrapDelivery (w : SliceRef) : Statement (.userTrapDelivery w) := of_event rfl
theorem launchCompletionReport (launch : Nat) : Statement (.launchCompletionReport launch) := of_event rfl
theorem waitcRelease (w : SliceRef) : Statement (.waitcRelease w) := of_event rfl
theorem fenceDrainComplete (w : SliceRef) : Statement (.fenceDrainComplete w) := of_event rfl
theorem mbactRetry (core : Nat) : Statement (.mbactRetry core) := of_event rfl
theorem mbactSkip (core : Nat) : Statement (.mbactSkip core) := of_event rfl
theorem mbactEndSlice (core : Nat) : Statement (.mbactEndSlice core) := of_event rfl
theorem mbactForward (core : Nat) : Statement (.mbactForward core) := of_event rfl
theorem mbactReply (core : Nat) : Statement (.mbactReply core) := of_event rfl
theorem mbactEndWave (core : Nat) : Statement (.mbactEndWave core) := of_event rfl
theorem mbactDismiss (core : Nat) : Statement (.mbactDismiss core) := of_event rfl
theorem mbactUnassigned (core : Nat) : Statement (.mbactUnassigned core) := of_event rfl
theorem memread (src : DebugSource) : Statement (.memread src) := of_event rfl
theorem memwrite (src : DebugSource) : Statement (.memwrite src) := of_event rfl
theorem regread (src : DebugSource) : Statement (.regread src) := of_event rfl
theorem regwrite (src : DebugSource) : Statement (.regwrite src) := of_event rfl
theorem srread (src : DebugSource) : Statement (.srread src) := of_event rfl
theorem srwrite (src : DebugSource) : Statement (.srwrite src) := of_event rfl
theorem fuseread (src : DebugSource) : Statement (.fuseread src) := of_event rfl
theorem fuseblow (src : DebugSource) : Statement (.fuseblow src) := of_event rfl
theorem gensecret (src : DebugSource) : Statement (.gensecret src) := of_event rfl
theorem cmdport (src : DebugSource) : Statement (.cmdport src) := of_event rfl
theorem extest (dr : List Bool) : Statement (.extest dr) := of_event rfl
theorem samplePreload (pins dr : List Bool) : Statement (.samplePreload pins dr) := of_event rfl
theorem dbgreq (dr : BitVec 192) : Statement (.dbgreq dr) := of_event rfl
theorem bypass (code : BitVec 8) : Statement (.bypass code) := of_event rfl
theorem recoveryGo (addr len : W64) : Statement (.recoveryGo addr len) := of_event rfl
theorem recoveryFetchComplete (failed : Bool) : Statement (.recoveryFetchComplete failed) := of_event rfl
theorem hostTailSnoop (queue : Nat) (writes : List (Nat × Byte)) : Statement (.hostTailSnoop queue writes) := of_event rfl
theorem hostQueueRecordHandoff (queue : Nat) : Statement (.hostQueueRecordHandoff queue) := of_event rfl
theorem hostRequestRecord (queue : Nat) : Statement (.hostRequestRecord queue) := of_event rfl
theorem placementAgeBlock (cluster : Nat) : Statement (.placementAgeBlock cluster) := of_event rfl
theorem waveDrop (core slot : Nat) : Statement (.waveDrop core slot) := of_event rfl
theorem compactionCopy (core slot : Nat) : Statement (.compactionCopy core slot) := of_event rfl
theorem compactionHoldTimeout (core slot : Nat) : Statement (.compactionHoldTimeout core slot) := of_event rfl
theorem waveRestart (core entry slot : Nat) : Statement (.waveRestart core entry slot) := of_event rfl
theorem loadReturn (id : Nat) : Statement (.loadReturn id) := of_event rfl
theorem storePerformed (id : Nat) : Statement (.storePerformed id) := of_event rfl
theorem pageWalkComplete (cluster : Nat) : Statement (.pageWalkComplete cluster) := of_event rfl
theorem shootdownReceipt (cluster id : Nat) : Statement (.shootdownReceipt cluster id) := of_event rfl
theorem shootdownAck (cluster id : Nat) : Statement (.shootdownAck cluster id) := of_event rfl
theorem atomHomePerform (id : Nat) : Statement (.atomHomePerform id) := of_event rfl
theorem redmApply (id : Nat) : Statement (.redmApply id) := of_event rfl
theorem replicaUpdate (die : Nat) : Statement (.replicaUpdate die) := of_event rfl
theorem hostMemoryAccess (a : HostAccess) : Statement (.hostMemoryAccess a) := of_event rfl
theorem waitcmpTimeout (w : SliceRef) : Statement (.waitcmpTimeout w) := of_event rfl
theorem fullEmptyProceed (w : SliceRef) : Statement (.fullEmptyProceed w) := of_event rfl
theorem mailboxAppend (core : Nat) : Statement (.mailboxAppend core) := of_event rfl
theorem sramUncorrectableError (site : SramSite) : Statement (.sramUncorrectableError site) := of_event rfl
theorem kernelResultReturn (w : SliceRef) : Statement (.kernelResultReturn w) := of_event rfl
theorem timerExpiry (cluster index : Nat) : Statement (.timerExpiry cluster index) := of_event rfl
theorem wswaitTimeout (w : SliceRef) : Statement (.wswaitTimeout w) := of_event rfl
theorem waitSetMemberReady (set : Nat) : Statement (.waitSetMemberReady set) := of_event rfl
theorem graphNodeComplete (launch : Nat) : Statement (.graphNodeComplete launch) := of_event rfl
theorem coalescerHoldExpiry (vector : Nat) : Statement (.coalescerHoldExpiry vector) := of_event rfl
theorem copyDisplace (cluster engine : Nat) : Statement (.copyDisplace cluster engine) := of_event rfl
theorem wldLoadComplete (core slot w : Nat) : Statement (.wldLoadComplete core slot w) := of_event rfl
theorem gangBoost (core slot slice : Nat) : Statement (.gangBoost core slot slice) := of_event rfl
theorem sampleTake (core slot : Nat) : Statement (.sampleTake core slot) := of_event rfl
theorem packetReceive (port : Nat) (p : Packet) : Statement (.packetReceive port p) := of_event rfl
theorem bridgeForward (port : Nat) (p : Packet) (failed : Bool) : Statement (.bridgeForward port p failed) := of_event rfl
theorem stompedNoticeReceive (dst vc seq : Nat) : Statement (.stompedNoticeReceive dst vc seq) := of_event rfl
theorem nackReceive (dst vc seq : Nat) : Statement (.nackReceive dst vc seq) := of_event rfl
theorem resendTimeout (dst vc seq : Nat) : Statement (.resendTimeout dst vc seq) := of_event rfl
theorem fabricResponseReceive (dst vc seq : Nat) (r : PeerReply) : Statement (.fabricResponseReceive dst vc seq r) := of_event rfl
theorem bufferBankRetire (port bank : Nat) : Statement (.bufferBankRetire port bank) := of_event rfl
theorem accessTableUpdate (id : TableWork) : Statement (.accessTableUpdate id) := of_event rfl
theorem grantEntryRemoveAck (id : Nat) : Statement (.grantEntryRemoveAck id) := of_event rfl
theorem ringReadyMarkReceive (m : ReadyMark) : Statement (.ringReadyMarkReceive m) := of_event rfl
theorem rotjoinTimeout (w : SliceRef) : Statement (.rotjoinTimeout w) := of_event rfl
theorem ringBlockInject (ring index : Nat) : Statement (.ringBlockInject ring index) := of_event rfl
theorem ringReservationReceive (ring index : Nat) : Statement (.ringReservationReceive ring index) := of_event rfl
theorem ringBlockPacketReceive (ring index : Nat) (data : RingPacket) : Statement (.ringBlockPacketReceive ring index data) := of_event rfl
theorem ringIndexFree (ring index : Nat) : Statement (.ringIndexFree ring index) := of_event rfl
theorem aeBlockConsume (cluster : Nat) : Statement (.aeBlockConsume cluster) := of_event rfl
theorem aewaitTimeout (w : SliceRef) : Statement (.aewaitTimeout w) := of_event rfl
theorem rotendComplete (w : SliceRef) : Statement (.rotendComplete w) := of_event rfl
theorem ringFailureNotice (ringid : W32) (code : BitVec 8) : Statement (.ringFailureNotice ringid code) := of_event rfl
theorem xkickQueuePlace (w : SliceRef) : Statement (.xkickQueuePlace w) := of_event rfl
theorem cliqueFormation (size chip : Nat) (ports : List (Nat × Nat)) : Statement (.cliqueFormation size chip ports) := of_event rfl
theorem cxlHostLinkBringup (base bytes : Nat) : Statement (.cxlHostLinkBringup base bytes) := of_event rfl
theorem debugDoorbellWrite (req : BitVec 192) : Statement (.debugDoorbellWrite req) := of_event rfl
theorem cxlCacheSnoop (line : Nat) : Statement (.cxlCacheSnoop line) := of_event rfl
theorem stallCycle (core slot : Nat) : Statement (.stallCycle core slot) := of_event rfl
theorem tret : Statement (.tret) := of_full_a rfl
theorem keywipeComplete : Statement (.keywipeComplete) := of_event rfl
theorem cmdShootdown : Statement (.cmdShootdown) := of_event rfl
theorem cmdSetHandleTable : Statement (.cmdSetHandleTable) := of_event rfl
theorem cmdCreateProcess : Statement (.cmdCreateProcess) := of_event rfl
theorem cmdEndProcess : Statement (.cmdEndProcess) := of_event rfl
theorem cmdSetHostQueue : Statement (.cmdSetHostQueue) := of_event rfl
theorem cmdSetVector : Statement (.cmdSetVector) := of_event rfl
theorem cmdInstallKey : Statement (.cmdInstallKey) := of_event rfl
theorem cmdAttest : Statement (.cmdAttest) := of_event rfl
theorem cmdTraceRing : Statement (.cmdTraceRing) := of_event rfl
theorem cmdSetStops : Statement (.cmdSetStops) := of_event rfl
theorem cmdResume : Statement (.cmdResume) := of_event rfl
theorem cmdCounterSnapshot : Statement (.cmdCounterSnapshot) := of_event rfl
theorem cmdFuseblow : Statement (.cmdFuseblow) := of_event rfl
theorem cmdGensecret : Statement (.cmdGensecret) := of_event rfl
theorem cmdEventRing : Statement (.cmdEventRing) := of_event rfl
theorem fuseBlowComplete : Statement (.fuseBlowComplete) := of_event rfl
theorem idcode : Statement (.idcode) := of_event rfl
theorem dbgrsp : Statement (.dbgrsp) := of_event rfl
theorem testLogicReset : Statement (.testLogicReset) := of_event rfl
theorem resetRelease : Statement (.resetRelease) := of_event rfl
theorem powerFaultHold : Statement (.powerFaultHold) := of_event rfl
theorem hostClearCondition : Statement (.hostClearCondition) := of_event rfl
theorem entropyHealthFail : Statement (.entropyHealthFail) := of_event rfl

end Sys2Proof.Laws.Coding
end

