-- ==== Sys2Proof/Tests/Slice0.lean ====
section
/-!
SUPPORT. Own tests: words decoded, ill-formed instructions refused, single steps, and for every statement with hypotheses a
state and operands that meet them.
-/

namespace Sys2Proof.Tests

open Sys2Proof Machine Claim

/-! ### Small states -/

/-- The supervisor wave of core 0, and a state in which the slices ks of the wave x in its slot issue.  The wave's process has a
table at 0x1000 that stands for every level: address 0x1000 is HBM's frame 0x10000, address 0x2000 the host's frame 0, and the 2 MiB
from 0x600000 are HBM's first; its team has all the core's scratch. -/
def boss : Wave := supervisorWave 0 0 {}
def pages : Memory :=
  [(0x0004, 0x01), (0x1001, 0x14), (0x1008, 0x70), (0x1009, 0x08), (0x100A, 0x01), (0x1010, 0x70), (0x1011, 0x08), (0x1017, 0x20)] ++
  [(0x1018, 0x70), (0x1019, 0x08), (0x10802, 0x60)]
def demoProcess : Process :=
  { root := 0x1000, secure := true, supervisor := true, table := [(1, { used := true, rights := 1, gen := 0, index := 1 })] }
def demoTeam : Team := { launch := 0, teamid := 0, core := 0, pair := false, base := 0, size := 524288, members := 1 }
def demo (x : Wave) (ks : List Nat) (prompt : Bool) : State :=
  { phase := .running, now := { core := 0, slot := 63, slices := ks, prompt, word := 0 }
    objects := [(0, { body := .process demoProcess, refs := 1, owner := 0 }), (1, controlPort)], teams := [(0, demoTeam)], hbm := pages
    cores := [(0, { istore := [oneWordSegment 0], waves := [(63, x)] })] }

/-- The wave with slice 0 changed. -/
def with0 (f : Slice → Slice) : Wave := { boss with slices := [(0, f (freshSlice 4 {})), (1, freshSlice 4 {}), (2, freshSlice 4 {}), (3, freshSlice 4 {})] }
/-- s registers, and v registers in every lane, of slice 0. -/
def regs (l : List (Nat × W32)) : Wave := with0 (fun sl => { sl with s := l })
def vregs (l : List (Nat × W32)) : Wave :=
  with0 (fun sl => { sl with v := l.flatMap (fun r => (List.range 4).map (fun i => (4 * r.1 + i, r.2))) })

theorem ready_demo (f : Slice → Slice) (hf : (f (freshSlice 4 {})).Quiet) (p : Bool) (ks : List Nat) (h : ks = [0] ∨ ks = [0, 1, 2, 3]) :
    Ready (demo (with0 f) ks p) (with0 f) := by
  have q : (freshSlice 4 {}).Quiet := ⟨rfl, rfl, rfl⟩
  rcases h with rfl | rfl
  · refine ⟨rfl, show ([0] : List Nat) ≠ [] by decide, show [0].Nodup by decide, ?_, rfl, rfl⟩
    intro k hk
    obtain rfl : k = 0 := List.mem_singleton.1 hk
    exact ⟨_, rfl, hf⟩
  · refine ⟨rfl, show ([0, 1, 2, 3] : List Nat) ≠ [] by decide, show [0, 1, 2, 3].Nodup by decide, ?_, rfl, rfl⟩
    intro k (hk : k ∈ [0, 1, 2, 3])
    have : k = 0 ∨ k = 1 ∨ k = 2 ∨ k = 3 := by simpa using hk
    rcases this with rfl | rfl | rfl | rfl
    · exact ⟨_, rfl, hf⟩
    · exact ⟨_, rfl, q⟩
    · exact ⟨_, rfl, q⟩
    · exact ⟨_, rfl, q⟩

theorem ready1 : Ready (demo (with0 id) [0] false) (with0 id) := ready_demo id ⟨rfl, rfl, rfl⟩ _ _ (.inl rfl)
theorem ready4 : Ready (demo (with0 id) [0, 1, 2, 3] false) (with0 id) := ready_demo id ⟨rfl, rfl, rfl⟩ _ _ (.inr rfl)
theorem ready_regs (l : List (Nat × W32)) (p : Bool) : Ready (demo (regs l) [0] p) (regs l) := ready_demo _ ⟨rfl, rfl, rfl⟩ _ _ (.inl rfl)

/-! ### Decoding: words written out from the spec's encodings (01 R22, R23, R33, and the entry of each instruction) -/

/-- The dual word of 01 R33 with a guard on its half Y. -/
theorem test_decode_dual_guard : decode 0x804209010F061688 = .instr (.dualIadd
    { first := 4, second := 9, pred := 0, neg := false, tym := 1, last := false }
    { op := .fmul, f := { first := 6, second := 11, pred := 2, neg := false, tym := 4, last := false } }) := by decide
/-- A plain load with a policy register (02 R59, R60), a store, and the scratch forms. -/
theorem test_decode_memory :
    decode 0x6100002232500040 = .instr (.ldGB32 { look := 0, g := none, data := .v 8, base := .s 12, policy := 20, off := 64 })
    ∧ decode 0x63C0001212000010 = .instr (.stGB32 { look := 0, g := none, data := .v 4, base := .s 4, policy := 0, off := 16 })
    ∧ decode 0x64C0020606000000 = .instr (.stSB32 { look := 0, g := none, data := .s 1, base := .s 1, policy := 0, off := 0 })
    ∧ decode 0x6280020E0A000000 = .instr (.ldSB32 { look := 0, g := none, data := .s 3, base := .s 2, policy := 0, off := 0 }) := by decide
/-- MOVX, REDL and MDRAIN (02 R56, 04 R127, 14 R287). -/
theorem test_decode_lanes :
    decode 0x06400014001C0018 = .instr (.movx { g := none, dir := .read 5, idx := .v 7, off := 3 })
    ∧ decode 0x1400081824000020 = .instr (.redl { look := 2, g := none, d := 6, a := 9, last := false, seg := 0, ty := .f32, op := 0 })
    ∧ decode 0x2A00000232180083 = .instr (.mdrain { d := 0, quad := 3, max := some (3, .dv), target := .bf16, scale := 0, wide := false, space := .global }) := by
  decide
/-- Kernel instructions (17 R307, R308), and those of rings (21 R373). -/
theorem test_decode_kernel :
    decode 0x3080022232500200 = .instr (.precv { g := none, d := 4, quad := 3, landing := some 10, flag := true })
    ∧ decode 0x32C0021A08000000 = .instr (.nslook { g := none, d := 3, a := 1 })
    ∧ decode 0x33A382622E4E4C00 = .instr (.gcond { g := some { pred := 7, neg := false }, d := 12, a := 11, b := 19, c := 19, kind := .set })
    ∧ decode 0x33E3C00254000200 = .instr (.hint { g := some { pred := 7, neg := true }, a := 21, flush := true })
    ∧ decode 0x344002222C000300 = .instr (.oinfo { g := none, d := 4, a := 11, sel := 3 })
    ∧ decode 0x3400026258000000 = .instr (.launch { g := none, d := 12, a := 11 })
    ∧ decode 0x368002220A140200 = .instr (.aearm { g := none, d := 4, a := 2, b := 5, flag := true }) := by decide
/-- Control words in full B (02 R73, R74). -/
theorem test_decode_control :
    decode 0x59C00000000000FF = .instr (.regang { g := none, slices := 0xFF })
    ∧ decode 0x5B000000000000C7 = .instr (.enter { g := none, imm := 0xC7 }) := by decide

/-! ### Ill-formed instructions are refused -/

def src (r : Reg) : Src := { reg := r, last := false }
def marked (r : Reg) : Src := { reg := r, last := true }
def two (d a b : Reg) (ty : Ty) : Alu2 := { look := 0, g := none, d, a := src a, b := src b, ty, rnd := .rne, sat := false }
def half (op : DualOp) (first second : BitVec 7) (tym : BitVec 4) : DualHalf :=
  { op, f := { first, second, pred := 0, neg := false, tym, last := false } }

/-- A type, a rounding or a saturation that the opcode lacks, and a lookahead. -/
theorem wf_refuses_modifier : (Instr.iadd (two (.v 1) (.v 2) (.v 3) .f32)).wf = false
    ∧ (Instr.iadd { two (.v 1) (.v 2) (.v 3) .n32 with rnd := .rz }).wf = false
    ∧ (Instr.imin { two (.v 1) (.v 2) (.v 3) .n32 with sat := true }).wf = false
    ∧ (Instr.iadd { two (.v 1) (.v 2) (.v 3) .n32 with look := 1 }).wf = false
    ∧ (Instr.idiv { two (.v 1) (.q 2) (.v 3) .n32 with look := 1 }).wf = false := by decide
/-- An odd register in a field of 64 bits, a mark on a queue, a queue twice, and a v source with an s destination. -/
theorem wf_refuses_register : (Instr.iadd (two (.v 1) (.v 2) (.v 4) .n64)).wf = false
    ∧ (Instr.iadd { two (.v 1) (.v 2) (.v 4) .n32 with a := marked (.q 1) }).wf = false
    ∧ (Instr.iadd (two (.v 1) (.q 2) (.q 2) .n32)).wf = false
    ∧ (Instr.iadd (two (.s 1) (.v 2) (.s 4) .n32)).wf = false
    ∧ (Instr.lea { g := none, d := .v 1, a := src (.v 2), b := src (.v 4), sh := 0, signed := false }).wf = false
    ∧ (Instr.mov { look := 0, g := none, d := .v 1, a := marked (.v 2), ty := .b32, rnd := .rne, sat := false }).wf = false
    ∧ (Instr.fscale (two (.v 1) (.v 2) (.q 4) .f32)).wf = false := by decide
/-- A shift count of 32, types that comparisons and picks lack, a queue where none may stand, and a conversion beyond 0x3B. -/
theorem wf_refuses_operand : (Instr.shlImm { g := none, d := .v 1, a := .v 2, imm := 32 }).wf = false
    ∧ (Instr.icmp { g := none, d := 1, a := src (.v 2), b := src (.v 3), ty := .f32, cond := .eq }).wf = false
    ∧ (Instr.pick { g := none, d := .v 1, a := src (.v 2), b := src (.v 3), c := 1, ty := .n32 }).wf = false
    ∧ (Instr.movx { g := none, dir := .read 5, idx := .q 1, off := 0 }).wf = false
    ∧ (Instr.fclass { g := none, d := 1, a := src (.v 2), b := src (.q 1), ty := .f32 }).wf = false
    ∧ (Instr.cvt { g := none, d := .v 1, a := .v 2, b := none, c := none, last := false, code := 0x3C, rnd := .rne, sat := false }).wf = false
    ∧ (Instr.shfl { look := 0, g := none, d := 1, a := 2, aLast := false, b := src (.v 3), ty := .b32, seg := 5 }).wf = false
    ∧ (Instr.redl { look := 0, g := none, d := 1, a := 2, last := false, seg := 0, ty := .s16x2, op := 0 }).wf = false
    ∧ (Instr.brx { g := none, a := src (.q 1) }).wf = false := by decide
/-- Unassigned special registers, memory fields, atomics, paths, matrix words and flags of kernel words. -/
theorem wf_refuses_field : (Instr.rsr { g := none, d := .pair 1, num := 0x00F }).wf = false
    ∧ (Instr.rsr { g := none, d := .pair 1, num := 0x009 }).wf = false
    ∧ (Instr.ldGB32 { look := 0, g := none, data := .q 1, base := .s 12, policy := 0, off := 0 }).wf = false
    ∧ (Instr.ldGB32 { look := 0, g := none, data := .v 1, base := .s 11, policy := 0, off := 0 }).wf = false
    ∧ (Instr.stGB32 { look := 1, g := none, data := .v 1, base := .s 12, policy := 0, off := 0 }).wf = false
    ∧ (Instr.atom { g := none, d := .v 6, a := .v 2, b := .v 9, c := none, kind := .cas, ty := .n32, space := .global, scope := .dv }).wf = false
    ∧ (Instr.atom { g := none, d := .v 6, a := .v 2, b := .v 9, c := none, kind := .add, ty := .b32, space := .global, scope := .dv }).wf = false
    ∧ (Instr.waitc { g := none, a := 1, last := false, path := 6 }).wf = false
    ∧ (Instr.mma { d := 2, a := 1, b := 3, c := 8, last := false, acc := .f32, sat := true }).wf = false
    ∧ (Instr.mdrain { d := 0, quad := 3, max := none, target := .bf16, scale := 1, wide := false, space := .global }).wf = false
    ∧ (Instr.pref { g := none, base := .v 1, policy := 0, off := 0 }).wf = false := by decide
/-- Dual halves: an immediate with a mark, fields of an unused half, v from s, two sources in one bank, one destination twice. -/
theorem wf_refuses_dual : (half .mov 1 2 0).wf = false ∧ (half .nop 1 0 0).wf = false ∧ (half .iadd 0x41 2 0).wf = false
    ∧ (half .shli 1 32 0).wf = false ∧ (half .pand 1 2 1).wf = false
    ∧ dualWf (half .iadd 4 9 1) (half .fmul 8 11 4) = false ∧ dualWf (half .iadd 4 9 1) (half .fmul 4 11 4) = false
    ∧ dualWf (half .mov 4 9 14) (half .mov 4 11 14) = false := by decide
/-- The same words are refused by the decoder: the queue read twice, and the odd pair. -/
theorem test_decode_refuses : decode ((encode (.iadd (two (.v 1) (.q 2) (.q 2) .n32))).getD 0) = .illegal 0x02
    ∧ decode ((encode (.iadd (two (.v 1) (.v 2) (.v 4) .n64))).getD 0) = .illegal 0x02 := by decide


/-! ### Every statement's hypotheses are met: lanes, control, special registers -/

def a1 : Alu1 := { look := 0, g := none, d := .v 1, a := { reg := .v 2, last := false }, ty := .f32, rnd := .rne, sat := false }
def a2 : Alu2 := { look := 0, g := none, d := .v 1, a := { reg := .v 2, last := false }, b := { reg := .s 63, last := false }, ty := .f32,
                   rnd := .rne, sat := false }
def a3 : Alu3 := { look := 0, g := none, d := .v 63, a := { reg := .v 2, last := false }, b := { reg := .v 3, last := false },
                   c := { reg := .s 4, last := false }, ty := .f32, rnd := .rne, sat := false }
def aI : AluI := { g := none, d := .v 1, a := .v 63, imm := 1 }

theorem fields_of {x : Wave} {fs : List (Reg × Bool)} (h : fs.all (fun f => qNum? f.1 = none && (vNums f.1 f.2).all (· < x.allot)) = true) :
    x.Fields fs := by
  intro f hf
  have := List.all_eq_true.1 h f hf
  simpa [List.all_eq_true] using this

theorem witness_arithmetic : ok1 boss a1 false ∧ ok1 boss { a1 with ty := .s64, d := .v 62, a := { reg := .v 60, last := false } } true
    ∧ ok2 boss a2 false ∧ ok3 boss a3 ∧ okI boss aI :=
  ⟨fields_of (by decide), fields_of (by decide), fields_of (by decide), fields_of (by decide), fields_of (by decide)⟩
/-- IntegerArithmeticCompletes, LogicAndShiftCompletes, CompareAndMoveCompletes, FloatCompletes and SpecialFunctionCompletes. -/
theorem witness_lanes : Ready (demo (with0 id) [0, 1, 2, 3] false) (with0 id) ∧ ok1 (with0 id) a1 false ∧ ok2 (with0 id) a2 false
    ∧ ok3 (with0 id) a3 ∧ okI (with0 id) aI :=
  ⟨ready4, fields_of (by decide), fields_of (by decide), fields_of (by decide), fields_of (by decide)⟩
/-- MOVX with an index at each end of the allotment. -/
theorem witness_movx (n : Nat) (h : n = 0 ∨ n = 63) : let x := vregs [(2, BitVec.ofNat 32 n)]
    Ready (demo x [0] false) x ∧ (∀ l, l < 4 → n < 128 ∧ n < x.allot
      ∧ (low ((x.slice 0).field (.v 2) false l)).toInt + (0#7).toInt = (n : Int)) := by
  have hl : ∀ l, l < 4 → l = 0 ∨ l = 1 ∨ l = 2 ∨ l = 3 := by omega
  rcases h with rfl | rfl <;>
    exact ⟨ready_demo _ ⟨rfl, rfl, rfl⟩ _ _ (.inl rfl), fun l hl' => by rcases hl l hl' with rfl | rfl | rfl | rfl <;> decide⟩

theorem test_iadd_wraps : intVal intAdd .s32 false 0x7FFFFFFF 1 0 = 0x80000000 := by decide
theorem test_iadd_saturates : intVal intAdd .s32 true 0x7FFFFFFF 1 0 = 0x7FFFFFFF := by decide
/-- Shift counts are taken modulo the width (02 R47). -/
theorem test_shift_by_width : shlVal 32 false 0x1 33 = 2 := by decide

/-- CrossLaneCompletes: the four slices of a 16-lane wave. -/
theorem witness_cross : let x := with0 id
    Ready (demo x [0, 1, 2, 3] false) x ∧ (∀ k, (x.slice k).Quiet) ∧ Together (demo x [0, 1, 2, 3] false) x 64
    ∧ Together (demo x [0, 1, 2, 3] false) x 4 := by
  refine ⟨ready4, ?_, ?_, ?_⟩
  · intro k
    rcases k with _ | _ | _ | _ | k <;> exact ⟨rfl, rfl, rfl⟩
  · intro k (hk : k ∈ [0, 1, 2, 3])
    have : k = 0 ∨ k = 1 ∨ k = 2 ∨ k = 3 := by simpa using hk
    rcases this with rfl | rfl | rfl | rfl <;> decide
  · intro k (hk : k ∈ [0, 1, 2, 3])
    have : k = 0 ∨ k = 1 ∨ k = 2 ∨ k = 3 := by simpa using hk
    rcases this with rfl | rfl | rfl | rfl <;> decide

/-- DualWordCompletes. -/
theorem witness_dual : let f : HalfFields := { first := 4, second := 9, pred := 0, neg := false, tym := 1, last := false }
    Ready (demo (with0 id) [0] false) (with0 id)
    ∧ (Instr.dualIadd f { op := .fmul, f }, DualOp.iadd) ∈ dualWords f { op := .fmul, f }
    ∧ (with0 id).Fields ((halfShape .iadd f).fields ++ (halfShape .fmul f).fields) :=
  ⟨ready1, by simp [dualWords], fields_of (by decide)⟩

/-- BranchesComplete, MarkersComplete and NopAndYield. -/
theorem witness_branches : Ready (demo (with0 id) [0, 1, 2, 3] true) (with0 id) ∧ (with0 id).Fields [(.v 63, false)] :=
  ⟨ready_demo id ⟨rfl, rfl, rfl⟩ _ _ (.inr rfl), fields_of (by decide)⟩
theorem witness_yield : ∃ (s : State) (a b : Candidate), a.cls = b.cls ∧ a.gang.boosted = false ∧ b.gang.boosted = false
    ∧ b.gang.age = s.serial ∧ a.gang.age < s.serial :=
  ⟨{ serial := 1 }, { slot := 0, cls := 0, gang := { slices := [0], age := 0 } }, { slot := 1, cls := 0, gang := { slices := [0], age := 1 } },
    rfl, rfl, rfl, rfl, by decide⟩

/-- EdgesComplete: a slice in a handler, its segment in the store, nothing deferred and no pass. -/
theorem edged_demo (f : Slice → Slice) (hf : (f (freshSlice 4 {})).deferred = []) (p : Bool) :
    Edged (demo (with0 f) [0] p) (with0 f) := by
  intro k hk
  obtain rfl : k = 0 := List.mem_singleton.1 hk
  exact ⟨hf, rfl⟩
theorem witness_edges : let x := with0 (fun sl => { sl with handler := some 15#4 })
    let s := demo x [0] false
    Ready s x ∧ Edged s x ∧ (s.core s.now.core).hasSegment x.image 0 = true
    ∧ ∀ k ∈ s.now.slices, (x.slice k).handler.isSome ∧ (s.core s.now.core).hasSegment x.image (x.slice k).tpc.seg = true := by
  refine ⟨ready_demo _ ⟨rfl, rfl, rfl⟩ _ _ (.inl rfl), edged_demo _ rfl _, by decide, ?_⟩
  intro k hk
  obtain rfl : k = 0 := List.mem_singleton.1 hk
  decide

/-- SpecialRegisterAccessCompletes, and ActingRegistersComplete: the supervisor of a secure process may use every register. -/
theorem witness_special : let s := demo (with0 id) [0] true
    Ready s (with0 id) ∧ Edged s (with0 id) ∧ (with0 id).lanes none 0 ≠ []
    ∧ [0x006, 0x106, 0x10A, 0x041].all (fun n => s.srFault (with0 id) n false = none) = true
    ∧ [0x000, 0x04A, 0x107, 0x108, 0x109, 0x050, 0x051].all (fun n => s.srFault (with0 id) n true = none) = true
    ∧ s.security.entropyFailed = false ∧ s.security.dbgOk 0 = true ∧ s.now.prompt = true :=
  ⟨ready_demo id ⟨rfl, rfl, rfl⟩ _ _ (.inl rfl), edged_demo id rfl _, by decide, by decide, by decide, rfl, by decide, rfl⟩
/-- mbwait with a record waiting, and measure of a record in the capability list. -/
theorem witness_acting : ((({ demo (with0 id) [0] true with cores := [(0, { waves := [(63, with0 id)], mailbox := [{ kind := 4 }] })] } : State).core 0).mailbox ≠ [])
    ∧ (∃ r, (demo (with0 id) [0] true).readVirtual ((demo (with0 id) [0] true).asker (with0 id) 0 false)
        (((0x80000000000000#64).setWidth 56 : BitVec 56).signExtend 64 : W64).toNat 64 = .ok r)
    ∧ ∃ t, (demo (with0 id) [0] true).reprioByName 0 0x7FC000 = some t :=
  ⟨by decide, ⟨_, rfl⟩, ⟨_, rfl⟩⟩
/-- SpecialRegisterAccessTraps: a user wave, and a register that only supervisors write. -/
theorem witness_special_traps : let x := { with0 id with supervisor := false, process := 5 }
    let s := demo x [0] false
    Ready s x ∧ Edged s x ∧ s.srFault x 0x041 false = some 0x21 ∧ s.srFault x 0x108 true = some 0x23
    ∧ isSecureSr 0x108 = true ∧ s.secureWave x = false ∧ isSupervisorSr 0x040 = true := by
  refine ⟨⟨rfl, by decide, by decide, ?_, rfl, rfl⟩, ?_, by decide, by decide, by decide, by decide, by decide⟩
  · intro k hk
    obtain rfl : k = 0 := List.mem_singleton.1 hk
    exact ⟨_, rfl, rfl, rfl, rfl⟩
  · intro k hk
    obtain rfl : k = 0 := List.mem_singleton.1 hk
    exact ⟨rfl, rfl⟩
/-- ServiceCallCompletes, and RegbaseReads at the last unit. -/
theorem witness_service : let x := { with0 id with base := 16383 }
    let s := demo x [0] false
    Ready s x ∧ Edged s x ∧ x.lanes none 0 ≠ [] ∧ (s.core 0).mailbox.length < 64 ∧ (s.core 0).heldMail = [] ∧ x.base < 16384
    ∧ x.allot ∈ [16, 32, 64, 128] := by
  refine ⟨⟨rfl, by decide, by decide, ?_, rfl, rfl⟩, ?_, by decide, by decide, rfl, by decide, by decide⟩
  · intro k hk
    obtain rfl : k = 0 := List.mem_singleton.1 hk
    exact ⟨_, rfl, rfl, rfl, rfl⟩
  · intro k hk
    obtain rfl : k = 0 := List.mem_singleton.1 hk
    exact ⟨rfl, rfl⟩

/-! ### Memory and synchronising instructions -/

def opM (d : Nat) : MemOp := { look := 0, g := none, data := .v 1, base := .s (BitVec.ofNat 6 d), policy := 0, off := 0 }
/-- LoadsAndStoresIssue: LD.G.B32 from 0x1000, and ST.G.B64 at the last 8 bytes of that page with a release and all its needs met. -/
theorem witness_load : let x := regs [(2, 0x1000)]
    let s := demo x [0] false
    let m : MemForm := { load := true, space := .hbm, bytes := 4 }
    ∃ ps, (Instr.ldGB32 (opM 2), m) ∈ memForms (opM 2) ∧ Ready s x ∧ x.Fields (MemOp.shape (opM 2) m).fields
      ∧ workLanes (x.slice 0) none (onceFor (.v 1)) ≠ [] ∧ polBad 0 true = false ∧ polOrder 0 = 0
      ∧ workLanes ((with0 (fun sl => { sl with mask := 0 })).slice 0) none (onceFor (.v 1)) = []
      ∧ laneParts (fun l => s.partsFor x s.now.core l (memAddr x 0 (opM 2) m l) 4 .hbm (s.asker x s.now.core false))
          (memAddr x 0 (opM 2) m) [0, 1, 2, 3] = .ok ps
      ∧ s.acquireAhead 0 63 0 = none ∧ x.counter 0 < 255 ∧ ps.any (fun p => p.2.isSome && s.walkerFull 0 x.process p.1.va) = false :=
  ⟨_, by simp [memForms], ready_regs _ _, fields_of (by decide), by decide, by decide, by decide, by decide, rfl, rfl, by decide, by decide⟩
theorem witness_store : let x := regs [(0, 0x2A), (2, 0x1FF8)]
    let s := demo x [0] false
    let m : MemForm := { load := false, space := .hbm, bytes := 8 }
    let o := { opM 2 with data := .v 62 }
    let pol := (x.slice 0).raw (.s o.policy.toNat)
    ∃ ps, (Instr.stGB64 o, m) ∈ memForms o ∧ Ready s x ∧ x.Fields (MemOp.shape o m).fields ∧ polBad pol false = false ∧ polOrder pol = 2
      ∧ (∀ l ∈ [0, 1, 2, 3], memAddr x 0 o m l % 8 = 0)
      ∧ laneParts (fun l => s.partsFor x s.now.core l (memAddr x 0 o m l) 8 .hbm (s.asker x s.now.core true))
          (memAddr x 0 o m) [0, 1, 2, 3] = .ok ps
      ∧ Edged s x ∧ s.drained 0 63 0 { loads := true, stores := true, redm := false, scope := scopeOf (polScope pol) } = true
      ∧ s.acquireAhead 0 63 0 = none ∧ x.counter 1 < 255 ∧ ps.any (fun p => p.2.isSome && s.walkerFull 0 x.process p.1.va) = false :=
  ⟨_, by simp [memForms], ready_regs _ _, fields_of (by decide), by decide, by decide, by decide, rfl, edged_demo _ rfl _, by decide, rfl,
    by decide, by decide⟩
/-- LoadIssueChangesNoMemory. -/
theorem witness_load_issue : let x := regs [(2, 0x1000)]
    let s := demo x [0] false
    s.now.prompt = false ∧ s.wave? s.now.core s.now.slot = some x ∧ Store.find? x.slices 0 = some (x.slice 0)
    ∧ ∀ p ∈ [(({ lane := 0, place := .hbm, addr := 0x10000, size := 4 } : Part), (none : Option Xlat))], p.1.place.isPeer = false :=
  ⟨rfl, rfl, rfl, by decide⟩

def flight (kind : Flight) (p : Part) : Access :=
  { core := 0, slot := 63, slice := 0, gen := 0, pc := {}, word := 0, path := some 1, kind, parts := [p], lanes := 1, process := 0, secure := true }
def hbmPart (a n : Nat) : Part := { lane := 0, place := .hbm, addr := a, size := n, data := List.replicate n 7, va := a }
def flying (kind : Flight) (p : Part) : State := { demo (with0 id) [0] false with inflight := [(0, flight kind p)], serial := 1 }
/-- StorePerformedStores: a store of the last byte of HBM, one at the end of a line, and one to host memory from the LLC. -/
theorem witness_store_performed (p : Part) (h : p = hbmPart (768 * 2 ^ 30 - 1) 1 ∨ p = hbmPart 120 8 ∨ p = { hbmPart 0x40 4 with place := .host, llc := true }) :
    let s := flying .store p
    let a := flight .store p
    Store.find? s.inflight 0 = some a ∧ a.slot < 64 ∧ a.returned = false ∧ s.partDue 0 a 0 p = true
    ∧ p.place.plain ∧ p.rep = false ∧ p.size = p.data.length ∧ s.worldOk true p.place p.addr = true
    ∧ (p.place = .host → p.llc = true) ∧ ∀ i, Store.find? s.stale i = none := by
  rcases h with rfl | rfl | rfl <;> exact ⟨rfl, by decide, rfl, by decide, trivial, rfl, rfl, by decide, by simp [hbmPart], fun _ => rfl⟩
/-- LoadReturnLands: from HBM, and from the scratchpad; the only part, and the last of two. -/
theorem witness_load_return (p : Place) (h : p = .hbm ∨ p = .scratch 0) :
    let q : Part := { hbmPart 0x10000 4 with place := p }
    let a := flight (.load (.v 1) false 4 false none) q
    let s := flying (.load (.v 1) false 4 false none) q
    Store.find? s.inflight 0 = some a ∧ a.returned = false ∧ a.cancelled = false ∧ a.parts[0]? = some q ∧ s.partDue 0 a 0 q = true := by
  rcases h with rfl | rfl <;> exact ⟨rfl, rfl, rfl, rfl, by decide⟩
theorem witness_load_return_last : let k : Flight := .load (.v 1) false 8 false none
    let q := hbmPart 0x10000 4
    let a : Access := { flight k q with parts := [{ q with addr := 0xFFFC, got := some (.data [1, 2, 3, 4]) }, q] }
    let s := { flying k q with inflight := [(0, a)] }
    Store.find? s.inflight 0 = some a ∧ a.parts[1]? = some q ∧ s.partDue 0 a 1 q = true
    ∧ ∀ j r, a.parts[j]? = some r → j ≠ 1 → r.place.isPeer = false ∧ r.copy = false ∧ ∃ bs, r.got = some (.data bs) := by
  refine ⟨rfl, rfl, by decide, fun j r h hj => ?_⟩
  rcases j with _ | _ | j
  · obtain rfl := Option.some.inj h
    exact ⟨rfl, rfl, _, rfl⟩
  · exact absurd rfl hj
  · exact absurd h (by simp)

/-- FencesAndCounterWaitsComplete, with PREF of a page. -/
theorem witness_fence : let x := regs [(2, 0x1000)]
    let s := demo x [0] false
    Ready s x ∧ (∀ k ∈ s.now.slices, x.lanes none k ≠ []
      ∧ s.drained s.now.core s.now.slot k { loads := true, stores := true, redm := true, scope := .sy } = true)
    ∧ x.Fields [(.s 2, true)] ∧ s.now.prompt = false ∧ polBad 0 true = false ∧ polOrder 0 = 0 ∧ s.walkerFull 0 x.process 0x1000 = false := by
  refine ⟨ready_regs _ _, ?_, fields_of (by decide), rfl, by decide, by decide, by decide⟩
  intro k hk
  obtain rfl : k = 0 := List.mem_singleton.1 hk
  decide
/-- BarriersComplete: a barrier in the last 16 bytes of the scratchpad; BINIT with the largest count and the least; and a decrement
that reaches zero, goes below it, and stays above. -/
theorem witness_barrier (n : W32) (h : n = 1 ∨ n = 0x7FFFFFFF) : let x := regs [(4, 0x7FFF0), (5, n)]
    let s := demo x [0] false
    Ready s x ∧ Edged s x ∧ s.acquireAhead 0 63 0 = none ∧ s.barrierAt x 0 15#4 ((x.slice 0).raw (.s 4)) = .ok (0, 0x7FFF0)
    ∧ (x.slice 0).raw (.s 5) ≠ 0 ∧ ((x.slice 0).raw (.s 5)).toNat < 2 ^ 31
    ∧ s.drained 0 63 0 { loads := true, stores := true, redm := false, scope := .tm } = true
    ∧ s.ownAccessAhead { core := 0, slot := 63, slice := 0 } { lane := 0, place := .scratch 0, addr := 0x7FFF0, size := 16 } = false := by
  rcases h with rfl | rfl <;> exact ⟨ready_regs _ _, edged_demo _ rfl _, rfl, rfl, by decide, by decide, by decide, by decide⟩
theorem witness_decrement : let b : Barrier := { count := 2, init := 2, phase := 65535, fault := false, fcode := 0 }
    b.phase < 65536 ∧ 0 < b.count - 1 ∧ b.count - 2 ≤ 0 ∧ b.count - 3 ≤ 0 ∧ 0 < b.init ∧ b.init < 2 ^ 31 := by decide
/-- The phase wraps (10 R213). -/
theorem test_barrier_wraps : (({ count := 2, init := 2, phase := 65535, fault := false, fcode := 0 } : Barrier).decrement 3).phase = 0
    ∧ (({ count := 2, init := 2, phase := 65535, fault := false, fcode := 0 } : Barrier).decrement 3).count = 1 := by decide
/-- AtomicsIssue: an atomic in scratch, a RED.M in HBM, a WAITCMP. -/
theorem witness_atomics : let x := with0 (fun sl => { sl with s := [(2, 0x1000)], v := [(8, 0x40), (9, 0x40), (10, 0x40), (11, 0x40)] })
    let s := demo x [0] false
    Ready s x ∧ Edged s x ∧ s.acquireAhead 0 63 0 = none ∧ x.counter 4 < 255
    ∧ (∃ ps, s.atomLanes (s.ctx x 0) [0, 1, 2, 3] (fun l => ((x.slice 0).field (.v 2) false l).toNat) 4 .scratch
        { s.asker x 0 true with redm := false } = .ok ps ∧ ps.any (fun p => p.2.isSome && s.walkerFull 0 x.process p.1.va) = false)
    ∧ (∃ ps, s.atomLanes (s.ctx x 0) [0, 1, 2, 3] (fun l => ((x.slice 0).field (.s 2) true l).toNat) 4 .global
        { s.asker x 0 true with redm := true } = .ok ps ∧ ps.any (fun p => p.2.isSome && s.walkerFull 0 x.process p.1.va) = false)
    ∧ s.drained 0 63 0 { loads := true, stores := true, redm := false, scope := .dv } = true :=
  ⟨ready_demo _ ⟨rfl, rfl, rfl⟩ _ _ (.inl rfl), edged_demo _ rfl _, rfl, by decide, ⟨_, rfl, by decide⟩, ⟨_, rfl, by decide⟩, by decide⟩

/-! ### Waits, segments, bindings, queues, profiling -/

def ref0 : SliceRef := { core := 0, slot := 63, slice := 0 }
def waiting (w : Wait) : Wave := with0 (fun sl => { sl with wait := some w })
def alone (x : Wave) : Wave := { x with slices := x.slices.take 1, gangs := [{ slices := [0], age := 0 }] }
/-- WaitsEnd: each kind of wait at its end. -/
theorem witness_waits :
    (let x := alone (waiting (.waitc 0 0))
      let s := demo x [0] false
      s.wave? 0 63 = some x ∧ (s.mates ref0).Nodup ∧ ∀ k ∈ s.mates ref0, ∃ path n, (x.slice k).wait = some (.waitc path n) ∧ x.counter path ≤ n)
    ∧ (let x := waiting (.fence { loads := true, stores := true, redm := true, scope := .sy })
      (x.slice 0).wait = some (.fence { loads := true, stores := true, redm := true, scope := .sy })
        ∧ (demo x [0] false).drained 0 63 0 { loads := true, stores := true, redm := true, scope := .sy } = true)
    ∧ (let x := waiting (.regang 1)
      ∀ j, j < 16 → (1#16).getLsbD j = true → (x.slice j).ended = true ∨ ((∃ m, (x.slice j).wait = some (.regang m)) ∧ (x.slice j).pc = (x.slice 0).pc))
    ∧ (let x := alone (waiting (.meeting 1))
      ∀ k ∈ x.meets 4 0, (x.slice k).wait = some (.meeting 1) ∧ (x.slice k).pc = (x.slice 0).pc)
    ∧ ((waiting .fullEmpty).slice 0).wait = some .fullEmpty := by
  refine ⟨⟨rfl, by decide, ?_⟩, ⟨rfl, by decide⟩, ?_, ?_, rfl⟩
  · intro k hk
    obtain rfl : k = 0 := by
      have : (demo (alone (waiting (.waitc 0 0))) [0] false).mates ref0 = [0] := by decide
      simpa [this] using hk
    exact ⟨0, 0, rfl, by decide⟩
  · intro x j hj h
    have : j = 0 := by
      rcases j with _ | j
      · rfl
      · simp at h
    subst this
    exact .inr ⟨⟨1, rfl⟩, rfl⟩
  · decide
/-- BWAIT on a barrier whose phase has moved on, and WAITCMP with a lane satisfied, or with one whose time has passed. -/
theorem witness_bwait : let x := alone (waiting (.bwait 0x40 1 3 .tm))
    let s := demo x [0] false
    s.wave? 0 63 = some x ∧ s.mates ref0 = [0] ∧ s.scratch x.team 0 0x40 16 = .ok (.scratch 0, 0x40) ∧ (s.readBarrier 0 0x40).phase ≠ 1
    ∧ s.ownWriteAhead ref0 { lane := 0, place := .scratch 0, addr := 0x40, size := 16 } = false :=
  ⟨rfl, by decide, rfl, by decide, by decide⟩
theorem witness_monitor : let m : Monitor := { d := .v 1, space := .scratch, cond := .eq, ty := .n32, scope := .tm, lanes := [(0, 0x40, 0)], start := 0, timeout := 0 }
    let x := alone (waiting (.monitor m))
    let s := demo x [0] false
    s.mates ref0 = [0] ∧ (∃ m' t, s.readMonitor ref0 x m = .ok (m', t) ∧ ∀ l ∈ m'.lanes, ∃ v, Store.find? m'.got l.1 = some (true, v)) := by
  refine ⟨by decide, _, _, rfl, ?_⟩
  intro l hl
  obtain rfl : l = (0, 0x40, 0) := List.mem_singleton.1 hl
  exact ⟨_, rfl⟩
/-- The monitors of the issue it stands in: its own alone, satisfied, with no shared register to wait for. -/
theorem witness_monitor_group : let n : Monitor := { d := .v 1, space := .scratch, cond := .eq, ty := .n32, scope := .tm, lanes := [(0, 0x40, 0)],
                                                      start := 0, timeout := 0, got := [(0, (true, 0))] }
    let x := alone (waiting (.monitor n))
    x.monitorGroup 0 n = [(0, n)] ∧ (∀ l ∈ n.lanes, ∃ g, Store.find? n.got l.1 = some g ∧ (g.1 = true ∨ n.late = true))
    ∧ (((demo x [0] false).core 0).shareAll 63 n.uses).isSome = true := by
  refine ⟨by decide, ?_, by decide⟩
  intro l hl
  obtain rfl : l = (0, 0x40, 0) := List.mem_singleton.1 hl
  exact ⟨_, rfl, .inl rfl⟩
/-- SegmentsAndDeliveriesComplete. -/
theorem witness_segment : let e : Segment := { process := 0, code := 0x1000, seg := 0, words := none, entered := 0, user := false, lastSeg := 0 }
    let s : State := { demo boss [0] false with cores := [(0, { istore := [e], waves := [(63, boss)] })] }
    (s.core 0).istore[0]? = some e ∧ e.words = none ∧ e.started = true ∧ e.seg.toNat ≤ e.lastSeg
    ∧ ({ istore := [{ e with started := false }] } : Core).takeSlot.isSome = true := by
  exact ⟨rfl, rfl, rfl, by decide, by decide⟩
theorem witness_segment_bytes : (∃ bs, (demo boss [0] false).readVirtual { process := 0, user := false, secure := true, fetch := true, cluster := 0, fresh := 4096 }
    0x1000 16 = .ok bs) := ⟨_, rfl⟩
theorem witness_delivery : let t : Trap := { code := 0x10, lanes := 15#4 }
    let x := waiting (.delivery t)
    let s : State := { demo x [0] false with objects := [(0, { body := .process { demoProcess with tvec := 0x200000 }, refs := 1, owner := 0 })] }
    s.wave? 0 63 = some x ∧ (x.slice 0).wait = some (.delivery t)
    ∧ (∃ p h, s.process? x.process = some p ∧ p.handler? = some h ∧ (s.core 0).hasSegment x.image h.seg = true)
    ∧ (s.core 0).uncommitted 63 0 = false ∧ (x.slice 0).out = [] ∧ (x.slice 0).deferred = [] := ⟨rfl, rfl, ⟨_, _, rfl, rfl, by decide⟩, rfl, rfl, rfl⟩

/-- BindingsComplete. -/
theorem witness_qcfg : Ready (demo (with0 id) [0] false) (with0 id)
    ∧ ∀ k ∈ (demo (with0 id) [0] false).now.slices, (with0 id).lanes none k ≠ [] ∧ (with0 id).queueDrained 0 = true
      ∧ (demo (with0 id) [0] false).queueStoring 0 63 0 0 = false := by
  refine ⟨ready1, ?_⟩
  intro k hk
  obtain rfl : k = 0 := List.mem_singleton.1 hk
  decide
def pairTeam : Team := { demoTeam with launch := 1, members := 2 }
def pairRoles : Launch :=
  { process := 0, cls := 0, source := .wave, width := 16, fused := false, cscratch := false, teams := 1, clusters := 0, cores := 0, tag := 0
    doneAddr := 0, irq := false, vector := 0, pair := false, segs := 1, lives := 0, scratch := 0, roles := [{ allot := 64, waves := 2, entry := {} }]
    code := 0, liveTab := 0, params := [] }
theorem witness_shmap : let x : Wave := { regs [(4, 1)] with index := 0, supervisor := false }
    let s : State := { demo x [0] false with teams := [(0, pairTeam)], launches := [(1, pairRoles)] }
    Ready s x ∧ x.lanes none 0 ≠ [] ∧ 63 + max 1 1 ≤ x.allot ∧ s.partnerOk x 1 = true ∧ (s.core 0).mapping? 63 63 ((s.core 0).teamHolder 0 1) = none := by
  refine ⟨⟨rfl, by decide, by decide, ?_, rfl, rfl⟩, by decide, by decide, by decide, rfl⟩
  intro k hk
  obtain rfl : k = 0 := List.mem_singleton.1 hk
  exact ⟨_, rfl, rfl, rfl, rfl⟩
/-- A settled mapping of the wave in slot 63 with a partner that is parked in entry 5. -/
theorem witness_shmap_mapped : let h : Shared := { slotA := 63, regA := 8, slotB := 69, regB := 8, count := 1, vals := [], st := [] }
    ({ waves := [(63, boss)], shared := [h] } : Core).mapping? 63 8 (some 69) = some h ∧ h.settled = true := by decide
theorem witness_pairing : let x : Wave := { boss with supervisor := false, index := 0, shares := [{ first := 8, partner := 1, count := 2 }] }
    let y : Wave := { boss with supervisor := false, index := 1, shares := [{ first := 16, partner := 0, count := 2 }] }
    let s : State := { demo x [0] false with cores := [(0, { waves := [(3, y), (63, x)] })] }
    s.wave? 0 63 = some x ∧ x.shares = [{ first := 8, partner := 1, count := 2 }] ∧ (s.core 0).teamWave x.team 1 = some 3 ∧ s.wave? 0 3 = some y
    ∧ y.shares.find? (fun q => q.partner = x.index && q.count = 2) = some { first := 16, partner := 0, count := 2 } :=
  ⟨rfl, rfl, by decide, rfl, by decide⟩
/-- QueueEnginesComplete and QueueMoves: a load queue of 1 row at scratch 0, fetched ahead and not; a store queue with a row. -/
def loadQueue (held : List Row) : Queue := { dir := .load, space := .scratch, wide := false, base := 0, rows := 1, stride := 0, held }
theorem witness_engine : let x : Wave := { with0 id with queues := [(7, loadQueue [])] }
    let s := demo x [0] false
    s.wave? 0 63 = some x ∧ Store.find? x.queues 7 = some (loadQueue []) ∧ (loadQueue []).held.length < 8 ∧ (loadQueue []).next < (loadQueue []).rows.toNat
    ∧ (List.range x.width).flatMap (fun l => queueParts s x 0 (loadQueue []) 0 l false) ≠ []
    ∧ (List.range x.width).flatMap (fun l => queueParts s x 0 { loadQueue [] with base := 0xFFFF0000 } 0 l false) = [] := by
  refine ⟨rfl, rfl, by decide, by decide, by decide, by decide⟩
theorem witness_store_engine : let row : Row := { vals := (List.range 16).map (fun l => if l = 3 then some 9 else none) }
    let b : Queue := { loadQueue [row] with dir := .store }
    let x : Wave := { with0 id with queues := [(0, b)] }
    Store.find? x.queues 0 = some b ∧ b.dir = .store ∧ b.held = [row] ∧ row.awaits = [] ∧ (demo x [0] false).queueStoring 0 63 0 0 = false
    ∧ queueParts (demo x [0] false) x 0 b 0 3 true ≠ [] :=
  ⟨rfl, rfl, rfl, rfl, by decide, by decide⟩
theorem witness_queue_moves : let x : Wave := { with0 id with queues := [(6, { loadQueue [] with dir := .store }), (7, loadQueue [{ vals := List.replicate 16 (some 5) }])] }
    let s := demo x [0] false
    Edged s x ∧ x.popOk 7 = true ∧ x.popReady 7 = true ∧ x.pushOk 6 = true ∧ x.pushReady 6 = true := by
  refine ⟨?_, by decide, by decide, by decide, by decide⟩
  intro k hk
  obtain rfl : k = 0 := List.mem_singleton.1 hk
  exact ⟨rfl, rfl⟩
/-- ProfilingEventsComplete: a wave in slot 0 that waits, in the counting window, due and not due, with 0 and 2 samples held. -/
def counted (c : Count) : Wave := { alone (waiting (.waitc 0 0)) with count := c, counters := [(0, 1)] }
def counting (c : Count) : State := { demo boss [0] false with cores := [(0, { waves := [(0, counted c), (63, boss)] })], cycles := 256 }
theorem witness_stall : (∃ r, (counting { opened := true }).stallReason 0 0 (counted { opened := true }) = some r)
    ∧ (counted { opened := true }).count.running = true ∧ (counting { opened := true }).sampleDue { opened := true } = false := ⟨⟨_, rfl⟩, by decide, by decide⟩
theorem witness_sample : let m : Sample := { cycle := 0, reason := 3, waiting := {}, producer := {}, rtop := 0 }
    ∀ c ∈ [({ opened := true, span := 32, due := true } : Count), { opened := true, span := 32, due := true, held := [m, m] },
        { opened := true, span := 32, due := true, held := [m, m], batch := [m, m, m, m, m, m] }],
      ({ counting c with security := { dbgctl := 4 } } : State).sampleDue c = true
      ∧ (({ counting c with security := { dbgctl := 4 } } : State).stallReason 0 0 (counted c)).isSome = true := by decide
theorem witness_boost : ∀ g ∈ (with0 id).gangs, 0 ∈ g.slices →
    ({ demo (with0 id) [0] false with cycles := 256 } : State).gangReason 0 (with0 id) g = none ∧ 256 ≤ 256 - g.since := by decide

/-! ### The matrix unit and copies -/

def unitTile : Tile := { threads := false, ty := .f32, elems := [], cls := 0 }
def threadTile : Tile := { unitTile with threads := true }
def record0 : ObRecord := { base := 0, extent := 1024, stride := 64, fmt := .bf16, wide := false, snap := [], scales := [], cls := 0 }
def slot0 : WeightSlot := { fmt := .bf16, wide := false, kp := 32, z := false, bytes := [], loaded := true, cls := 0 }
def matrixWave (s : List (Nat × W32)) : Wave :=
  { regs s with records := [(0, record0)], slots := [(0, slot0)], tiles := [(0, unitTile), (15, threadTile)] }
def matrixDemo (s : List (Nat × W32)) (ks : List Nat) : State := demo (matrixWave s) ks false
theorem ready_matrix (s : List (Nat × W32)) (ks : List Nat) (h : ks = [0] ∨ ks = [0, 1]) : Ready (matrixDemo s ks) (matrixWave s) := by
  rcases h with rfl | rfl
  · refine ⟨rfl, show ([0] : List Nat) ≠ [] by decide, show [0].Nodup by decide, ?_, rfl, rfl⟩
    intro k hk
    obtain rfl : k = 0 := List.mem_singleton.1 hk
    exact ⟨_, rfl, rfl, rfl, rfl⟩
  · refine ⟨rfl, show ([0, 1] : List Nat) ≠ [] by decide, show [0, 1].Nodup by decide, ?_, rfl, rfl⟩
    intro k (hk : k ∈ [0, 1])
    have : k = 0 ∨ k = 1 := by simpa using hk
    rcases this with rfl | rfl <;> exact ⟨_, rfl, rfl, rfl, rfl⟩
theorem edged_matrix (s : List (Nat × W32)) (ks : List Nat) (h : ks = [0] ∨ ks = [0, 1]) : Edged (matrixDemo s ks) (matrixWave s) := by
  intro k (hk : k ∈ ks)
  have : k = 0 ∨ k = 1 := by rcases h with rfl | rfl <;> simp_all
  rcases this with rfl | rfl <;> exact ⟨rfl, rfl⟩

/-- MatrixStorageCompletes: OBRES of 1,024 bytes at scratch 0, WLD of a panel of 32 rows, and a tile on each side of the token. -/
theorem witness_matrix_storage : let r : List (Nat × W32) := [(0, 0), (1, 1024), (2, 0), (3, 64), (4, 0), (5, 32), (6, 0), (7, 128)]
    let s := matrixDemo r [0]
    let x := matrixWave r
    Ready s x ∧ Edged s x ∧ x.lanes none 0 ≠ []
    ∧ (∃ bs, s.snapshot (s.ctx x 0) [0, 1, 2, 3] [(0, 1024)] = .ok bs) ∧ (s.ctx x 0).recordBusy 1 = false ∧ (s.ctx x 0).slotBusy 1 = false
    ∧ 1024 ≤ 65536 ∧ 64 % 16 = 0 ∧ panelRow .bf16 32 ≤ 128 ∧ panelImage .bf16 16 32 ≤ 16384
    ∧ (∃ bs, s.snapshot (s.ctx x 0) [0, 1, 2, 3] [(0, 63 * 128 + panelRow .bf16 32)] = .ok bs)
    ∧ roomFor ((s.core 0).held (·.heldTiles)) 16 12 0 1 = true ∧ s.tileBusy (s.ctx x 0) 0 = false ∧ s.tileBusy (s.ctx x 0) 15 = false
    ∧ x.tile? 0 = some unitTile ∧ x.tile? 15 = some threadTile ∧ x.tile? 1 = none :=
  ⟨ready_matrix _ _ (.inl rfl), edged_matrix _ _ (.inl rfl), by decide, ⟨_, rfl⟩, by decide, by decide, by decide, by decide, by decide, by decide,
    ⟨_, rfl⟩, by decide, by decide, by decide, by decide, by decide, by decide⟩
/-- TileAccessCompletes. -/
theorem witness_tile_access : Ready (matrixDemo [] [0]) (matrixWave []) ∧ threadTile.threads = true ∧ (matrixWave []).tile? 15 = some threadTile
    ∧ (matrixWave []).Fields [(.v 63, false), (.s 0, false)] := ⟨ready_matrix _ _ (.inl rfl), rfl, by decide, fields_of (by decide)⟩
/-- MatrixProductsComplete: one course at the first rows, columns and k-step. -/
theorem witness_mma : let s := matrixDemo [] [0, 1]
    let x := matrixWave []
    Ready s x ∧ Edged s x ∧ s.now.prompt = false ∧ (∀ k ∈ [0, 1], k ^^^ 1 ∈ [0, 1])
    ∧ ∃ t r z n, (courseTile 0 0).1 ≤ 15 ∧ x.tile? (courseTile 0 0).1 = some t ∧ t.threads = false ∧ t.ty = .f32
      ∧ Store.find? x.records 0 = some r ∧ Store.find? x.slots 0 = some z ∧ z.loaded = true ∧ r.fmt.combo z.fmt = some (.f32, n)
      ∧ maKb 0 * n + n ≤ z.kp ∧ (maKa 0 * n + n) * r.fmt.nibbles ≤ 2 * r.stride
      ∧ 2 * ((maRow0 0 + 16 * 0 + 15) * r.stride) + (maKa 0 * n + n) * r.fmt.nibbles ≤ 2 * r.extent :=
  ⟨ready_matrix _ _ (.inr rfl), edged_matrix _ _ (.inr rfl), rfl, by decide, unitTile, record0, slot0, _, by decide, by decide, rfl, rfl, rfl, rfl, rfl, rfl,
    by decide, by decide, by decide⟩
theorem witness_pass : let p : Pass := { slot := 63, op := { d := 0, a := 0, b := 0, c := 0, last := false, acc := .f32, sat := false }, cls := 0, since := 0
                                         courses := [(0, 0)], edges := [], shadows := none }
    let s : State := { matrixDemo [] [0, 1] with cores := [(0, { waves := [(63, matrixWave [])], passes := [p] })] }
    (s.core 0).passes = [p] ∧ p.shadows = none ∧ p.courses.length ≤ 8 ∧ s.wave? 0 p.slot = some (matrixWave [])
    ∧ ({ p with shadows := some [] } : Pass).shadows = some [] := ⟨rfl, rfl, by decide, rfl, rfl⟩
theorem witness_wld_load : (matrixDemo [] [0]).wave? 0 63 = some (matrixWave []) ∧ Store.find? (matrixWave []).slots 0 = some slot0 := ⟨rfl, rfl⟩
/-- DrainsComplete: a course to the scratchpad. -/
theorem witness_drain : let r : List (Nat × W32) := [(4, 0), (5, 0), (6, 128), (7, 0)]
    let o : MdrainOp := { d := 0, quad := 1, max := none, target := .bf16, scale := 0, wide := false, space := .scratch }
    let s := matrixDemo r [0, 1]
    let x := matrixWave r
    Ready s x ∧ Edged s x ∧ ∃ d : Drain, x.tile? (courseTile 0 0).1 = some d.tile ∧ d.tile.threads = false ∧ drainPair o.target d.tile.ty = true
      ∧ d.row0 = (courseTile 0 0).2 ∧ s.drainWord (s.ctx x 0) (x.slice 0) o = .ok d.max
      ∧ s.drainParts (s.ctx x 0) o (drainRanges o ((List.range 4).map (fun i => (x.slice 0).raw (.s (4 + i)))) 0) = .ok d.parts
      ∧ (s.ctx x 0).rowsBusy (courseTile 0 0) = false ∧ (∀ p, x.counter p + 2 ≤ 255) ∧ ∀ k ∈ [0, 1], (s.core 0).uncommitted 63 k = false ∧ s.acquireAhead 0 63 k = none
        ∧ s.drained 0 63 k { loads := true, stores := true, redm := false, scope := .sy } = true :=
  ⟨ready_matrix _ _ (.inr rfl), edged_matrix _ _ (.inr rfl), ⟨unitTile, 0, _, none⟩, rfl, rfl, rfl, rfl, rfl, rfl, rfl,
    fun p => show (0 : Nat) + 2 ≤ 255 by decide, by decide⟩

/-- CopyInstructionsComplete: a record in the last 64 bytes of the scratchpad; a counter and a queue with one place left. -/
theorem witness_copy : let x : Wave := { regs [(4, 0x7FFC0)] with counters := [(3, 254)] }
    let kick : CopyKick := { addr := 0, team := 0, process := 0, core := 0, slot := 63, slice := 0, gen := 0, cls := 0, id := 9 }
    let s : State := { demo x [0] true with clusters := [(0, { copyQueue := List.replicate 255 kick })] }
    s.teamScratch 0 0 0x7FFC0 64 = some (0, 0x7FFC0) ∧ (s.cluster 0).copyQueue.length < 256 ∧ x.counter 3 < 255
    ∧ s.drained 0 63 0 { loads := true, stores := true, redm := false, scope := .dv } = true := by
  refine ⟨rfl, ?_, by decide, by decide⟩
  exact lt_of_eq_of_lt List.length_replicate (by decide)
theorem witness_copy_ready : let x := regs [(4, 0x7FFC0)]
    Ready (demo x [0] false) x ∧ Edged (demo x [0] false) x ∧ x.lanes none 0 ≠ [] ∧ ((x.slice 0).raw (.s 4)).toNat % 64 = 0 :=
  ⟨ready_regs _ _, edged_demo _ rfl _, by decide, by decide⟩
/-- CopyEnginesComplete: a record at scratch 0x40 that copies 64 bytes from 0x100 to 0x200 and counts down the barrier at 0x80; the same
with rowbytes 0; a granule of it; and an engine that gives way. -/
def copyScratch (rowbytes : Byte) : Memory := [(0x41, 0x01), (0x49, 0x02)] ++ (if rowbytes = 0 then [] else [(0x50, rowbytes)])
  ++ [(0x54, 0x01), (0x62, 0x50), (0x64, 0x80)]
def copyDemo (rowbytes : Byte) (c : Cluster) : State :=
  { demo boss [0] false with cores := [(0, { waves := [(63, boss)], scratch := copyScratch rowbytes })], clusters := [(0, c)] }
def kick0 : CopyKick := { addr := 0x40, team := 0, process := 0, core := 0, slot := 63, slice := 0, gen := 0, cls := 0, id := 9 }
def req (cls age : Nat) : CopyReq := { recAddr := 0x40, team := 0, process := 0, secure := true, core := 0, cls, age }
theorem witness_copy_read : let s := copyDemo 64 { copyQueue := [kick0] }
    let r := CopyRecord.ofBytes (s.peekN 0 (.scratch 0) 0x40 64)
    s.teamScratch 0 0 0x40 64 = some (0, 0x40) ∧ r.state = 0 ∧ r.ok = true ∧ (s.barrierOf 0 0 r.bar).isSome = true := by decide
theorem witness_copy_bad : let s := copyDemo 0 { copyQueue := [kick0] }
    let r := CopyRecord.ofBytes (s.peekN 0 (.scratch 0) 0x40 64)
    r.state = 0 ∧ r.ok = false ∧ s.barrierOf 0 0 r.bar = some (0, 0x80) := by decide
theorem witness_granule : let s := copyDemo 64 { engines := [(0, req 0 0)] }
    let c := CopyRecord.ofBytes (s.peekN 0 (.scratch 0) 0x40 64)
    let q : Asker := { process := 0, user := false, secure := true, cluster := 0, fresh := 4096 }
    Store.find? (s.cluster 0).engines 0 = some (req 0 0) ∧ s.teamScratch 0 0 0x40 64 = some (0, 0x40)
    ∧ ∃ sp dp, s.engineRanges q 0 (spaceOf c.sspace) (c.ranges c.cursor (min 4096 (c.total - c.cursor))).1 = .ok sp
      ∧ s.engineRanges { q with write := true } 0 (spaceOf c.dspace) (c.ranges c.cursor (min 4096 (c.total - c.cursor))).2 = .ok dp
      ∧ (∀ p ∈ sp ++ dp, p.place.isPeer = false) := by
  refine ⟨rfl, rfl, _, _, rfl, rfl, ?_⟩
  decide
theorem witness_displace : let s := copyDemo 64 { engines := [(0, req 1 0), (1, req 1 1), (2, req 1 2), (3, req 2 0)], copies := [req 0 9] }
    Store.find? (s.cluster 0).engines 3 = some (req 2 0) ∧ (s.cluster 0).engines.length = 4 ∧ (∃ q ∈ (s.cluster 0).copies, q.cls = 0) ∧ (req 2 0).cls ≠ 0
    ∧ ∀ e ∈ (s.cluster 0).engines, e.2.cls < 2 ∨ (e.2.cls = 2 ∧ e.2.age ≤ 0) :=
  ⟨rfl, rfl, ⟨req 0 9, by decide, rfl⟩, by decide, by decide⟩

/-! ### Kernel objects and rings -/

def wait0 (op : KernelOp) : KernelWait := { op, d := some 2, id := 0, lanes := 15 }
def kern (op : KernelOp) : Wave := alone (with0 (fun sl => { sl with wait := some .kernel, kwait := some (wait0 op) }))
/-- Handles 1 to 6: the control port, a port with a message, a wait set, a timer, a graph, a ring. -/
def handles : Store HandleSlot := (List.range 6).map (fun i => (i + 1, { used := true, rights := 0x7F, gen := 0, index := i + 1 }))
def message0 : Message := { sender := (0, 9), plen := 0, ready := true }
def ring0 : Ring :=
  { state := .running, ringid := 7, mm1 := 1, dir := 0, nloc := 1, members := 0x10, sbase := 0, ssize := 0, hcode := 0, sbase2 := 0, ltab := 0, team := 0, core := 0
    ready := true }
def kdemo (op : KernelOp) (ms : List (W32 × Member)) (t : Timer) (g : GraphBody) (r : Ring) : State :=
  { demo (kern op) [0] false with
    objects := [(0, { body := .process { demoProcess with table := handles, tableSize := 16, vecCount := 8 }, refs := 1, owner := 0 }), (1, controlPort),
      (2, { body := .port { capacity := 4096, queue := [message0] }, refs := 2, owner := 0 }), (3, { body := .waitSet 2 ms, refs := 2, owner := 0 }),
      (4, { body := .timer t, refs := 2, owner := 0 }), (5, { body := .graph g, refs := 2, owner := 0 }), (6, { body := .ring r, refs := 2, owner := 0 })] }
def graph0 : GraphBody := { array := 0x1000, count := 1 }
def kd (op : KernelOp) : State := kdemo op [] {} graph0 ring0
theorem stands (op : KernelOp) (ms : List (W32 × Member)) (t : Timer) (g : GraphBody) (r : Ring)
    (h : (if isRingOp op then (kdemo op ms t g r).rotationTrap (kern op) 0 op else (kdemo op ms t g r).kernelTrap (kern op) 0 op) = none) :
    Stands (kdemo op ms t g r) ref0 (kern op) (wait0 op) :=
  ⟨rfl, rfl, ⟨none, rfl, fun _ h => nomatch h⟩, rfl, rfl, rfl, rfl, h⟩

/-- KernelInstructionsIssue: PSEND of a message in scratch with a counter one below its limit. -/
theorem witness_kernel_issue : let x : Wave := { regs [(4, 2), (5, 0)] with counters := [(5, 254)] }
    let s : State := { kd (.psend 2 0 true) with cores := [(0, { waves := [(63, x)] })] }
    Ready s x ∧ Edged s x ∧ x.counter 5 < 255 ∧ s.acquireAhead 0 63 0 = none ∧ x.lanes none 0 ≠ []
    ∧ s.drained 0 63 0 { loads := true, stores := true, redm := false, scope := .cq } = true
    ∧ kernelUnit.early s x (.psend (sval x 0 4) (sval x 0 5) true) = none
    ∧ kernelUnit.check s x 0 (.psend (sval x 0 4) (sval x 0 5) true) = none := by
  refine ⟨⟨rfl, by decide, by decide, ?_, rfl, rfl⟩, ?_, by decide, rfl, by decide, by decide, rfl, rfl⟩
  · intro k hk
    obtain rfl : k = 0 := List.mem_singleton.1 hk
    exact ⟨_, rfl, rfl, rfl, rfl⟩
  · intro k hk
    obtain rfl : k = 0 := List.mem_singleton.1 hk
    exact ⟨rfl, rfl⟩
/-- PortInstructionsTakeEffect: each instruction on its object. -/
theorem witness_create : Stands (kd (.wcreate .port [4096, 0, 0, 0])) ref0 (kern (.wcreate .port [4096, 0, 0, 0])) (wait0 (.wcreate .port [4096, 0, 0, 0]))
    ∧ ∃ h u, (kd (.wcreate .port [4096, 0, 0, 0])).create 0 0 (newBody .port [4096, 0, 0, 0]) 0x7F = .ok (h, u) := ⟨stands _ _ _ _ _ rfl, _, _, rfl⟩
theorem witness_close : Stands (kd (.oclose 4)) ref0 (kern (.oclose 4)) (wait0 (.oclose 4)) := stands _ _ _ _ _ rfl
theorem witness_dup : Stands (kd (.odup 3 0x7F)) ref0 (kern (.odup 3 0x7F)) (wait0 (.odup 3 0x7F))
    ∧ ∃ p e v u, (kd (.odup 3 0x7F)).process? 0 = some p ∧ p.handle? 3 = some e ∧ (kd (.odup 3 0x7F)).newHandle 0 0 e.index (e.rights &&& 0x7F) = .ok (v, u) :=
  ⟨stands _ _ _ _ _ rfl, _, _, _, _, rfl, rfl, rfl⟩
theorem witness_info : Stands (kd (.oinfo 5 0)) ref0 (kern (.oinfo 5 0)) (wait0 (.oinfo 5 0))
    ∧ ∃ p e o, (kd (.oinfo 5 0)).process? 0 = some p ∧ p.handle? 5 = some e ∧ (kd (.oinfo 5 0)).obj? e.index = some o :=
  ⟨stands _ _ _ _ _ rfl, _, _, _, rfl, rfl, rfl⟩
theorem witness_send : let op : KernelOp := .psend 2 0 true
    Stands (kd op) ref0 (kern op) (wait0 op) ∧ (kd op).handleObj 0 2 = some 2
    ∧ (∃ p, (kd op).port? 2 = some p ∧ p.closed = false ∧ (kd op).portFull 2 p 0 = false) ∧ (kd op).outranked (kern op) (wait0 op) = false
    ∧ (∃ m, (kd op).checkMessage (kern op) 0 2 0 = .ok m ∧ m.grants = [] ∧ m.reply = none) ∧ 2 ^ 20 ≤ poolSize - (kd op).poolUsed 2 :=
  ⟨stands _ _ _ _ _ rfl, rfl, ⟨_, rfl, rfl, rfl⟩, rfl, ⟨_, rfl, rfl, rfl⟩, by decide⟩
theorem witness_receive : let op : KernelOp := .precv [2, 0, 512, 0] none true
    Stands (kd op) ref0 (kern op) (wait0 op) ∧ (kd op).handleObj 0 2 = some 2
    ∧ (∃ p, (kd op).port? 2 = some p ∧ p.queue.head? = some message0) ∧ message0.ready = true ∧ message0.claimed = false
    ∧ (kd op).outranked (kern op) (wait0 op) = false ∧ (∃ a, (kd op).recordAt (kern op) 0 0 512 = .ok a)
    ∧ (kd op).refusal 0 message0 none 512 = 0 ∧ ∀ g ∈ message0.carried.grants, g.away 0 = false :=
  ⟨stands _ _ _ _ _ rfl, rfl, ⟨_, rfl, rfl⟩, rfl, rfl, rfl, ⟨_, rfl⟩, rfl, by decide⟩
theorem witness_note : let op : KernelOp := .pnote 2 9
    Stands (kd op) ref0 (kern op) (wait0 op) ∧ (kd op).handleObj 0 2 = some 2 ∧ ∃ p, (kd op).port? 2 = some p := ⟨stands _ _ _ _ _ rfl, rfl, _, rfl⟩
theorem witness_ws_add : let op : KernelOp := .wsadd 3 [2, 0, 0, 0] 5 .handle
    Stands (kd op) ref0 (kern op) (wait0 op) ∧ (kd op).handleObj 0 3 = some 3 ∧ (kd op).waitSet? 3 = some (2, [])
    ∧ ∃ m, (kd op).memberOf (kern op) 0 [2, 0, 0, 0] .handle = some m ∧ ∀ j ∈ memberObj m, (kd op).inSet j = false := ⟨stands _ _ _ _ _ rfl, rfl, rfl, _, rfl, by decide⟩
theorem witness_ws_del : let op : KernelOp := .wsdel 3 5
    let s := kdemo op [(5, .timer 4)] {} graph0 ring0
    Stands s ref0 (kern op) (wait0 op) ∧ s.waitSet? 3 = some (2, [(5, .timer 4)]) ∧ [((5 : W32), Member.timer 4)].find? (fun m => m.1 = 5) = some (5, .timer 4) :=
  ⟨stands _ _ _ _ _ rfl, rfl, rfl⟩
theorem witness_ws_wait : let op : KernelOp := .wswait 3 0 true 0
    let s := kdemo op [(5, .port 2 none)] {} graph0 ring0
    Stands s ref0 (kern op) (wait0 op) ∧ s.readyMember [(5, .port 2 none)] = some (5, .port 2 none) ∧ s.kernelWaiters = [(ref0, kern op, wait0 op)]
    ∧ Stands (kd op) ref0 (kern op) (wait0 op) ∧ (kd op).readyMember [] = none := ⟨stands _ _ _ _ _ rfl, rfl, rfl, stands _ _ _ _ _ rfl, rfl⟩
/-- OINFO 1 to 3 of a port, a timer and a graph. -/
theorem witness_selectors : (∃ p, (kd (.oinfo 2 1)).body? 2 = some (.port p)) ∧ (∃ t, (kd (.oinfo 4 2)).body? 4 = some (.timer t))
    ∧ (∃ g, (kd (.oinfo 5 3)).body? 5 = some (.graph g)) ∧ Stands (kd (.oinfo 4 2)) ref0 (kern (.oinfo 4 2)) (wait0 (.oinfo 4 2)) :=
  ⟨⟨_, rfl⟩, ⟨_, rfl⟩, ⟨_, rfl⟩, stands _ _ _ _ _ rfl⟩
/-- UnitInstructionsTakeEffect. -/
theorem witness_timer : let op : KernelOp := .tarm 4 1 true
    Stands (kd op) ref0 (kern op) (wait0 op) ∧ (kd op).handleObj 0 4 = some 4 ∧ (kd op).deadlines 0 4 < 4096 :=
  ⟨stands _ _ _ _ _ rfl, rfl, by decide⟩
theorem witness_cancel (t : Timer) (h : t = {} ∨ t = { armed := true } ∨ t = { expired := true }) : let op : KernelOp := .tcan 4
    Stands (kdemo op [] t graph0 ring0) ref0 (kern op) (wait0 op) ∧ (kdemo op [] t graph0 ring0).body? 4 = some (.timer t) := by
  rcases h with rfl | rfl | rfl <;> exact ⟨stands _ _ _ _ _ rfl, rfl⟩
theorem witness_names : let op : KernelOp := .nslook 0xA05
    Stands (kd op) ref0 (kern op) (wait0 op) ∧ (kd op).nameHome 0xA05 = 0 ∧ (kd op).lookName 0xA05 = none
    ∧ (let s : State := { kd op with names := [(0xA05, 0, 2, 0)] }
       s.lookName 0xA05 = some (0, 2) ∧ (s.port? 2).isSome = true
       ∧ ∃ h u, s.handleTo 0 0 0 2 (rightSend ||| rightDuplicate ||| rightClose) = .ok (h, u)) :=
  ⟨stands _ _ _ _ _ rfl, rfl, rfl, rfl, rfl, _, _, rfl⟩
theorem witness_bind : let op : KernelOp := .nsbind 0xA05 (some 2)
    Stands (kd op) ref0 (kern op) (wait0 op) ∧ (kd op).handleObj 0 2 = some 2 ∧ (kd op).names = []
    ∧ Stands (kd (.nsbind 0xA05 none)) ref0 (kern (.nsbind 0xA05 none)) (wait0 (.nsbind 0xA05 none)) :=
  ⟨stands _ _ _ _ _ rfl, rfl, rfl, stands _ _ _ _ _ rfl⟩
theorem witness_graph : let op : KernelOp := .glaunch 5
    Stands (kd op) ref0 (kern op) (wait0 op) ∧ (kd op).handleObj 0 5 = some 5 ∧ (kd op).graph? 5 = some (0, graph0)
    ∧ (kd op).rangeFault { (kd op).processAsker 0 0 with write := true } 0x1000 64 = none := ⟨stands _ _ _ _ _ rfl, rfl, rfl, rfl⟩
theorem witness_graph_array : arrayOk ((List.range 1).map ((kd (.glaunch 5)).nodeAt 0 graph0)) = true := by decide
theorem witness_cond_node : (({ kd (.gcond 5 0 9 .or) with hbm := pages ++ [(0x10003, 0x40)] } : State).nodeAt 0 graph0 0).kind = 1 := by decide
theorem witness_cond : let op : KernelOp := .gcond 5 0 9 .or
    Stands (kd op) ref0 (kern op) (wait0 op) ∧ (kd op).graph? 5 = some (0, graph0) ∧ (0 : Nat) < graph0.count
    ∧ ∃ p a rep x, (kd op).resolve { (kd op).processAsker 0 0 with write := true } ((0x1000 + 64 * 0 + 0x14) % 2 ^ 64) = .ok (p, a, rep, x) :=
  ⟨stands _ _ _ _ _ rfl, rfl, by decide, _, _, _, _, rfl⟩
theorem witness_hint : Stands (kd (.hint 0 true)) ref0 (kern (.hint 0 true)) (wait0 (.hint 0 true))
    ∧ Stands (kd (.launch 0x1000)) ref0 (kern (.launch 0x1000)) (wait0 (.launch 0x1000)) := ⟨stands _ _ _ _ _ rfl, stands _ _ _ _ _ rfl⟩

/-- RingInstructionsTakeEffect: a ring record of two members at scratch 0x40, a job record at 0x80, and rings in every state. -/
def ringScratch : Memory :=
  [(0x40, 7), (0x45, 1), (0x47, 1), (0x48, 0x10), (0x51, 0x10), (0x55, 0x90), (0x61, 0x18), (0x95, 1)]
def rdemo (op : KernelOp) (r : Ring) : State :=
  { kdemo op [] {} graph0 r with cores := [(0, { waves := [(63, kern op)], scratch := ringScratch })], clocks := [100] }
theorem stands_ring (op : KernelOp) (r : Ring) (h : (rdemo op r).rotationTrap (kern op) 0 op = none) (hr : isRingOp op = true) :
    Stands (rdemo op r) ref0 (kern op) (wait0 op) :=
  ⟨rfl, rfl, ⟨none, rfl, fun _ h => nomatch h⟩, rfl, rfl, rfl, rfl, by rw [show isRingOp (wait0 op).op = true from hr]; exact h⟩
theorem witness_rotarm : let op : KernelOp := .rotarm 0x40
    Stands (rdemo op ring0) ref0 (kern op) (wait0 op) ∧ (rdemo op ring0).liveRings < 64
    ∧ ∃ r h u, (rdemo op ring0).readRing (kern op) 0 0x40 = .ok r ∧ (rdemo op ring0).heldMarks = []
        ∧ (rdemo op ring0).create 0 0 (.ring { r with marks := [] }) 0x7F = .ok (h, u) :=
  ⟨stands_ring _ _ rfl rfl, by decide, _, _, _, rfl, rfl, rfl⟩
theorem witness_rotjoin (r : Ring) (h : r = ring0 ∨ r = { ring0 with state := .armed } ∨ r = { ring0 with state := .ended }
      ∨ r = { ring0 with state := .failed } ∨ r = { ring0 with state := .failed, mismatch := some 1 } ∨ r = { ring0 with state := .armed, jobState := 1 }) : let op : KernelOp := .rotjoin 6 1 0
    Stands (rdemo op r) ref0 (kern op) (wait0 op) ∧ (rdemo op r).ringOf (kern op) op = some (6, r) ∧ (1 : W32).toNat ≤ (rdemo op r).cltime 0 - 0 := by
  rcases h with rfl | rfl | rfl | rfl | rfl | rfl <;> exact ⟨stands_ring _ _ rfl rfl, rfl, by decide⟩
theorem witness_aearm : let op : KernelOp := .aearm 6 0x80 true
    Stands (rdemo op ring0) ref0 (kern op) (wait0 op) ∧ (rdemo op ring0).ringOf (kern op) op = some (6, ring0) ∧ ((rdemo op ring0).cluster 0).job = none
    ∧ ∃ j rs, (rdemo op ring0).readJob (kern op) 0 6 (headSize 0) 0x80 = .ok (j, rs) := ⟨stands_ring _ _ rfl rfl, rfl, rfl, _, _, rfl⟩
theorem witness_aewait (poll : Bool) (n : Nat) : let op : KernelOp := .aewait 6 1 poll 0
    let r := { ring0 with jobState := n }
    Stands (rdemo op r) ref0 (kern op) (wait0 op) ∧ (rdemo op r).ringOf (kern op) op = some (6, r) ∧ r.state = .running := ⟨stands_ring _ _ rfl rfl, rfl, rfl⟩
theorem witness_rotend (abort : Bool) : let op : KernelOp := .rotend 6 abort
    let r := { ring0 with jobState := 2, indices := [(0, { freed := true }), (1, { freed := true })] }
    Stands (rdemo op r) ref0 (kern op) (wait0 op) ∧ (rdemo op r).ringOf (kern op) op = some (6, r) ∧ r.over = true
    ∧ Stands (rdemo op { ring0 with state := .failed }) ref0 (kern op) (wait0 op) ∧ Stands (rdemo op { ring0 with state := .ended }) ref0 (kern op) (wait0 op)
    ∧ Stands (rdemo op { ring0 with state := .armed }) ref0 (kern op) (wait0 op) := by
  cases abort <;> exact ⟨stands_ring _ _ rfl rfl, rfl, by decide, stands_ring _ _ rfl rfl, stands_ring _ _ rfl rfl, stands_ring _ _ rfl rfl⟩
/-- RingEventsComplete. -/
def ring1 : Ring := { ring0 with ltab := 0x1800, slotRanges := [(0, 0x1000, 36864), (0, 0xA000, 36864)] }
def evented (r : Ring) (c : Cluster) : State := { rdemo (.hint 0 true) r with clusters := [(0, c)] }
theorem witness_mark : let r : Ring := { ring0 with state := .armed }
    let m := r.mark 1
    (demo boss [0] false).ringNamed 7 = none ∧ (evented r {}).ringNamed m.ringid = some 6 ∧ (evented r {}).ring? 6 = some r ∧ r.ready = true ∧ m = r.mark m.chip
    ∧ (∀ n ∈ r.marks, n = r.mark n.chip) ∧ (∀ c ∈ r.chips, c ≠ 0 → ∃ n ∈ r.marks ++ [m], n.chip = c) := by
  refine ⟨rfl, by decide, rfl, rfl, rfl, by decide, ?_⟩
  decide
theorem witness_mark_early : let r : Ring := { ring0 with state := .armed, mm1 := 2, members := 0x210 }
    ∃ c ∈ r.chips, c ≠ 0 ∧ ∀ n ∈ r.marks ++ [r.mark 1], n.chip ≠ c := ⟨2, by decide, by decide, by decide⟩
theorem witness_inject : (evented ring1 {}).ring? 6 = some ring1 ∧ ring1.state = .running ∧ (∃ o, (evented ring1 {}).obj? 6 = some o ∧ objIndex o.owner = 0)
    ∧ 0 < ring1.total ∧ 0 % ring1.size = 0 ∧ ring1.slotFree 0 = true ∧ (ring1.index 0).got = [] :=
  ⟨rfl, rfl, ⟨_, rfl, rfl⟩, by decide, by decide, by decide, by decide⟩
theorem witness_inject_block : ((evented ring1 {}).localBlock 0 ring1 0).toOption.isSome = true := by decide +kernel
theorem witness_inject_bad : (evented { ring1 with ltab := 0x4000 } {}).localBlock 0 { ring1 with ltab := 0x4000 } 0 = .error 0x20 := by decide
theorem witness_ring_packet (n : Nat) (h : n = 0 ∨ n = ring1.packets - 1) : 1 < ring1.total ∧ 1 % ring1.size ≠ 0 ∧ ring1.slotFree 1 = true
    ∧ 4096 * n < ring1.bytes ∧ (List.replicate (min 4096 (ring1.bytes - 4096 * n)) (0 : Byte)).length = min 4096 (ring1.bytes - 4096 * n)
    ∧ n ∉ (ring1.index 1).got := by
  rcases h with rfl | rfl <;> exact ⟨by decide, by decide, by decide, by decide, List.length_replicate, by decide⟩
theorem witness_ring_free : let r : Ring := { ring1 with indices := [(1, { present := true, consumed := true })] }
    1 < r.total ∧ (r.index 1).present = true ∧ (r.index 1).consumed = true ∧ (r.index 1).freed = false ∧ r.forwarded 1 = true := by decide
def job0 : Job :=
  { ring := 6, recAddr := 0x80, team := 0, core := 0, h := 64, nq := 16, scale := 0, qpos := 0, causal := false, oaddr := 0, saddr := 0, q := [], m := [], l := []
    o := [], done := 0 }
theorem witness_consume : let r : Ring := { ring1 with indices := [(0, { present := true })] }
    ((evented r { job := some job0 }).cluster 0).job = some job0 ∧ job0.ring = 6 ∧ r.next + 1 < r.total ∧ (r.index r.next).present = true
    ∧ (r.index r.next).consumed = false := ⟨rfl, rfl, by decide, by decide, by decide⟩
theorem witness_ring_fail : (evented ring1 {}).ringNamed 7 = some 6 ∧ (evented ring1 {}).ringJob 6 ring1 = none := ⟨by decide, rfl⟩
/-! ### Units, launches, waves -/

/-- UnitEventsComplete. -/
theorem witness_expiry (p : Option Nat) : let t : Timer := { armed := true, period := p }
    (kdemo (.hint 0 true) [] t graph0 ring0).body? 4 = some (.timer t) ∧ t.deadline ≤ (kdemo (.hint 0 true) [] t graph0 ring0).cltime 0 := ⟨rfl, Nat.zero_le _⟩
theorem witness_ws_timeout : let op : KernelOp := .wswait 3 1 false 0
    Stands (rdemo op ring0) ref0 (kern op) (wait0 op) ∧ (rdemo op ring0).handleObj 0 3 = some 3 ∧ (rdemo op ring0).waitSet? 3 = some (2, [])
    ∧ (rdemo op ring0).readyMember [] = none ∧ (1 : W32).toNat ≤ (rdemo op ring0).cltime 0 - 0
    ∧ Stands (kd op) ref0 (kern op) (wait0 op) ∧ (kd op).cltime 0 - 0 < (1 : W32).toNat :=
  ⟨⟨rfl, rfl, ⟨none, rfl, fun _ h => nomatch h⟩, rfl, rfl, rfl, rfl, rfl⟩, rfl, rfl, rfl, by decide, stands _ _ _ _ _ rfl, by decide⟩
/-- A set whose member is a port of this package with a message: asking after it changes nothing. -/
theorem witness_ws_ready : let op : KernelOp := .wswait 3 0 true 0
    let ms : List (W32 × Member) := [(5, .port 2 none)]
    let s := kdemo op ms {} graph0 ring0
    s.waitSet? 3 = some (2, ms) ∧ (s.pollMember (5, .port 2 none)).1 = (5, .port 2 none) ∧ s.handleObj 0 3 = some 3
    ∧ s.readyMember ms = some (5, .port 2 none) ∧ s.kernelWaiters = [(ref0, kern op, wait0 op)] ∧ Stands s ref0 (kern op) (wait0 op) :=
  ⟨rfl, rfl, rfl, rfl, rfl, stands _ _ _ _ _ rfl⟩
def launch0 : Launch :=
  { process := 0, cls := 1, source := .graph 5 0, width := 16, fused := false, cscratch := false, teams := 1, clusters := 1, cores := 2, tag := 0, doneAddr := 0
    irq := false, vector := 0, pair := false, segs := 0, lives := 0, scratch := 256, roles := [{ allot := 16, waves := 1, entry := {} }], code := 0x1000, liveTab := 0
    params := [] }
theorem witness_node : let s : State := { kd (.hint 0 true) with launches := [(3, { launch0 with reported := true })] }
    Store.find? s.launches 3 = some { launch0 with reported := true } := rfl
theorem witness_hold : let s : State := { kd (.hint 0 true) with vectors := [(4, { hold := 2, count := 1 })], time := 5 }
    Store.find? s.vectors 4 = some { hold := 2, count := 1 } ∧ (2 : Nat) ≤ s.time - 0 := ⟨rfl, by decide⟩

/-- LaunchesAndPlacementComplete: a record in bytes whose header lies at address 0x1040, and one refused. -/
def launchRecord0 : List Byte :=
  leBytes 4 (2 ^ 26) ++ leBytes 4 1 ++ leBytes 8 0x1040 ++ leBytes 8 0 ++ leBytes 4 0 ++ leBytes 4 1 ++ leBytes 4 2 ++ leBytes 4 0 ++ leBytes 8 0
    ++ List.replicate 80 0
def submit0 (b : Option (List Byte)) : Submit := { recAddr := 0, process := 0, floor := 0, source := .graph 5 0, age := 0, cls := 1, bytes := b }
def handed0 : State :=
  { kd (.hint 0 true) with
    handed := [(0, submit0 (some launchRecord0))], launchQueue := [submit0 none], hbm := pages ++ [(0x1004B, 1), (0x10059, 0x10)]
    security := { sensed := [(4, 0x100)] } }
theorem witness_handoff : bestSubmit handed0.launchQueue = some (submit0 none) := rfl
theorem witness_accept : handed0.handed.find? (fun h => h.1 = 0) = some (0, submit0 (some launchRecord0)) ∧ (submit0 (some launchRecord0)).bytes = some launchRecord0 := ⟨rfl, rfl⟩
theorem witness_accept_ok : (handed0.checkLaunch (LaunchRecord.ofBytes launchRecord0) (submit0 (some launchRecord0)) 0 handed0.serial).isSome = true := by decide +kernel
theorem witness_accept_refused : let s : State := { handed0 with security := {} }
    s.checkLaunch (LaunchRecord.ofBytes launchRecord0) (submit0 (some launchRecord0)) 0 s.serial = none := by decide +kernel
theorem witness_accept_read : let s : State := { handed0 with handed := [(0, submit0 none)] }
    (submit0 none).bytes = none ∧ s.readVirtual (s.processAsker 0 0) 0x1000 128 = .ok (List.replicate 75 0 ++ [1] ++ List.replicate 13 0 ++ [0x10] ++ List.replicate 38 0) := by
  refine ⟨rfl, ?_⟩
  decide +kernel
def placing : State :=
  { kd (.hint 0 true) with launches := [(3, launch0)], clusters := [(0, { runq := [(1, .team 3 0 0 false)] })] }
def segment0 : Segment := { process := 0, code := 0x1000, seg := 0, words := some [], entered := 0, user := true }
theorem witness_place : placing.nextTeam 0 = some (1, 3, 0, false) ∧ Store.find? placing.launches 3 = some launch0 ∧ launch0.pair = false
    ∧ placing.placeable ((placing.teamOrder 0).takeWhile (fun f => f ≠ (1, 3, 0, false))) (1, 3, 0, false) 1 = true ∧ placing.slotsOk launch0 1 [5] = true
    ∧ launch0.coresAt 1 = [(1, false)] ∧ (let s : State := { placing with cores := [(1, { istore := [segment0] })] }
      s.entriesDue launch0 1 false = []) := by
  refine ⟨?_, rfl, rfl, ?_, ?_, rfl, ?_⟩ <;> decide +kernel
theorem witness_report : let s : State := { placing with launches := [(3, { launch0 with status := 1 }), (4, { launch0 with status := 1, source := .host 0 })] }
    Store.find? s.launches 3 = some { launch0 with status := 1 } ∧ Store.find? s.launches 4 = some { launch0 with status := 1, source := .host 0 } := ⟨rfl, rfl⟩

/-- WavesMoveAndRetire: a user wave of class 1 at slot 5 of core 1. -/
def user0 (f : Wave → Wave) : Wave := f { boss with supervisor := false, prio := 1 }
def core1 (k : Core) : State := { placing with cores := [(1, k)], objects := (demo boss [0] false).objects }
theorem witness_retire : let x := user0 (fun x => { x with slices := x.slices.map (fun sl => (sl.1, { sl.2 with ended := true })) })
    let s := core1 { waves := [(5, x)] }
    s.wave? 1 5 = some x ∧ s.canRetire 1 5 = true := by
  refine ⟨rfl, ?_⟩; decide +kernel
/-- Every slot of core 1 taken by waves of class 3. -/
def crowd : List (Nat × Wave) := (List.range 63).map (fun i => (i, user0 (fun x => { x with prio := 3, base := 512 * (i / 16) + 32 * (i % 16) })))
theorem witness_drop : (core1 { waves := crowd }).canDrop 1 62 = true ∧ (core1 { waves := crowd }).isVictim 1 62 = true := by
  constructor <;> decide +kernel
/-- Each block of 512 units of core 1 holds a small wave, and a wave of 64 lanes and 128 registers waits. -/
def scattered (f : Wave → Wave) : State :=
  { core1 { waves := (List.range 32).map (fun i => (i, user0 (fun x => if i = 0 then f x else { x with base := 512 * i }))) } with
    launches := [(3, { launch0 with width := 64, roles := [{ allot := 128, waves := 1, entry := {} }] })], cycles := 5000 }
theorem witness_compact_quiet : let s := scattered id
    s.wave? 1 0 = some (user0 id) ∧ (∀ w ∈ (s.core 1).waves, w.1 ≠ 0 → w.2.hold = none) ∧ s.compactSize 1 = some 512 ∧ (s.core 1).candidate 512 = some 0 ∧ ((s.core 1).occupants 0 512).any (fun w => w.1 = 0) = true
    ∧ (user0 id).quiet = true ∧ (placeOutside (s.core 1).blocks 0 512 (blockUnits (user0 id).width (user0 id).allot)).isSome = true := by
  refine ⟨rfl, ?_, ?_, ?_, ?_, ?_, ?_⟩ <;> decide +kernel
def busy (x : Wave) : Wave := { x with counters := [(0, 1)] }
theorem witness_compact_busy : let s := scattered busy
    s.wave? 1 0 = some (user0 busy) ∧ (∀ w ∈ (s.core 1).waves, w.1 ≠ 0 → w.2.hold = none) ∧ s.compactSize 1 = some 512 ∧ (s.core 1).candidate 512 = some 0 ∧ ((s.core 1).occupants 0 512).any (fun w => w.1 = 0) = true
    ∧ (user0 busy).quiet = false := by
  refine ⟨rfl, ?_, ?_, ?_, ?_, ?_⟩ <;> decide +kernel
theorem witness_hold_timeout : let f := fun x => { busy x with hold := some 1000 }
    let t := (scattered f).setWave 1 0 (user0 busy)
    (scattered f).wave? 1 0 = some (user0 f) ∧ 2048 ≤ (scattered f).cycles - 1000 ∧ (user0 f).quiet = false ∧ t.compactSize 1 = some 512
    ∧ (t.core 1).candidate 512 = some 0 := by
  refine ⟨rfl, ?_, ?_, ?_, ?_⟩ <;> decide +kernel
def parked0 : Parked := { wave := user0 id, slot := 5 }
theorem witness_restart : let s := { core1 { parked := [(2, parked0)], istore := [{ oneWordSegment 0 with user := true }] } with clusters := [(0, { runq := [(1, .parked 1 2), (1, .team 3 0 0 false)] })] }
    Store.find? (s.core 1).parked 2 = some parked0 ∧ (s.core 1).slotFree 7 = true ∧ s.parkedReady 1 parked0 = true ∧ s.restartTurn 1 2 = true
    ∧ s.segmentsDue 1 parked0.wave ((parked0.wave.slices.values.filter (fun sl => !sl.ended)).map (fun sl => sl.pc.seg)) = [] ∧ (allocBlock (s.core 1).blocks (blockUnits parked0.wave.width parked0.wave.allot)).isSome = true := by
  refine ⟨rfl, ?_, ?_, ?_, ?_, ?_⟩ <;> decide +kernel
/-! ### Mailbox, debug unit -/

/-- MailboxActionsComplete: records of the supervisor wave of core 0 (wave id 63), whose process has a handler. -/
def mailed (k : Nat) (w : Wait) : State :=
  { demo (with0 (fun sl => { sl with wait := some w })) [] false with
    objects := [(0, { body := .process { demoProcess with tvec := 0x200000 }, refs := 1, owner := 0 }), (1, controlPort)]
    cores := [(0, { istore := [oneWordSegment 0], mailbox := [{ kind := k, wave := 63 }], waves := [(63, with0 (fun sl => { sl with wait := some w }))] })] }
theorem witness_heads (k : Nat) (w : Wait) (h : k = 1 ∨ k = 2) :
    Heads (mailed k w) 0 { kind := k, wave := 63 } (with0 (fun sl => { sl with wait := some w })) :=
  ⟨⟨[], rfl⟩, by rcases h with rfl | rfl <;> decide, rfl⟩
theorem witness_forward : let t := (mailed 1 .action).dropHead 0
    ∃ p h, t.process? 0 = some p ∧ p.handler? = some h ∧ ((t.flushPasses 0).core 0).hasSegment (with0 (fun sl => { sl with wait := some .action })).image h.seg = true :=
  ⟨_, _, rfl, rfl, by decide⟩
theorem witness_mail (k : Nat) (w : Wait) : ((mailed k w).core 0).mailbox = [{ kind := k, wave := 63 }] ∧ ((demo boss [] false).core 0).mailbox = [] := ⟨rfl, rfl⟩
theorem witness_append : let s : State := { mailed 1 .action with cores := [(0, { heldMail := [{ kind := 5 }] })] }
    (s.core 0).heldMail = [{ kind := 5 }] ∧ (s.core 0).mailbox.length < 64 := ⟨rfl, by decide⟩

/-- DebugCommandsComplete: a request at the test access port, the port open or shut, and a stopped slice of wave 5 of core 1. -/
def asked (b : BitVec 192) (ctl : BitVec 3) (life : Nat) : State :=
  { core1 { waves := [(5, user0 (fun x => { x with slices := [(0, { freshSlice 4 {} with stopped := true })] }))] } with
    security := { tap := { request := some b }, dbgctl := ctl, lcstate := life }, hbm := [(0x4C, 1)] }
theorem witness_served (b : BitVec 192) (ctl : BitVec 3) (life : Nat) : (asked b ctl life).servedRequest .tap = some (DebugReq.ofBits b) := rfl
theorem witness_debug_memory (c : Nat) (h : c = 1 ∨ c = 2) :
    let r := DebugReq.ofBits (BitVec.ofNat 192 (c + 0x300 + 2 ^ 64 * 0x80))
    let bad := DebugReq.ofBits (BitVec.ofNat 192 (c + 0x300 + 2 ^ 64 * 0x84))
    r.cmd = c ∧ r.addr + 2 ^ r.size ≤ 768 * 2 ^ 30 ∧ r.addr % 2 ^ r.size = 0 ∧ bad.cmd = c
    ∧ ¬ (bad.addr + 2 ^ bad.size ≤ 768 * 2 ^ 30 ∧ bad.addr % 2 ^ bad.size = 0) := by
  rcases h with rfl | rfl <;> decide
def secured : Store W64 := [(0, 0x0100000000010000), (1, 0xC000000000000000)]
theorem witness_debug_command : let b : BitVec 192 := BitVec.ofNat 192 (10 + 2 ^ 64 * 0x1040)
    let s : State := { asked b 1 3 with hbm := pages ++ [(0x1004C, 1)], security := { tap := { request := some b }, dbgctl := 1, lcstate := 3, regions := secured } }
    let r := DebugReq.ofBits b
    s.servedRequest .tap = some r ∧ s.security.dbgctl.getLsbD 0 = true ∧ r.cmd = 10 ∧ s.commands.any (fun c => c.debug = some .tap) = false ∧ r.addr % 64 = 0
    ∧ ∃ b, s.secureBytes 0 (BitVec.ofNat 64 r.addr) 64 = some b ∧ word32 b 0 = 0 ∧ 1 ≤ word32 b 12 ∧ word32 b 12 ≤ 14 := by
  refine ⟨rfl, by decide, by decide, rfl, by decide, List.replicate 12 0 ++ [1] ++ List.replicate 51 0, ?_, by decide, by decide, by decide⟩
  decide +kernel
/-- Registers of wave id 69 (core 1, slot 5), slice 0, lane 0: v2 and s2; field 200 names none. -/
theorem witness_debug_register (c arg : Nat) (h : (c = 3 ∨ c = 4 ∨ c = 5 ∨ c = 6) ∧ (arg = 2 ∨ arg = 130 ∨ arg = 200)) :
    let b : BitVec 192 := BitVec.ofNat 192 (c + 2 ^ 16 * arg + 2 ^ 64 * 69)
    let r := DebugReq.ofBits b
    ∃ x sl, (asked b 1 3).servedRequest .tap = some r ∧ (asked b 1 3).security.dbgctl.getLsbD 0 = true ∧ r.cmd = c ∧ r.arg % 4096 = arg
      ∧ (asked b 1 3).debugSlice r = some (x, sl) ∧ (r.loc x = if arg = 2 then some (.v 2 0) else if arg = 130 then some (.s 2) else none) := by
  rcases h with ⟨rfl | rfl | rfl | rfl, rfl | rfl | rfl⟩ <;> exact ⟨_, _, rfl, by decide, by decide, by decide, rfl, by decide⟩
theorem witness_debug_fuses (c life : Nat) (h : c = 7 ∨ c = 8 ∨ c = 9) (hl : life ≤ 3) :
    let b : BitVec 192 := BitVec.ofNat 192 (c + 2 ^ 16 * 5 + 2 ^ 128)
    let r := DebugReq.ofBits b
    let s := asked b 0 life
    s.servedRequest .tap = some r ∧ r.cmd = c ∧ s.security.lcstate = life ∧ s.security.dbgctl.getLsbD 0 = false ∧ s.security.blowing = none
    ∧ (∀ i < 4, Store.get s.security.fuses 0 (32 + i) = 0) ∧ (life ≤ 1 → s.security.acceptsBlow false (r.arg % 1024) r.data.toNat = true) := by
  have hl' : life = 0 ∨ life = 1 ∨ life = 2 ∨ life = 3 := by omega
  rcases h with rfl | rfl | rfl <;> rcases hl' with rfl | rfl | rfl | rfl <;> exact ⟨rfl, by decide, rfl, by decide, rfl, by decide, by decide⟩
theorem witness_debug_shut (c : Nat) (h : c = 1 ∨ c = 2 ∨ c = 3 ∨ c = 4 ∨ c = 5 ∨ c = 6 ∨ c = 10) :
    (DebugReq.ofBits (BitVec.ofNat 192 c)).cmd = c ∧ (asked (BitVec.ofNat 192 c) 0 3).security.dbgctl.getLsbD 0 = false := by
  rcases h with rfl | rfl | rfl | rfl | rfl | rfl | rfl <;> decide
/-- TapInstructionsComplete. -/
theorem witness_window : let s : State := { asked 0 0 0 with cxlUp := true }
    s.cxlUp = true ∧ (asked 0 0 0).cxlUp = false ∧ (asked 0 0 0).phase ≠ .recovery ∧ (0x37 : BitVec 8) ∉ [0x00#8, 0x01#8, 0x02#8, 0x20#8, 0x21#8] := by
  refine ⟨rfl, rfl, by decide, by decide⟩
/-! ### Commands -/

/-- A command of process 0 at the head of the unit's list. -/
def cmd (code : W32) (ops : List W32) : Command := { code, secure := true, process := 0, ops, reply := none, debug := none }
def commanding (c : Command) : State :=
  { demo boss [0] false with
    commands := [c], security := { dbgctl := 2, lcstate := 3, regions := secured }, systemRoot := 0x1000
    hbm := pages ++ [(0x1409, 0x14), (0x10101, 0x20), (0x10106, 0x81), (0x10107, 0xFF), (0x10108, 0x80), (0x10109, 0x20), (0x1010E, 0x81)] ++
      [(0x1010F, 0xFF), (0x10119, 4), (0x10141, 0x12), (0x10148, 4)] }
/-- ProcessCommandsComplete. -/
theorem witness_process_command (code op0 op1 : W32) (lo hi : W32) : let c := cmd code [op0, op1, lo, hi]
    (commanding c).commands = [c] ∧ (commanding c).processNamed 0 = some (0, demoProcess) ∧ (commanding c).processNamed 1 = none := ⟨rfl, rfl, rfl⟩
theorem witness_shootdown : let c := { cmd 1 [0, 16, 0x1000, 0] with await := some 3 }
    c.code = 1 ∧ c.op0 = 0 ∧ c.op2.toNat % 4096 = 0 ∧ (cmd 1 [0, 16, 0x1001, 0]).op2.toNat % 4096 ≠ 0 ∧ (cmd 1 [1, 16, 0x1000, 0]).op0 = 1 ∧ (commanding c).shotDown 3 = true := by
  decide
theorem witness_handle_table : let c := cmd 2 [0, 16, 0x1000, 0]
    c.op0 = 0 ∧ 2 ≤ c.op1 ∧ c.op1 ≤ 2 ^ 24 ∧ c.op2.toNat % 8 = 0 ∧ (∀ e ∈ demoProcess.table, e.2.used = true → e.1 < c.op1)
    ∧ (cmd 2 [0, 1, 0, 0]).op1 < 2 ∧ 2 ^ 24 < (cmd 2 [0, 0x1000001, 0, 0]).op1 ∧ (cmd 2 [0, 2, 4, 0]).op2.toNat % 8 ≠ 0 := by decide
theorem witness_create_process : let c := cmd 3 [1, 0x80000, 0x1000, 0]
    (commanding c).freeObj ((commanding c).commandCore c) = some 2 ∧ c.op0 = 1 ∧ (cmd 3 [3, 0, 0, 0]).op0 = 3 ∧ c.op1 % 65536 + c.op1 / 65536 ≤ 2048 ∧ c.op2.toNat % 4096 = 0 ∧ c.op2.toNat < 2 ^ 52
    ∧ (let p : Process := { root := c.op2, secure := true, supervisor := false, vecBase := 0, vecCount := 8 }
       let u := (commanding c).setObj 2 { body := .process p, refs := 1, owner := 0 }
       4096 ≤ dieObjects - u.dieCount (pegDie (u.commandCore c))) := by
  refine ⟨?_, rfl, rfl, ?_, ?_, ?_, ?_⟩ <;> decide +kernel
theorem witness_create_process_bad : 4 ≤ (cmd 3 [4, 0, 0, 0]).op0 ∧ 2048 < (cmd 3 [0, 0x80001 * 256, 0, 0]).op1 % 65536 + (cmd 3 [0, 0x80001 * 256, 0, 0]).op1 / 65536
    ∧ (cmd 3 [0, 0, 8, 0]).op2.toNat % 4096 ≠ 0 ∧ 2 ^ 52 ≤ (cmd 3 [0, 0, 0, 0x100000]).op2.toNat := by decide
theorem witness_end_process : (cmd 4 [0, 0, 0, 0]).op0 = 0 ∧ (cmd 4 [1, 0, 0, 0]).op0 = 1 := by decide
/-- QueueKeyAndFuseCommandsComplete: a queue record at 0x1100 whose ring and tail lie in host memory. -/
theorem witness_queue_command : let c := cmd 5 [0x103, 0, 0x1100, 0]
    let s := commanding c
    s.processNamed c.op1 = some (0, demoProcess) ∧ 256 ≤ c.op0 ∧ c.op0 < 320
    ∧ ∃ b h place t, s.readVirtual (s.processAsker 0 0) c.op2.toNat 64 = .ok b ∧ queueFields b = some h
      ∧ s.resolve (s.queueAsker 0) h.ring.toNat = .ok (.host, place) ∧ s.readVirtual (s.queueAsker 0) h.tail.toNat 8 = .ok t := by
  refine ⟨rfl, by decide, by decide, _, { ring := 0xFF81000000002000, tail := 0xFF81000000002080, headAddr := 0, lsize := 4 }, _, _, rfl, ?_, rfl, rfl⟩
  decide +kernel
theorem witness_vector_command : let c := cmd 6 [5, 3, 1000, 0]
    c.op0 < 2048 ∧ 1 ≤ c.op1 ∧ c.op1 < 256 ∧ c.op2.toNat ≤ 1000000 ∧ 2048 ≤ (cmd 6 [2048, 1, 0, 0]).op0 ∧ (cmd 6 [0, 0, 0, 0]).op1 = 0
    ∧ 256 ≤ (cmd 6 [0, 256, 0, 0]).op1 ∧ 1000000 < (cmd 6 [0, 1, 1000001, 0]).op2.toNat := by decide
theorem witness_key_command : let c := cmd 7 [1, 0, 0x1200, 0]
    let s := commanding c
    (s.secureBytes 0 c.op2 128).isSome = true ∧ (∀ b, s.secureBytes 0 c.op2 128 = some b → ∀ x ∈ b.drop 96, x = 0) ∧ c.op0 = 1 ∧ s.security.lcstate = 3
    ∧ s.security.dbgctl.getLsbD 0 = false ∧ ({ commanding (cmd 7 [1, 0, 0x1200, 0]) with security := {} } : State).secureBytes 0 c.op2 128 = none
    ∧ (cmd 7 [0, 0, 0, 0]).op0 = 0 := by
  have h : (commanding (cmd 7 [1, 0, 0x1200, 0])).secureBytes 0 (cmd 7 [1, 0, 0x1200, 0]).op2 128 = some (List.replicate 128 0) := by decide +kernel
  refine ⟨?_, ?_, by decide, rfl, by decide, ?_, by decide⟩
  · show Option.isSome (State.secureBytes _ _ _ _) = true
    rw [h]; rfl
  · intro b hb
    have : b = List.replicate 128 0 := Option.some.inj (hb.symm.trans h)
    subst this; decide
  · decide +kernel
theorem witness_attest : let c := cmd 8 [0, 0, 0x600100, 0]
    let s := commanding c
    ∃ b, s.readVirtual (s.processAsker 0 0) c.op2.toNat 64 = .ok b ∧
      (s.resolveRange { s.processAsker 0 0 with write := true } ((c.op2.toNat + 64) % 2 ^ 64) 50112).toOption.isSome = true
      ∧ ∀ sign : List Byte, (s.security.report b ++ fitBytes 49856 sign).length = 50112 := by
  refine ⟨List.replicate 64 0, by decide +kernel, by decide +kernel, fun sign => ?_⟩
  simp only [Security.report, fitBytes, leBytes, List.length_append, List.length_take, List.length_replicate, List.length_map, List.length_range]
  omega
theorem witness_fuse_command : let c := cmd 13 [3, 0, 0x1180, 0]
    let s : State := { commanding c with hbm := (commanding c).hbm ++ [(0x10180, 1)] }
    c.started = false ∧ c.op0 < 1024 ∧ s.secureBytes 0 c.op2 8 = some [1, 0, 0, 0, 0, 0, 0, 0] ∧ s.security.acceptsBlow true c.op0 (ofLeBytes [1, 0, 0, 0, 0, 0, 0, 0]) = true
    ∧ s.security.blowing = none ∧ ({ commanding c with security := {} } : State).secureBytes 0 c.op2 8 = none ∧ (cmd 13 [65536, 0, 0, 0]).op0.testBit 16 = true := by
  refine ⟨rfl, by decide, ?_, ?_, rfl, ?_, by decide⟩ <;> decide +kernel
/-- TraceAndEventCommandsComplete: a ring's descriptor at 0x1140. -/
theorem witness_ring_command (code op0 : W32) (h : (code = 9 ∧ (op0 = 0 ∨ op0 = 256)) ∨ (code = 14 ∧ (op0 = 0 ∨ op0 = 1))) : let c := cmd code [op0, 0, 0x1140, 0]
    let s := commanding c
    c.code = code ∧ c.op0 = op0.toNat ∧ ((s.cluster (c.op0 % 16)).begun = []) ∧ s.events = [] ∧ (s.nameRing 0 c.op2 128 0).isSome = true
    ∧ (s.nameRing 0 c.op2 64 0).isSome = true ∧ (s.nameRing 0 c.op2 64 s.eventsLost).isSome = true := by
  rcases h with ⟨rfl, rfl | rfl⟩ | ⟨rfl, rfl | rfl⟩ <;> (refine ⟨rfl, rfl, rfl, rfl, ?_, ?_, ?_⟩ <;> decide +kernel)
theorem witness_stop_command : let c := cmd 10 [0, 3, 0, 0]
    (commanding c).processNamed c.op0 = some (0, demoProcess) ∧ (commanding c).security.dbgctl.getLsbD 1 = true ∧ c.op1 < 4
    ∧ ({ commanding c with security := {} } : State).security.dbgctl.getLsbD 1 = false ∧ 4 ≤ (cmd 10 [0, 4, 0, 0]).op1 := by
  refine ⟨rfl, ?_, ?_, ?_, ?_⟩ <;> decide
theorem witness_resume_command : (cmd 11 [63, 1, 0, 0]).op0 < 2 ^ 15 ∧ (cmd 11 [63, 1, 0, 0]).op1 < 65536 ∧ 2 ^ 15 ≤ (cmd 11 [32768, 1, 0, 0]).op0
    ∧ 65536 ≤ (cmd 11 [63, 65536, 0, 0]).op1 := by decide
theorem witness_snapshot_command : let c := cmd 12 [16, 1, 0x600000, 0]
    let s := commanding c
    c.op0 = 16 ∧ c.op1 < 2 ∧ c.op2.toNat % 128 = 0
    ∧ (s.drainReplicas.resolveRange { s.processAsker 0 0 with write := true } c.op2.toNat ((s.bankWords c.op0).flatMap (fun (x : W64) => leBytes 8 x.toNat)).length).toOption.isSome = true
    ∧ 18 ≤ (cmd 12 [18, 1, 0, 0]).op0 ∧ 2 ≤ (cmd 12 [0, 2, 0, 0]).op1 ∧ (cmd 12 [0, 0, 8, 0]).op2.toNat % 128 ≠ 0 := by
  refine ⟨rfl, by decide, by decide, ?_, by decide, by decide, by decide⟩
  decide +kernel
theorem witness_event_ring_bad : 2 ≤ (cmd 14 [2, 0, 0, 0]).op0 := by decide
/-! ### Reset, boot, the host -/

/-- MachineEventsComplete: flash that holds a header's magic, fuses of a part in MFG, and states on which each event acts. -/
def flash0 : Memory := [(0, 0x49), (1, 0x46), (2, 0x56), (3, 0x4B)]
def held0 (life : W64) (flash : Memory) : State := { State.reset with security := { State.reset.security with fuses := [(2, life)], flash } }
theorem witness_boot_recovery : let s := held0 1 []
    s.phase = .reset ∧ s.senseFuses.security.lcstate ≠ 0 ∧ s.senseFuses.security.imageReason (BootImage.ofBytes (Memory.get s.security.flash)) = 1
    ∧ (held0 0 flash0).senseFuses.security.lcstate = 0 := by
  refine ⟨rfl, ?_, ?_, ?_⟩ <;> decide +kernel
/-- In MFG the image is accepted exactly when its signature holds, whichever it is (Config.verifies says). -/
theorem image_accepted (z : Security) (i : BootImage) (h1 : i.magic = 0x4B564649) (h2 : i.version = 0) (h3 : i.length = 0) (h4 : z.lcstate = 1)
    (h5 : thermometer 64 (Store.get z.sensed 0 3) = 0) (h : Config.verifies i.key (i.header ++ shake256 i.body) i.signature = true) : z.imageReason i = 0 := by
  simp [Security.imageReason, h1, h2, h3, h4, h]
  exact h5
theorem witness_boot_accept (i : BootImage) (hi : i = BootImage.ofBytes (Memory.get flash0))
    (h : Config.verifies i.key (i.header ++ shake256 i.body) i.signature = true) : (held0 1 flash0).senseFuses.security.imageReason i = 0 := by
  subst hi
  refine image_accepted _ _ ?_ ?_ ?_ ?_ ?_ h <;> decide +kernel
theorem witness_recovery (n : Nat) (h : n = 1 ∨ n = 2 ∨ n = 5) : let r : Recovery := { state := n, len := 0x8000 }
    let s : State := { held0 1 [] with phase := .recovery, security := { recovery := some r, lcstate := 1 }, host := flash0 }
    let i := BootImage.ofBytes (fun o => if o < r.len.toNat then Memory.get s.host (r.addr.toNat + o) else 0)
    s.security.recovery = some r ∧ r.len.toNat = 0x8000 + i.length ∧ (s.security.imageReason i = 0 ∨ s.security.imageReason i ≠ 0)
    ∧ ({ s with host := [] } : State).security.imageReason (BootImage.ofBytes (fun _ => 0)) = 1 := by
  rcases h with rfl | rfl | rfl <;> (refine ⟨rfl, ?_, Decidable.em _, ?_⟩ <;> decide +kernel)
theorem witness_security_events : let s : State := { held0 1 [] with phase := .held, security := { wiping := true, blowing := some ([(5, 1)], none, some .tap) } }
    s.phase = .held ∧ s.security.wiping = true ∧ s.security.blowing = some ([(5, 1)], none, some .tap) := ⟨rfl, rfl, rfl⟩
/-- HostEventsComplete: eight packages, seven peers on six ports each. -/
def ports0 : List (Nat × Nat) := (List.range 42).map (fun i => (if i < 21 then i else i + 3, i % 7 + 1))
theorem witness_clique : (demo boss [0] false).phase = .running ∧ (demo boss [0] false).cliqueSize = 1 ∧ portsOk 8 0 ports0 = true := by
  refine ⟨rfl, rfl, ?_⟩
  decide +kernel
theorem witness_linkup : (0 : Nat) + 768 * 2 ^ 30 ≤ 768 * 2 ^ 30 := by decide
/-- A host queue whose tail counter, at host address 0x80, is 1 or 17 of 16 records. -/
def hosted (tail : Byte) (seen : Nat) (request : Bool) : State :=
  { commanding (cmd 5 []) with
    host := [(0x80, tail)]
    queues := [(3, { enabled := true, ring := 0xFF81000000002000, tail := 0xFF81000000002080, lsize := 4, seen, request })] }
theorem witness_tail (tail : Byte) (seen : Nat) (h : (tail, seen) = (16, 0) ∨ (tail, seen) = (1, 1) ∨ (tail, seen) = (17, 1)) :
    let s := (hosted tail seen false).hostStore []
    ∃ h b, Store.find? s.queues 3 = some h ∧ h.enabled = true ∧ h.stopped = false ∧ h.head = 0 ∧ h.lsize = 4 ∧ h.seen = seen
      ∧ s.readVirtual (s.queueAsker h.process) h.tail.toNat 8 = .ok b ∧ ofLeBytes b = tail.toNat := by
  rcases h with h | h | h <;> (obtain ⟨rfl, rfl⟩ := Prod.mk.inj h; exact ⟨_, _, rfl, rfl, rfl, rfl, rfl, rfl, rfl, by decide⟩)
theorem witness_record (request : Bool) : let s := hosted 1 1 request
    ∃ h b, Store.find? s.queues 3 = some h ∧ h.enabled = true ∧ h.stopped = false ∧ h.request = request ∧ h.out = 0 ∧ h.head < h.seen ∧ s.launchQueue.length < 1024
      ∧ s.readVirtual (s.queueAsker h.process) ((h.ring.toNat + 128 * (h.head % 2 ^ h.lsize)) % 2 ^ 64) 128 = .ok b := by
  cases request <;> exact ⟨_, _, rfl, rfl, rfl, rfl, rfl, Nat.zero_lt_one, by decide, rfl⟩
theorem witness_host_access : let a : HostAccess := { addr := 0x11000 - 8, store := some [], size := 8 }
    let s : State := { commanding (cmd 5 []) with cxlUp := true, exposedBase := 0, exposedBytes := 0x11000 }
    let o : State := { s with security := {} }
    s.cxlUp = true ∧ s.exposedBase ≤ a.addr ∧ a.addr + a.size ≤ s.exposedBase + s.exposedBytes ∧ s.secureAt a.addr = true
    ∧ o.secureAt a.addr = false ∧ o.secureAt (a.addr + a.size - 1) = false ∧ (commanding (cmd 5 [])).cxlUp = false
    ∧ s.ownedLine .hbm a.addr a.size = false := by
  refine ⟨rfl, Nat.zero_le _, Nat.le_refl _, ?_, ?_, ?_, rfl, ?_⟩ <;> decide +kernel
/-- A line that the device holds with a store that stands only in it, and the same line without one. -/
theorem witness_snoop : (Store.find? ({ hosted 1 1 false with hostLines := [(1, { bytes := [] })] } : State).hostLines 1) = some { bytes := [] }
    ∧ ({ bytes := [] } : L1Line).dirty = [] ∧ Store.find? (hosted 1 1 false).hostLines 1 = none := ⟨rfl, rfl, rfl⟩
/-! ### The memory system and the fabric -/

/-- MemorySystemEventsComplete. -/
def walk0 (va : W64) : Walk := { process := 0, user := false, core := 0, va, fillL1 := va = 0x1040, dom := (demo boss [0] false).l1Dom 0 63 }
def walked (va : W64) : State :=
  { demo boss [0] false with clusters := [(0, { walks := [walk0 va] })] }
theorem witness_walk : let t := (walked 0x1000).setCluster 0 {}
    let q : Asker := { process := 0, user := false, secure := true, cluster := 0, core := some 0, fresh := t.fresh + 4096 }
    ((walked 0x1000).cluster 0).walks = [walk0 0x1000]
    ∧ (∃ x, t.resolve q (0x1000 : W64).toNat = .ok (.hbm, 0x10000, false, some x)) ∧ t.resolve q (0x5000 : W64).toNat = .error 0x20
    ∧ ∃ x, t.resolve q (0x1040 : W64).toNat = .ok (.hbm, 0x10040, false, some x) ∧ (walk0 0x1040).fillL1 = true
      ∧ (t.fillCoreTlb 0 x).isPoisoned .hbm 0x10040 = false ∧ (t.fillCoreTlb 0 x).ownedLine .hbm 0x10040 1 = false :=
  ⟨rfl, ⟨_, rfl⟩, rfl, _, rfl, rfl, rfl, rfl⟩
def shot (received returned : Bool) : State :=
  { flying .store { hbmPart 0x10000 4 with va := 0x1000 } with
    inflight := [(0, { flight .store { hbmPart 0x10000 4 with va := 0x1000 } with returned })]
    clusters := [(0, { shootdowns := [{ id := 7, process := 0, start := 0x1000, pages := 1, received, awaits := if received then [0] else [] }] })] }
theorem witness_shot : (((shot false false).cluster 0).shootdowns.find? (fun d => d.id = 7 && !d.received)).isSome = true
    ∧ (((shot true false).cluster 0).shootdowns.find? (fun d => d.id = 7 && d.received)).isSome = true
    ∧ (∃ a, Store.find? (shot true false).inflight 0 = some a ∧ a.returned = false)
    ∧ (∀ i ∈ [0], ∀ a, Store.find? (shot true true).inflight i = some a → a.returned = true) := by
  refine ⟨by decide, by decide, ⟨_, rfl, rfl⟩, ?_⟩
  intro i hi a ha
  obtain rfl := List.mem_singleton.1 hi
  obtain rfl : _ = a := Option.some.inj ha
  rfl
theorem witness_atom : let k : Flight := .atom (some (.v 6)) .add .n32 .wv
    Store.find? (flying k (hbmPart 0x10000 4)).inflight 0 = some (flight k (hbmPart 0x10000 4)) ∧ (flying k (hbmPart 0x10000 4)).due 0 (flight k (hbmPart 0x10000 4)) = true
    ∧ (hbmPart 0x10000 4).place.isPeer = false ∧ (hbmPart 0x10000 4).got = none := ⟨rfl, by decide, rfl, rfl⟩
theorem witness_redm : let k : Flight := .redm .max .f32
    Store.find? (flying k (hbmPart 0x10000 4)).inflight 0 = some (flight k (hbmPart 0x10000 4)) ∧ (flying k (hbmPart 0x10000 4)).due 0 (flight k (hbmPart 0x10000 4)) = true
    ∧ (flying k (hbmPart 0x10000 4)).redmAhead 0 (flight k (hbmPart 0x10000 4)) = false := ⟨rfl, by decide, by decide⟩
theorem witness_replica : let w : ReplicaWrite := { die := 1, place := .hbm, addr := 0x80, bytes := [3] }
    ({ demo boss [0] false with replicaWrites := [w] } : State).replicaWrites.find? (fun w => w.die = 1) = some w ∧ w.die ≠ 0 := ⟨rfl, by decide⟩

/-- FabricEventsComplete: a write of peer 1, in order, behind a missing one, repeated, beyond the window, stomped. -/
def linked : State :=
  { demo boss [0] false with
    cliqueSize := 8, ports := [(3, { inService := true, peer := 1 })], streams := [(streamKey 1 3, { base := 5, performed := [(9, .done)] })]
    sent := [{ dst := 1, vc := 0, seq := 2, attempts := 1, access := none, body := .write 0x80 [1], since := 0 },
      { dst := 1, vc := 0, seq := 3, attempts := 5, access := none, body := .write 0x80 [1], since := 0 }] }
def packet (seq : Nat) (stomped : Bool) : Packet := { src := 1, vc := 3, seq, body := .write 0x80 [1], checkOk := true, stomped }
theorem witness_packet (n : Nat) (h : n = 5 ∨ n = 6) : let x := (linked.heed (packet n false)).stream 1 3
    let q : Port := { inService := true, peer := 1 }
    Store.find? linked.ports 3 = some q ∧ q.serves 3 = true ∧ (packet n false).src < linked.cliqueSize ∧ (packet n false).src ≠ linked.chip ∧ (packet n false).seq < 2 ^ 32 ∧ (packet n false).dst = linked.chip
    ∧ x.recorded n = false ∧ x.ahead n < 1024 ∧ (∀ h ∈ x.held, h.seq ≠ n) ∧ (linked.heed (packet n false)).mayPerform x (packet n false) = decide (n = 5) := by
  rcases h with rfl | rfl <;> (refine ⟨rfl, ?_, ?_, ?_, ?_, ?_, ?_, ?_, ?_, ?_⟩ <;> decide)
theorem test_given_up_gap : ((linked.heed { packet 6 false with givenUp := [5] }).stream 1 3).mayPerform (packet 6 false) = true := by decide
theorem witness_packet_dropped : let x := (linked.heed (packet 9 false)).stream 1 3
    (packet 5 true).stomped = true ∧ x.recorded 9 = true ∧ x.recorded 4 = true ∧ 1024 ≤ x.ahead 1029 := by decide
/-- A write from chip 1 that chip 0 bridges to chip 2, whose table allows it to process 7 alone. -/
def bridging : State :=
  { linked with replicas := [(2, [{ kind := 1, srcchip := 1, anyproc := false, write := true, read := true, srcproc := 7, base := 0, pages := 0 }])] }
theorem witness_bridge (proc : Nat) (h : proc = 7 ∨ proc = 8) : let p : Packet := { packet 5 false with dst := 2, proc }
    bridging.arrivesOn 3 p = true ∧ p.dst < bridging.cliqueSize ∧ p.dst ≠ bridging.chip ∧ p.dst ≠ p.src ∧ bridging.bridgeAllows p = decide (proc = 7) := by
  rcases h with rfl | rfl <;> decide
theorem witness_range_entry (remove : Bool) : let e : AccessEntry := { kind := 2, srcchip := 1, anyproc := true, write := true, read := true, srcproc := 0, base := 0, pages := 1 }
    let s : State := { linked with accessTable := [e] }
    e.kind = 2 ∧ (if remove then s.accessTable.contains e = true else s.entryRoom e = true) := by
  cases remove <;> decide
theorem witness_sent : let s := linked
    (∃ p, s.sentAt 1 0 2 = some p ∧ p.attempts < 5 ∧ s.time - p.since < 8000 ∧ 8000 ≤ ({ s with time := 8000 } : State).time - p.since)
    ∧ (∃ p, s.sentAt 1 0 3 = some p ∧ 5 ≤ p.attempts ∧ s.hasRoom p = true) ∧ ∃ p, s.sentAt 1 0 2 = some p ∧ s.hasRoom p = true := by
  refine ⟨⟨_, rfl, by decide, by decide, by decide⟩, ⟨_, rfl, by decide, by decide⟩, _, rfl, by decide⟩
theorem witness_bank : Store.find? linked.ports 3 = some { inService := true, peer := 1 } ∧ ([] : List Nat).contains 23 = false := ⟨rfl, rfl⟩
theorem witness_update (remove : Bool) : let e : AccessEntry := { kind := 1, srcchip := 1, anyproc := true, write := true, read := true, srcproc := 0, base := 0, pages := 1 }
    let u : TableUpdate := { id := 4, entry := e, remove, ask := 9 }
    let s : State := { linked with updates := [u] }
    s.updates.find? (fun u => u.id = 4) = some u ∧ s.answers u.ask = some [] ∧ (∀ r ∈ ([] : List PeerReply), PeerReply.failed r = false)
    ∧ s.admitted u.entry = false := ⟨rfl, rfl, by decide, rfl⟩

/-! ### The step, words and reads -/

/-- StepRunsDecodedInstruction: a NOP at the pc of a ready gang. -/
theorem witness_turn : let t := demo boss [] false
    let y := boss.settle
    t.wave? 0 63 = some boss ∧ t.gangReady 0 63 0 = true ∧ ((t.core 0).istore = [oneWordSegment 0])
    ∧ (({ (t.core 0) with istore := [oneWordSegment 0x1CC0000000000000] } : Core).wordAt boss.image (y.slice 0).pc = some 0x1CC0000000000000)
    ∧ decode 0x1CC0000000000000 = .instr (.nop none) := by
  refine ⟨rfl, ?_, rfl, ?_, ?_⟩ <;> decide
/-- The first turn after reset issues a word placed there: NOP goes on behind itself (02 R77), and a word of the reserved form
traps (01 R25). -/
def afterStep (w : Nat) (f : Slice → Bool) : Bool :=
  match step (State.reset.withFetchWord 64 w) with
  | .next s => ((s.wave? 0 63).map (fun x => f (x.slice 0))).getD false
  | _ => false
theorem test_step_nop : afterStep 0x1CC0000000000000 (fun sl => sl.pc.idx = 1) = true := by decide
theorem test_step_illegal : afterStep 0xC000000000000000 (fun sl => sl.wait = some .action && sl.tcode = 0x02) = true := by decide
/-- DecodeOfEncode, over every form of 01 R22: full A, full B and dual. -/
theorem witness_encode : let a : Instr := .nop none
    let b : Instr := .fmulImm { g := none, d := .v 4, a := .v 9, imm := 0xFC0000 }
    a.wf = true ∧ encode a = some 0x1CC0000000000000 ∧ b.wf = true ∧ encode b = some 0x4880001024FC0000 := by decide
/-- ReservedAndUnassignedWords. -/
theorem witness_words : (0xC000000000000000 : W64).extractLsb' 62 2 = 3#2 ∧ decode 0xC000000000000000 = .illegal 0x02
    ∧ (0x1E00000000000000 : W64).extractLsb' 62 2 = 0#2 ∧ (RawA.ofWord 0x1E00000000000000).op.toNat ∉ opcodesA
    ∧ (0x5E00000000000000 : W64).extractLsb' 62 2 = 1#2 ∧ (0xE0 : BitVec 8).extractLsb' 5 3 = 7#3 := by decide
theorem witness_illegal : Ready (demo (with0 id) [0] false) (with0 id) ∧ decode 0xC000000000000000 = .illegal 0x02 := ⟨ready1, by decide⟩
/-- RegbaseReads: a wave of 32 registers at unit 0x0140. -/
theorem witness_regbase (a : Nat) (h : a = 16 ∨ a = 32 ∨ a = 64 ∨ a = 128) : let x : Wave := { with0 id with base := 0x140, allot := a }
    let s := demo x [0] false
    Ready s x ∧ Edged s x ∧ x.lanes none 0 ≠ [] ∧ x.base < 16384 ∧ x.allot ∈ [16, 32, 64, 128] := by
  rcases h with rfl | rfl | rfl | rfl <;>
    exact ⟨⟨rfl, by decide, by decide, fun k hk => by obtain rfl : k = 0 := List.mem_singleton.1 hk; exact ⟨_, rfl, rfl, rfl, rfl⟩, rfl, rfl⟩,
      fun k hk => by obtain rfl : k = 0 := List.mem_singleton.1 hk; exact ⟨rfl, rfl⟩, by decide, by decide, by decide⟩

end Sys2Proof.Tests
end

section
/-!
PROOFS. Words and formats (01 R20 to R39): the decoder undoes the encoder, illegal words take their trap, both halves of a dual word
run, and a turn of a ready gang runs the instruction its word stands for.
-/

namespace Sys2Proof

/-! ### The three forms of a word (01 R21 to R25) -/

theorem decode_full_a {w : W64} (h : w.extractLsb' 62 2 = 0#2) : decode w = decodeA (RawA.ofWord w) := by
  rw [decode, h]; rfl
theorem decode_full_b {w : W64} (h : w.extractLsb' 62 2 = 1#2) : decode w = decodeB (RawB.ofWord w) := by
  rw [decode, h]; rfl
theorem decode_reserved {w : W64} (h : w.extractLsb' 62 2 = 3#2) : decode w = .illegal 0x02 := by
  rw [decode, h]; rfl

theorem decodeA_unassigned {r : RawA} (h : r.op.toNat ∉ opcodesA) :
    decodeA r = .illegal (if r.op.toNat ∈ opcodesB then 0x02 else 0x01) := by
  rw [decodeA, if_neg h, apply_ite Decoded.illegal]
theorem decodeB_unassigned {r : RawB} (h : r.op.toNat ∉ opcodesB) :
    decodeB r = .illegal (if r.op.toNat ∈ opcodesA then 0x02 else 0x01) := by
  rw [decodeB, if_neg h, apply_ite Decoded.illegal]

/-- Group 111 lies above every opcode of either map (01 R35). -/
theorem opcodes_below_group7 : (∀ n ∈ opcodesA, n < 0xE0) ∧ ∀ n ∈ opcodesB, n < 0xE0 := by decide
theorem le_toNat_of_group7 {op : BitVec 8} (h : op.extractLsb' 5 3 = 7#3) : 0xE0 ≤ op.toNat := by
  have h7 : op.toNat / 2 ^ 5 % 2 ^ 3 = 7 := by
    simpa [BitVec.extractLsb'_toNat, Nat.shiftRight_eq_div_pow] using congrArg BitVec.toNat h
  omega
theorem group7_unassigned {op : BitVec 8} (h : op.extractLsb' 5 3 = 7#3) : op.toNat ∉ opcodesA ∧ op.toNat ∉ opcodesB :=
  ⟨fun ha => absurd (opcodes_below_group7.1 _ ha) (le_toNat_of_group7 h).not_gt,
   fun hb => absurd (opcodes_below_group7.2 _ hb) (le_toNat_of_group7 h).not_gt⟩

/-! ### Encoding and decoding of one instruction -/

/-- The decoder gives the instruction back from its word, if it is well formed and has one. -/
def RoundTrips (i : Instr) : Prop := ∀ w, i.wf = true → encode i = some w → decode w = .instr i

theorem RoundTrips.of_full_a {i : Instr} {r : RawA} (he : encode i = some r.toWord) (ho : opcodesA.contains r.op.toNat = true)
    (hf : i.wf = true → fieldsA r = some i) : RoundTrips i := by
  intro w hw h
  obtain rfl : r.toWord = w := Option.some.inj (he.symm.trans h)
  exact decode_rawA r i (List.contains_iff_mem.1 ho) (hf hw) hw

theorem RoundTrips.of_full_b {i : Instr} {r : RawB} (he : encode i = some r.toWord) (ho : opcodesB.contains r.op.toNat = true)
    (hf : i.wf = true → fieldsB r = some i) : RoundTrips i := by
  intro w hw h
  obtain rfl : r.toWord = w := Option.some.inj (he.symm.trans h)
  exact decode_rawB r i (List.contains_iff_mem.1 ho) (hf hw) hw

theorem RoundTrips.of_dual {i : Instr} {x y : DualHalf} (he : encode i = some (dualToWord x.raw y.raw)) (hi : dualInstr x y = i) :
    RoundTrips i := by
  subst hi
  intro w hw h
  obtain rfl : dualToWord x.raw y.raw = w := Option.some.inj (he.symm.trans h)
  exact decode_dual x y hw

theorem RoundTrips.of_event {i : Instr} (h : encode i = none) : RoundTrips i := fun _ _ hw => nomatch h.symm.trans hw

/-- CVT carries the sources that its conversion code reads (04 R116). -/
theorem CvtOp.ofRaw_toRaw_of_wf (op : BitVec 8) {o : CvtOp} (h : o.wf = true) : CvtOp.ofRaw (o.toRaw op) = some o := by
  simp only [CvtOp.wf, Bool.and_eq_true, beq_iff_eq] at h
  obtain ⟨⟨⟨⟨⟨⟨⟨-, hb⟩, hc⟩, -⟩, -⟩, -⟩, -⟩, -⟩ := h
  exact CvtOp.ofRaw_toRaw op o hb hc

/-- ATOM carries a third source with CAS alone (10 R200). -/
theorem AtomOp.ofRaw_toRaw_of_wf (op : BitVec 8) {o : AtomOp} (h : o.wf = true) : AtomOp.ofRaw (o.toRaw op) = some o := by
  simp only [AtomOp.wf, Bool.and_eq_true, beq_iff_eq] at h
  obtain ⟨⟨⟨⟨-, hc⟩, -⟩, -⟩, -⟩ := h
  exact AtomOp.ofRaw_toRaw op o hc

/-- RSR of a register without a row of its own (02 R84). -/
theorem rsrInstr_of_wf {o : RsrOp} (h : o.wf = true) : rsrInstr o = some (.rsr o) := by
  obtain ⟨g, d, num⟩ := o
  cases d with
  | lane v => simp [rsrInstr, h]
  | pair p =>
    have hown : num.toNat ∉ ownReads := by
      simp only [RsrOp.wf, Bool.and_eq_true, Bool.not_eq_true', List.contains_eq_mem, decide_eq_false_iff_not] at h
      exact h.1.2
    have hne : ∀ n : BitVec 12, n.toNat ∈ ownReads → num ≠ n := fun n hn e => hown (e ▸ hn)
    simp [rsrInstr, h, hne 0x041#12 (by decide), hne 0x106#12 (by decide), hne 0x10A#12 (by decide)]

/-- WSR of a register without a row of its own (02 R84). -/
theorem wsrInstr_of_wf {o : WsrOp} (h : o.wf = true) : wsrInstr o = some (.wsr o) := by
  have hown : o.num.toNat ∉ ownWrites := by
    simp only [WsrOp.wf, Bool.and_eq_true, Bool.not_eq_true', List.contains_eq_mem, decide_eq_false_iff_not] at h
    exact h.2
  have hne : ∀ n : BitVec 12, n.toNat ∈ ownWrites → o.num ≠ n := fun n hn e => hown (e ▸ hn)
  simp [wsrInstr, h, hne 0x050#12 (by decide), hne 0x051#12 (by decide), hne 0x107#12 (by decide), hne 0x108#12 (by decide),
    hne 0x109#12 (by decide)]

/-! ### Every instruction -/

/-- The cases follow the opcode map (01 R35, R37): full A and full B by the opcode's group, the dual words, and the events, which
have no word. -/
theorem roundTrips (i : Instr) : RoundTrips i := by
  cases i
  case iadd o | isub o | imul o | imulh o | imad o | idiv o | irem o | imin o | imax o | iabs o | and o | or o | xor o | andn o
      | shl o | shr o | rot o | bfe o | bfi o | popc o | clz o | brev o | icmp o | pick o | mov o | shmap o | qcfg o | lea o
      | bsel o =>
    exact .of_full_a rfl rfl (by simp [fieldsA, decodeAInteger])
  case fadd o | fsub o | fmul o | ffma o | fmin o | fmax o | fcmp o | fclass o | fabs o | fneg o | fdot2 o | fdot4 o | fcpys o
      | frnd o | fscale o | fexp o =>
    exact .of_full_a rfl rfl (by simp [fieldsA, decodeAFloat])
  case cvt o => exact .of_full_a rfl rfl (fun h => by simp [fieldsA, decodeAConvert, CvtOp.ofRaw_toRaw_of_wf _ h])
  case rcp o | rsq o | sqrt o | ex2 o | lg2 o | sin o | cos o | tanh o | shfl o | shflx o | shflup o | shfldn o | vote o | ballot o
      | redl o | scanl o =>
    exact .of_full_a rfl rfl (by simp [fieldsA, decodeAConvert])
  case pcomb o | p2s o | s2p o | brx o | ret o | exit g | leave g | nop g | yield g | tret =>
    exact .of_full_a rfl rfl (by simp [fieldsA, decodeAControl, need])
  case atom o => exact .of_full_a rfl rfl (fun h => by simp [fieldsA, decodeAMemory, AtomOp.ofRaw_toRaw_of_wf _ h])
  case redM o | fence o | fenceM o | waitcmp o | waitc o | binit o | barv o | bwait o =>
    exact .of_full_a rfl rfl (by simp [fieldsA, decodeAMemory])
  case obres o | obrel o | wld o | mma o | macq o | mrel o | mrd o | mwr o | mzero o | winv o | mstat o | xkick o | xsusp o
      | xstat o =>
    exact .of_full_a rfl rfl (by simp [fieldsA, decodeAMatrix])
  case wcreate o | psend o | pnote o | wsadd o | wsdel o | wswait o | tarm o | tcan o | oclose o | odup o | nslook o | glaunch o
      | gcond o | hint o | launch o | oinfo o | rotarm o | rotjoin o | aearm o | aewait o | rotend o =>
    exact .of_full_a rfl rfl (by simp [fieldsA, decodeAKernel])
  -- the layouts whose fields stand in one of two ways
  case movx o | rdlane o | mdrain o | precv o | nsbind o =>
    exact .of_full_a rfl
      (by simp only [MovxOp.toRaw_op, RdlaneOp.toRaw_op, MdrainOp.toRaw_op, PrecvOp.toRaw_op, NsbindOp.toRaw_op]; rfl)
      (by simp [fieldsA, decodeAInteger, decodeAConvert, decodeAMatrix, decodeAKernel])
  case iaddImm o | isubImm o | imulImm o | iminImm o | imaxImm o | andImm o | orImm o | xorImm o | andnImm o | shlImm o | shrImm o
      | rotImm o | movImm o =>
    exact .of_full_b rfl rfl (by simp [fieldsB, decodeBInteger])
  case faddImm o | fsubImm o | fmulImm o | fminImm o | fmaxImm o =>
    exact .of_full_b rfl rfl (by simp [fieldsB, decodeBFloat])
  case bra o | call o | regang o | jmpf o | cfetch o | fret index | enter o | svc o | brk o =>
    exact .of_full_b rfl rfl (by simp [fieldsB, decodeBControl])
  case rsr o => exact .of_full_b rfl rfl (fun h => by simp [fieldsB, decodeBControl, rsrInstr_of_wf h])
  case wsr o => exact .of_full_b rfl rfl (fun h => by simp [fieldsB, decodeBControl, wsrInstr_of_wf h])
  case nonceRead o | entropyRead o | mbwaitRead o =>
    exact .of_full_b rfl rfl (by simp [fieldsB, decodeBControl, rsrInstr, rsrPair])
  case keywipeWrite o | dbgctlWrite o | measureWrite o | dropWrite o | reprioWrite o =>
    exact .of_full_b rfl rfl (by simp [fieldsB, decodeBControl, wsrInstr, wsrPair])
  case ldGN8 o | ldGS8 o | ldGN16 o | ldGS16 o | ldGB32 o | ldGB64 o | ldSN8 o | ldSS8 o | ldSN16 o | ldSS16 o | ldSB32 o
      | ldSB64 o | ldPB32 o | stGB8 o | stGB16 o | stGB32 o | stGB64 o | stSB8 o | stSB16 o | stSB32 o | stSB64 o | pref o =>
    exact .of_full_b rfl rfl (by simp [fieldsB, decodeBMemory])
  case dualNop x y | dualIadd x y | dualIsub x y | dualImul x y | dualImin x y | dualImax x y | dualAnd x y | dualOr x y
      | dualXor x y | dualAndn x y | dualShl x y | dualShr x y | dualMov x y | iaddi x y | movi x y | shli x y | shri x y
      | dualIcmpEq x y | dualIcmpNe x y | dualIcmpLtS32 x y | dualIcmpLtN32 x y | dualIcmpLeS32 x y | dualIcmpLeN32 x y
      | pand x y | por x y | pxor x y | pnot x y | pmov x y | dualFadd x y | dualFsub x y | dualFmul x y | dualFmin x y
      | dualFmax x y | dualFabs x y | dualFneg x y | dualPopc x y | dualClz x y | dualBrev x y | dualIabs x y
      | dualFcmpLtF32 x y =>
    exact .of_dual rfl rfl
  all_goals exact .of_event rfl

/-- Settles O56: the fields of every form, layout and opcode are read as they were written. -/
theorem decodeOfEncode : Obligations.DecodeOfEncode := roundTrips

/-- Settles O55: each word is the encoding of its instruction, which is well formed. -/
theorem decodedWords : Obligations.DecodedWords := by
  unfold Obligations.DecodedWords
  and_intros <;> exact decodeOfEncode _ _ rfl rfl

end Sys2Proof

namespace Sys2Proof.Machine

open Claim

/-! ### Words that are no instructions (01 R25, R36) -/

/-- A gang of one slice whose plan is a trap takes it. -/
theorem issueActs_trap_one {s : State} {x : Wave} {k : Nat} {plan : State → Ctx → Slice → Act} {t : Trap}
    (hw : s.wave? s.now.core s.now.slot = some x) (hk : s.now.slices = [k]) (hp : plan s (s.ctx x k) (x.slice k) = .trap t) :
    issueActs plan s = s.trapNow k t := by
  simp [issueActs, hw, hk, hp, Act.isStall, Act.wait?, waitTogether, commitAct]

theorem exec_illegalOpcode_one {s : State} {x : Wave} {k : Nat} (hw : s.wave? s.now.core s.now.slot = some x)
    (hk : s.now.slices = [k]) (word : W64) (code : Byte) :
    exec (.illegalOpcode word code) s = .next (s.trapNow k { code, lanes := (x.slice k).active }) :=
  congrArg Host.Outcome.next (issueActs_trap_one hw hk rfl)

theorem exec_instrOf_illegal_one {s : State} {x : Wave} {k : Nat} {w : W64} {code : Byte}
    (hw : s.wave? s.now.core s.now.slot = some x) (hk : s.now.slices = [k]) (h : decode w = .illegal code) :
    exec (instrOf w) s = .next (s.trapNow k { code, lanes := (x.slice k).active }) := by
  rw [instrOf, h]
  exact exec_illegalOpcode_one hw hk w code

/-- Settles O57: the checks of 01 R39 in their order, and the trap of the word that fails one. -/
theorem reservedAndUnassignedWords : Obligations.ReservedAndUnassignedWords := by
  refine ⟨fun w h => decode_reserved h, fun w h ho => ?_, fun w h ho => ?_, fun op h => group7_unassigned h, by decide, ?_⟩
  · rw [decode_full_a h, decodeA_unassigned ho]
  · rw [decode_full_b h, decodeB_unassigned ho]
  · exact fun s x k w code hr hk h => exec_instrOf_illegal_one hr.wave hk h

/-! ### Dual words (01 R34, R37) -/

theorem halfShape_g (op : DualOp) (f : HalfFields) : (halfShape op f).g = halfGuard f := by cases op <;> rfl
theorem halfShape_only (op : DualOp) (f : HalfFields) : (halfShape op f).only = none := by cases op <;> rfl

theorem exec_dualInstr (x y : DualHalf) (s : State) : exec (dualInstr x y) s = issueDual x.op x.f y s := by
  obtain ⟨op, f⟩ := x
  cases op <;> rfl

/-- The rows of the dual map carry the opcode of their half X. -/
theorem eq_dualInstr_of_mem {f : HalfFields} {y : DualHalf} {i : Instr} {op : DualOp} (h : (i, op) ∈ dualWords f y) :
    i = dualInstr { op, f } y := by
  have e : dualWords f y = ((dualWords f y).map Prod.snd).map (fun op => (dualInstr { op, f } y, op)) := rfl
  rw [e] at h
  obtain ⟨op', _, h'⟩ := List.mem_map.1 h
  obtain ⟨rfl, rfl⟩ := Prod.mk.inj h'
  rfl

theorem halfLane_plain (h : DualHalf) (x : Wave) :
    (halfLane h).plain x = x.part (halfGuard h.f) (halfShape h.op h.f).d
      (fun k l => halfEffect h.op h.f (x.laneRead (halfShape h.op h.f) k l)) := by
  rw [LaneOp.plain_part _ (halfShape_only h.op h.f)]
  show x.part (halfShape h.op h.f).g _ _ = _
  rw [halfShape_g]
  rfl

theorem issueOps_halves_ran {s : State} {x : Wave} (hr : Ready s x) (a b : DualHalf)
    (h : x.Fields ((halfShape a.op a.f).fields ++ (halfShape b.op b.f).fields)) :
    Ran s (issueOps [halfLane a, halfLane b] s) x (fun _ => [(halfLane a).plain x, (halfLane b).plain x]) := by
  refine issueOps_fields hr _ (fun o ho => ?_)
  obtain rfl | rfl : o = halfLane a ∨ o = halfLane b := by simpa using ho
  · exact fun p hp => h p (List.mem_append_left _ hp)
  · exact fun p hp => h p (List.mem_append_right _ hp)

/-- Settles O7: the two halves are two lane operations of one issue. -/
theorem dualWordCompletes : Obligations.DualWordCompletes := by
  intro s x hr f y op i hi hf
  obtain rfl := eq_dualInstr_of_mem hi
  have hran := issueOps_halves_ran hr { op, f } y hf
  simp only [halfLane_plain] at hran
  exact ⟨_, exec_dualInstr _ _ _, hran⟩

/-! ### A turn of a gang (06 R148, 12 R245) -/

/-- The state in which the gang of slice k of the wave x issues a word. -/
def State.issuing (s : State) (c w k : Nat) (prompt : Bool) (x : Wave) (word : W64) : State :=
  let ks := sortNat ((x.settle.gangOf? k).getD { slices := [k], age := 0 }).slices
  let z := ks.foldl (fun (x : Wave) k => x.setSlice k { x.slice k with wait := none }) x.settle
  { s.setWave c w z with now := { core := c, slot := w, slices := ks, prompt, word } }

/-- Changing slices leaves the code image of a wave. -/
theorem Wave.image_foldl_setSlice (f : Wave → Nat → Slice) (ks : List Nat) :
    ∀ x : Wave, (ks.foldl (fun (x : Wave) k => x.setSlice k (f x k)) x).image = x.image := by
  induction ks with
  | nil => exact fun _ => rfl
  | cons k ks ih => exact fun x => ih (x.setSlice k (f x k))

/-- What a gang that is ready fetches, where its word stands in the instruction store. -/
theorem State.fetch_of_wordAt {s : State} {c w k : Nat} {x : Wave} {word : W64} (prompt : Bool) (hx : s.wave? c w = some x)
    (hg : s.gangReady c w k = true) (hword : (s.core c).wordAt x.image (x.settle.slice k).pc = some word) :
    s.fetch c w k prompt = .run (instrOf word) (s.issuing c w k prompt x word) := by
  unfold State.fetch
  simp only [hx, hg, if_true]
  rw [Wave.image_foldl_setSlice (fun x k => { x.slice k with wait := none }), show x.settle.image = x.image from rfl, hword]
  rfl

theorem thenDo_thenDo (r : Host.Outcome State Fault Refusal) (f g : State → State) :
    thenDo (thenDo r f) g = thenDo r (fun s => g (f s)) := by cases r <;> rfl

theorem instrOf_of_decode {word : W64} {i : Instr} (h : decode word = .instr i) : instrOf word = i := by rw [instrOf, h]

/-- A step whose turn is that of a ready gang runs the instruction of its word, counts the issue and ends. -/
theorem step_of_wordAt {s : State} {rest : List Turn} {c w k : Nat} {prompt : Bool} {x : Wave} {word : W64} {i : Instr}
    (hs : s.schedule = .issue c w k prompt :: rest) (hx : State.wave? { s with schedule := rest } c w = some x)
    (hg : State.gangReady { s with schedule := rest } c w k = true)
    (hword : (State.core { s with schedule := rest } c).wordAt x.image (x.settle.slice k).pc = some word)
    (hi : decode word = .instr i) :
    step s = thenDo (exec i (State.issuing { s with schedule := rest } c w k prompt x word)) (fun v => v.afterTurn.endStep) := by
  rw [step, State.act1, hs]
  simp only [State.turn, State.fetch_of_wordAt prompt hx hg hword, instrOf_of_decode hi, thenDo_thenDo]

/-! ### A word placed for the next step -/

theorem State.withFetchWord_toNat (s : State) (w : W64) : s.withFetchWord 64 w.toNat = s.placeWord w := by
  rw [State.withFetchWord, Nat.mod_eq_of_lt w.isLt, BitVec.ofNat_toNat, BitVec.setWidth_eq]

theorem State.placeWord_core (s : State) (word : W64) : (s.placeWord word).core 0 =
    { s.core 0 with istore := [oneWordSegment word], fatal := none, waves := [(63, supervisorWave 0 0 {})] } := by
  simp [State.placeWord, State.core, Store.find?_insert_self]

theorem State.placeWord_wave (s : State) (word : W64) : (s.placeWord word).wave? 0 63 = some (supervisorWave 0 0 {}) := by
  rw [State.wave?, State.placeWord_core]
  rfl

/-- The supervisor wave as it is created has nothing to rejoin and no gang to split. -/
theorem supervisorWave_settle : (supervisorWave 0 0 {}).settle = supervisorWave 0 0 {} := rfl

theorem State.placeWord_gangReady (s : State) (word : W64) : (s.placeWord word).gangReady 0 63 0 = true := by
  rw [State.gangReady, State.placeWord_wave]
  simp only [supervisorWave_settle, State.waveIssues, State.placeWord_core]
  decide

theorem State.placeWord_wordAt (s : State) (word : W64) :
    ((s.placeWord word).core 0).wordAt (supervisorWave 0 0 {}).image ((supervisorWave 0 0 {}).slice 0).pc = some word := by
  rw [State.placeWord_core]
  show Option.bind (List.find? _ [oneWordSegment word]) _ = some word
  have himage : (oneWordSegment word).image = (supervisorWave 0 0 {}).image
      ∧ (oneWordSegment word).seg = ((supervisorWave 0 0 {}).slice 0).pc.seg := ⟨rfl, rfl⟩
  rw [List.find?_cons_of_pos (by simpa using himage)]
  rfl

/-- Settles O54: a turn of a ready gang runs its word, and a placed word is that of the turn next (logs 1, 4 and 65). -/
theorem stepRunsDecodedInstruction : Obligations.StepRunsDecodedInstruction := by
  refine ⟨?_, ?_⟩
  · intro s rest c w k prompt x word i hs t hx hg y ks hword hi z u
    rw [step_of_wordAt hs hx hg hword hi]
    rfl
  · intro s w i hi
    refine ⟨State.issuing { s.placeWord w with schedule := [] } 0 63 0 true (supervisorWave 0 0 {}) w, rfl, State.wave?_setWave _ _ _ _, ?_⟩
    rw [State.withFetchWord_toNat, step_of_wordAt (rest := []) rfl (State.placeWord_wave s w)
      (State.placeWord_gangReady s w) (State.placeWord_wordAt s w) hi]
    rfl

end Sys2Proof.Machine
end

section
/-!
PROOFS. Instructions over lanes (02 R45 to R56): each is one lane operation of the driver, so it completes in a ready gang.
-/

namespace Sys2Proof.Machine

open Claim

/-! ### One lane operation, by the operands of its form -/

section

variable {s : State} {x : Wave} {i : Instr} {f : LaneIn → LaneOut}

/-- An instruction that issues one lane operation completes; out says what lane l of slice k answers. -/
theorem runs_of_issueLane (hr : Ready s x) {sh : Shape} {g : Option Guard} {d : Option (Reg × Bool)} {out : Nat → Nat → LaneOut}
    (hi : exec i s = .next (issueLane sh f s)) (h : x.Fields sh.fields) (ho : sh.only = none) (hg : sh.g = g) (hd : sh.d = d)
    (hout : ∀ k l, f (x.laneRead sh k l) = out k l) : Runs s x i [x.part g d out] := by
  subst hg hd
  rw [← funext fun k => funext (hout k)]
  exact ⟨_, hi, issueLane_ran hr sh f ho h⟩

/-- What a lane reads of sources that are named one by one. -/
def Wave.laneSrcs (x : Wave) (srcs : List (Src × Bool)) (k l : Nat) : LaneIn :=
  { lane := l, src := srcs.map (fun o => x.src k o.1 o.2 l), pred := fun n => ((x.slice k).pred n).getLsbD l }

theorem runs_alu1 (hr : Ready s x) {o : Alu1} {w fp dWord : Bool} {raises : FFlags} (h : ok1 x o w)
    (hw : (o.ty.wide && !dWord) = w) (hi : exec i s = .next (issueLane (o.shape fp dWord raises) f s)) :
    Runs s x i [x.part o.g (some (o.d, w)) (fun k l => f (x.laneSrcs [(o.a, o.ty.wide)] k l))] := by
  subst hw
  exact runs_of_issueLane hr hi h rfl rfl rfl (fun _ _ => rfl)

theorem runs_alu2 (hr : Ready s x) {o : Alu2} {bw fp bWord : Bool} (h : ok2 x o bw) (hw : (o.ty.wide && !bWord) = bw)
    (hi : exec i s = .next (issueLane (o.shape fp bWord) f s)) :
    Runs s x i [x.part o.g (some (o.d, o.ty.wide)) (fun k l => f (x.laneSrcs [(o.a, o.ty.wide), (o.b, bw)] k l))] := by
  subst hw
  exact runs_of_issueLane hr hi h rfl rfl rfl (fun _ _ => rfl)

theorem runs_alu3 (hr : Ready s x) {o : Alu3} {fp : Bool} (h : ok3 x o) (hi : exec i s = .next (issueLane (o.shape fp) f s)) :
    Runs s x i [x.part o.g (some (o.d, o.ty.wide)) (fun k l =>
      f (x.laneSrcs [(o.a, o.ty.wide), (o.b, o.ty.wide), (o.c, o.ty.wide)] k l))] :=
  runs_of_issueLane hr hi h rfl rfl rfl (fun _ _ => rfl)

end

/-! ### Integer arithmetic (02 R45, R46), logical and shift instructions, bit counts (02 R47) -/

section

variable {s : State} {x : Wave} {i : Instr}

theorem runs_int1 (hr : Ready s x) {o : Alu1} (h : ok1 x o o.ty.wide) {f : IntFn}
    (hi : exec i s = .next (issueLane (o.shape false false) (intLane f o.ty o.sat) s)) :
    Runs s x i [alu1 x o o.ty.wide (fun a => val (intVal f o.ty o.sat a 0 0))] :=
  have h' := runs_alu1 hr h (Bool.and_true _) hi
  h'

theorem runs_int2 (hr : Ready s x) {o : Alu2} (h : ok2 x o o.ty.wide) {f : IntFn} (hi : exec i s = issueInt2 f o s) :
    Runs s x i [alu2 x o o.ty.wide (fun a b => val (intVal f o.ty o.sat a b 0))] :=
  have h' := runs_alu2 hr h (Bool.and_true _) hi
  h'

theorem runs_int3 (hr : Ready s x) {o : Alu3} (h : ok3 x o) {f : IntFn}
    (hi : exec i s = .next (issueLane (o.shape false) (intLane f o.ty o.sat) s)) :
    Runs s x i [alu3 x o (fun a b c => val (intVal f o.ty o.sat a b c))] :=
  have h' := runs_alu3 hr h hi
  h'

theorem runs_intImm (hr : Ready s x) {o : AluI} (h : okI x o) {f : IntFn} (hi : exec i s = issueIntImm f o s) :
    Runs s x i [aluI x o (fun a => val (intVal f .s32 false a o.signed 0))] :=
  runs_of_issueLane hr hi h rfl rfl rfl (fun _ _ => rfl)

theorem runs_logic (hr : Ready s x) {o : Alu2} (h : ok2 x o o.ty.wide) {f : W64 → W64 → W64} (hi : exec i s = issueLogic f o s) :
    Runs s x i [alu2 x o o.ty.wide (fun a b => val (f a b))] :=
  have h' := runs_alu2 hr h (Bool.and_true _) hi
  h'

theorem runs_logicImm (hr : Ready s x) {o : AluI} (h : okI x o) {f : W64 → W64 → W64} (hi : exec i s = issueLogicImm f o s) :
    Runs s x i [aluI x o (fun a => val (f a (o.imm.setWidth 64)))] :=
  runs_of_issueLane hr hi h rfl rfl rfl (fun _ _ => rfl)

/-- The count of a shift is b as it is read, 32 bits wide. -/
theorem runs_shift (hr : Ready s x) {o : Alu2} (h : ok2 x o false) {f : Nat → Bool → W64 → Nat → W64}
    (hi : exec i s = issueShift f o s) :
    Runs s x i [alu2 x o false (fun a b => val (f o.ty.elemBits o.ty.isSigned a (low b).toNat))] := by
  have := runs_alu2 hr h (Bool.and_false _) hi
  simpa only [alu2, low, val, Wave.laneSrcs, LaneIn.a, LaneIn.b, List.map_cons, List.getD_cons_zero, List.getD_cons_succ,
    BitVec.toNat_setWidth] using this

theorem runs_shiftImm (hr : Ready s x) {o : AluI} (h : okI x o) {f : Nat → Bool → W64 → Nat → W64}
    (hi : exec i s = issueShiftImm f o s) : Runs s x i [aluI x o (fun a => val (f 32 false a o.imm.toNat))] :=
  runs_of_issueLane hr hi h rfl rfl rfl (fun _ _ => rfl)

theorem runs_bits (hr : Ready s x) {o : Alu1} (h : ok1 x o o.ty.wide) {f : W32 → W32} (hi : exec i s = issueBits f o s) :
    Runs s x i [alu1 x o o.ty.wide (fun a => word (f (low a)))] :=
  have h' := runs_alu1 hr h (Bool.and_true _) hi
  h'

end

/-- Settles O1: each is an exact integer function over the elements of one lane operation. -/
theorem integerArithmeticCompletes : Obligations.IntegerArithmeticCompletes := by
  intro s x hr
  refine ⟨fun o h => ?_, fun o h => runs_int3 hr h rfl, fun o h => runs_int1 hr h rfl, fun o h => ?_⟩
  · and_intros <;> exact runs_int2 hr h rfl
  · and_intros <;> exact runs_intImm hr h rfl

/-- Settles O2, form by form. -/
theorem logicAndShiftCompletes : Obligations.LogicAndShiftCompletes := by
  intro s x hr
  refine ⟨fun o h => ?_, fun o h => ?_, fun o h => ?_, fun o h => ?_, fun o h => ?_, fun o h => ⟨?_, ?_⟩, fun o h => ?_⟩
  · exact ⟨runs_logic hr h (f := andVal) rfl, runs_logic hr h (f := orVal) rfl, runs_logic hr h (f := xorVal) rfl,
      runs_logic hr h (f := andnVal) rfl⟩
  · and_intros <;> exact runs_shift hr h rfl
  · exact ⟨runs_logicImm hr h (f := andVal) rfl, runs_logicImm hr h (f := orVal) rfl, runs_logicImm hr h (f := xorVal) rfl,
      runs_logicImm hr h (f := andnVal) rfl, runs_shiftImm hr h rfl, runs_shiftImm hr h rfl, runs_shiftImm hr h rfl⟩
  · and_intros <;> exact runs_bits hr h rfl
  -- BFE, BFI, BSEL and LEA have shapes of their own
  all_goals exact runs_of_issueLane hr rfl h rfl rfl rfl (fun _ _ => rfl)

end Sys2Proof.Machine
end

section
/-!
PROOFS. Compares, predicates and moves (02 R51 to R56).  MOVX is one lane operation for each executing lane, on the register that
the lane's index names.
-/

namespace Sys2Proof.Machine

open Claim

/-! ### MOVX (02 R56) -/

theorem lanesOf_nodup (m : Mask4) : (lanesOf m).Nodup := List.nodup_range.filter _

/-- Parts that work on the same lanes and answer the same there say the same. -/
theorem LanePart.congr_on {p q : LanePart} (hd : p.d = q.d) {k : Nat} (hl : p.lanes k = q.lanes k)
    (ho : ∀ l ∈ q.lanes k, p.out k l = q.out k l) : p.writes k = q.writes k ∧ p.preds k = q.preds k ∧ p.raised k = q.raised k := by
  refine ⟨?_, ?_, ?_⟩
  · rw [LanePart.writes, LanePart.writes, hd, hl]
    cases q.d with
    | none => rfl
    | some d => exact List.flatMap_congr (fun l h => by rw [ho l h])
  · rw [LanePart.preds, LanePart.preds, hl]
    exact List.flatMap_congr (fun l h => by rw [ho l h])
  · rw [LanePart.raised, LanePart.raised, hl]
    exact List.map_congr_left (fun l h => by rw [ho l h])

theorem filter_eq_singleton {ls : List Nat} (hn : ls.Nodup) {l : Nat} (hl : l ∈ ls) : ls.filter (· = l) = [l] := by
  rw [List.filter_eq, List.count_eq_one_of_mem hn hl, List.replicate_one]

section

variable {s : State} {x : Wave} {o : MovxOp} {i : Nat → Nat → Nat} {k : Nat}

/-- Lane by lane, the register MOVX reads or writes is one of the allotment, and a v register by its number. -/
structure MovxInRange (o : MovxOp) (x : Wave) (k : Nat) (i : Nat → Nat → Nat) : Prop where
  lt : ∀ l ∈ x.lanes o.g k, i k l < 128 ∧ i k l < x.allot
  index : ∀ l ∈ x.lanes o.g k, (low ((x.slice k).field o.idx false l)).toInt + o.off.toInt = i k l

/-- The other field of MOVX: the destination of the read form, the source of the write form. -/
def movxOther (o : MovxOp) : Reg × Bool :=
  match o.dir with
  | .read d => (.v d, false)
  | .write a => (a, false)

theorem movxFields_fields (o : MovxOp) (x : Wave) : x.Fields [(o.idx, false), movxOther o] → x.Fields (movxFields o).fields := by
  intro h f hf
  refine h f ?_
  revert hf
  unfold movxFields movxOther
  cases o.dir <;> simp [Shape.fields, or_comm]

theorem movxIndex_eq (hr : Ready s x) (hk : k ∈ s.now.slices) (hq : qNum? o.idx = none) (hi : MovxInRange o x k i) {l : Nat}
    (hl : l ∈ x.lanes o.g k) : movxIndex o (s.laneCtx x k) (x.slice k) l = i k l := by
  rw [movxIndex, Ctx.readReg_quiet (x := s.laneCtx x k) hr.shared (hr.quiet hk) _ _ _ hq]
  exact hi.index l hl

/-- What MOVX does in one lane of slice k. -/
def movxPart (o : MovxOp) (x : Wave) (i : Nat → Nat → Nat) (k l : Nat) : LanePart :=
  match o.dir with
  | .read d => ⟨some (.v d, false), fun _ => [l], fun _ _ => word ((x.slice k).raw (.v (i k l) l))⟩
  | .write a => ⟨some (.v (BitVec.ofNat 7 (i k l)), false), fun _ => [l], fun _ _ => val ((x.slice k).field a false l)⟩

theorem movxOp_lanes (c : Ctx) (sl : Slice) {l : Nat} (hl : l ∈ lanesOf (sl.exec o.g)) : (movxOp o c sl l).lanes sl = [l] := by
  have h := filter_eq_singleton (lanesOf_nodup _) hl
  unfold movxOp LaneOp.lanes Shape.uniform
  cases o.dir <;> simpa [eq_comm] using h

/-- The operation of one lane names registers of the allotment alone, and answers as its part says. -/
theorem movxOp_part (hr : Ready s x) (hk : k ∈ s.now.slices) (hf : x.Fields [(o.idx, false), movxOther o]) (hi : MovxInRange o x k i)
    {l : Nat} (hl : l ∈ x.lanes o.g k) :
    let op := movxOp o (s.laneCtx x k) (x.slice k) l
    let p := op.part (s.laneCtx x) x
    let q := movxPart o x i k l
    op.Clear x ∧ p.writes k = q.writes k ∧ p.preds k = q.preds k ∧ p.raised k = q.raised k := by
  intro op p q
  obtain ⟨hidx, hother⟩ := List.forall_mem_cons.1 hf
  replace hother := List.forall_mem_singleton.1 hother
  obtain ⟨h128, hallot⟩ := hi.lt l hl
  have hindex := movxIndex_eq hr hk hidx.1 hi hl
  have hnum : (BitVec.ofNat 7 (i k l)).toNat = i k l := by simp [Nat.mod_eq_of_lt h128]
  have hlanes : p.lanes k = [l] := movxOp_lanes _ _ hl
  have hfields : x.Fields op.sh.fields := by
    intro f hmem
    have hmem' : f = (.v (BitVec.ofNat 7 (i k l)), false) ∨ f = (o.idx, false) ∨ f = movxOther o := by
      simp only [op, movxOp, hindex, Int.toNat_natCast] at hmem
      unfold movxOther
      cases hd : o.dir <;> simp_all [Shape.fields] <;> tauto
    rcases hmem' with rfl | rfl | rfl
    · simpa [qNum?, vNums, hnum] using hallot
    · exact hidx
    · exact hother
  have hout : p.out k = (op.plain x).out k := LaneOp.part_plain hr hfields hk
  refine ⟨LaneOp.clear_of_fields hfields, LanePart.congr_on ?_ ?_ ?_⟩
  · show op.sh.d = q.d
    simp only [op, q, movxOp, movxPart, hindex, Int.toNat_natCast]
    cases o.dir <;> rfl
  · rw [hlanes]
    unfold q movxPart
    cases o.dir <;> rfl
  · intro j hj
    obtain rfl : j = l := by
      unfold q movxPart at hj
      cases hd : o.dir <;> simpa [hd] using hj
    rw [hout]
    show op.f (x.laneRead op.sh k j) = q.out k j
    simp only [op, q, movxOp, movxPart, hindex, Int.toNat_natCast]
    cases o.dir with
    | read d => simp [Wave.laneRead, LaneIn.a, Slice.field, word, hnum]
    | write a => simp [Wave.laneRead, LaneIn.a, val]

/-- MOVX with every index in range plans one operation for each executing lane. -/
theorem planMovx_eq_planSlice (hr : Ready s x) (hk : k ∈ s.now.slices) (hf : x.Fields [(o.idx, false), movxOther o])
    (hi : MovxInRange o x k i) : planMovx o (s.laneCtx x k) (x.slice k)
      = planSlice ((x.lanes o.g k).map (movxOp o (s.laneCtx x k) (x.slice k))) (s.laneCtx x k) (x.slice k) := by
  have hclear : ∀ p ∈ [({ sh := movxFields o, f := fun _ => {} } : LaneOp)], p.Clear x := by
    intro p hp
    rw [List.mem_singleton.1 hp]
    exact LaneOp.clear_of_fields (movxFields_fields o x hf)
  have hin : (lanesOf ((x.slice k).exec o.g)).filter (fun l => movxIndex o (s.laneCtx x k) (x.slice k) l < 0
      || (x.allot : Int) ≤ movxIndex o (s.laneCtx x k) (x.slice k) l) = [] := by
    refine List.filter_eq_nil_iff.2 (fun l hl => ?_)
    rw [movxIndex_eq hr hk (hf _ (List.mem_cons_self ..)).1 hi hl]
    have := (hi.lt l hl).2
    simp only [Bool.or_eq_true, decide_eq_true_eq, not_or]
    omega
  unfold planMovx
  simp only [planChecks_clear (x := s.laneCtx x k) _ hclear, (hr.quiet hk).blocked, Bool.false_eq_true, if_false,
    Core.shareAll_none (k := (s.laneCtx x k).core) hr.shared, Option.isNone_some, show (s.laneCtx x k).wave = x from rfl, hin,
    List.isEmpty_nil, if_true]
  rfl

theorem execMovx_ran (hr : Ready s x) (hf : x.Fields [(o.idx, false), movxOther o]) (hi : ∀ k ∈ s.now.slices, MovxInRange o x k i) :
    Ran s (issuePlans (planMovx o) (fun _ s => s) s) x (fun k => (x.lanes o.g k).map (movxPart o x i k)) := by
  let ops := fun k => (x.lanes o.g k).map (movxOp o (s.laneCtx x k) (x.slice k))
  refine Ran.congr ?_ (issuePlans_ran hr (fun _ _ _ => rfl) (ps := fun k => (ops k).map (·.part (s.laneCtx x) x)) ?_)
  · intro k hk
    have h := fun l hl => (movxOp_part (l := l) hr hk hf (hi k hk) hl).2
    simp only [ops, List.flatMap_map]
    exact ⟨List.flatMap_congr (fun l hl => (h l hl).1), List.flatMap_congr (fun l hl => (h l hl).2.1),
      List.flatMap_congr (fun l hl => (h l hl).2.2)⟩
  · intro k hk
    rw [planMovx_eq_planSlice hr hk hf (hi k hk)]
    refine planSlice_run rfl rfl hr.shared (hr.quiet hk) hr.tmask (fun p hp => ?_)
    obtain ⟨l, hl, rfl⟩ := List.mem_map.1 hp
    exact (movxOp_part hr hk hf (hi k hk) hl).1

end

/-- Settles O3: all but MOVX are one lane operation; its read and write forms are one for each executing lane. -/
theorem compareAndMoveCompletes : Obligations.CompareAndMoveCompletes := by
  refine ⟨fun s x hr => ⟨fun o h => ?_, fun o h => ?_, fun o => ?_, fun o h => ?_, fun o h => ?_,
    fun o h => ?_, fun o h => ?_, fun o h => ?_, fun o h => ?_⟩, ?_⟩
  case refine_3 =>
    exact runs_of_issueLane hr rfl (fun _ h => absurd h List.not_mem_nil) rfl rfl rfl (fun _ _ => rfl)
  case refine_6 =>
    have h' := runs_alu1 hr h (Bool.and_true _) (i := .mov o) rfl
    exact h'
  case refine_10 =>
    intro s x hr o i hq hn hi ho
    have hf : x.Fields [(o.idx, false), movxOther o] := by
      refine List.forall_mem_cons.2 ⟨⟨hq, hn⟩, List.forall_mem_singleton.2 ?_⟩
      unfold movxOther
      cases hd : o.dir with
      | read d => simpa [hd, qNum?, vNums] using ho
      | write a => simpa [hd] using ho
    have hran := execMovx_ran (i := i) hr hf (fun k hk => ⟨fun l hl => ⟨(hi k hk l hl).1, (hi k hk l hl).2.1⟩, fun l hl => (hi k hk l hl).2.2⟩)
    exact ⟨_, rfl, hran⟩
  all_goals exact runs_of_issueLane hr rfl h rfl rfl rfl (fun _ _ => rfl)

end Sys2Proof.Machine
end

section
/-!
PROOFS. Control instructions (02 R66 to R83): each slice of a ready gang passes the checks of its operands, so its effect alone says
what the instruction does.
-/

namespace Sys2Proof.Machine

open Claim

/-! ### Fields of operands -/

@[simp] theorem Wave.fields_nil (x : Wave) : x.Fields [] := fun _ h => absurd h List.not_mem_nil
@[simp] theorem Wave.fields_cons (x : Wave) (f : Reg × Bool) (fs : List (Reg × Bool)) :
    x.Fields (f :: fs) ↔ (qNum? f.1 = none ∧ ∀ n ∈ vNums f.1 f.2, n < x.allot) ∧ x.Fields fs := List.forall_mem_cons

/-- An s register is a field of every wave. -/
theorem Wave.fields_of_s {x : Wave} {fs : List (Reg × Bool)} (h : ∀ f ∈ fs, ∃ n, f.1 = .s n) : x.Fields fs := by
  intro f hf
  obtain ⟨n, hn⟩ := h f hf
  simp [hn, qNum?, vNums]

theorem Ready.shareAll {s : State} {x : Wave} (hr : Ready s x) (k : Nat) (us : List (Nat × Nat × ShareUse)) :
    (s.ctx x k).core.shareAll (s.ctx x k).slot us = some (s.ctx x k).core := Core.shareAll_none (k := (s.ctx x k).core) hr.shared _ us

theorem Ready.readReg {s : State} {x : Wave} (hr : Ready s x) {k : Nat} (hk : k ∈ s.now.slices) {r : Reg} (hq : qNum? r = none)
    (wide : Bool) (l : Nat) : (s.ctx x k).readReg (x.slice k) r wide l = (x.slice k).field r wide l :=
  Ctx.readReg_quiet (x := s.ctx x k) hr.shared (hr.quiet hk) r wide l hq

theorem Ready.readLoc {s : State} {x : Wave} (hr : Ready s x) {k : Nat} (hk : k ∈ s.now.slices) (loc : Loc) :
    (s.ctx x k).readLoc (x.slice k) loc = (x.slice k).raw loc := Ctx.readLoc_quiet (x := s.ctx x k) hr.shared (hr.quiet hk) loc

/-! ### The driver of control instructions -/

section

variable {s : State} {x : Wave} {i : Instr}

/-- The slices of a ready gang take the effects of a control instruction in turn. -/
theorem issueActs_control (hr : Ready s x) {sh : Shape} {edge : Bool} {go : Ctx → Slice → List Nat → Act} {f : Nat → State → State}
    (h : x.Fields sh.fields) (he : edge = true → Edged s x)
    (hgo : ∀ k ∈ s.now.slices, go (s.ctx x k) (x.slice k) (x.lanes sh.g k) = .go (f k)) :
    issueActs (planControl sh edge go) s = s.now.slices.foldl (fun t k => f k t) s :=
  issueActs_go hr (fun k hk => (planControl_go hr hk h he).trans (hgo k hk))

theorem acts_of_control (hr : Ready s x) {sh : Shape} {edge : Bool} {go : Ctx → Slice → List Nat → Act} {f : Nat → State → State}
    (hi : exec i s = .next (issueActs (planControl sh edge go) s)) (h : x.Fields sh.fields) (he : edge = true → Edged s x)
    (hgo : ∀ k ∈ s.now.slices, go (s.ctx x k) (x.slice k) (x.lanes sh.g k) = .go (f k)) : Acts s i f := by
  rw [Acts, hi, issueActs_control hr h he hgo]

/-- The effect of an instruction without register operands that is no region edge. -/
theorem acts_of_plain_control (hr : Ready s x) {g : Option Guard} {go : Ctx → Slice → List Nat → Act} {f : Nat → State → State}
    (hi : exec i s = .next (issueActs (planControl { g, srcs := [] } false go) s))
    (hgo : ∀ k ∈ s.now.slices, go (s.ctx x k) (x.slice k) (x.lanes g k) = .go (f k)) : Acts s i f :=
  acts_of_control hr hi x.fields_nil nofun hgo

end

/-! ### Branches (02 R67, R70 to R72) -/

section

variable {s : State} {x : Wave}

theorem acts_brx (hr : Ready s x) (o : BrxOp) (h : x.Fields [(o.a.reg, false)]) : Acts s (.brx o) (fun k t =>
    ((t.shareNow ((s.ctx x k).shareUses (BrxOp.shape o) (x.lanes o.g k) [])).markNow (BrxOp.shape o) (x.lanes o.g k) k).modNow k
      (fun sl => brxBranch sl.goOn ((x.lanes o.g k).map (fun l => (l, low (x.src k o.a false l)))))) := by
  refine acts_of_control hr rfl h nofun (fun k hk => ?_)
  have hq : qNum? o.a.reg = none := (h _ (List.mem_cons_self ..)).1
  simp only [hr.shareAll k, hr.readReg hk hq]
  rfl

theorem acts_call (hr : Ready s x) (o : CallOp) : Acts s (.call o) (fun k t => t.modNow k (fun sl =>
    (if x.lanes o.g k = [] then sl.goOn else sl.goOn.write s.fresh (.s o.d.toNat) ((x.slice k).pc.next.idx.setWidth 32)).branch
      (lanesMask (x.lanes o.g k)) { (x.slice k).pc with idx := o.target } (some (x.slice k).pc.next) (x.slice k).pc.next)) := by
  refine acts_of_control hr rfl (Wave.fields_of_s (by simp [CallOp.shape, Shape.fields])) nofun (fun k hk => ?_)
  simp only [Act.become, List.isEmpty_iff]
  rfl

theorem acts_ret (hr : Ready s x) (o : S1Op) : Acts s (.ret o) (fun k t =>
    (t.markNow (S1Op.shape o) (x.lanes o.g k) k).modNow k (fun sl => sl.goOn.branch (lanesMask (x.lanes o.g k))
      { (x.slice k).pc with idx := ((x.slice k).raw (.s o.a.toNat)).setWidth 9 } none (x.slice k).pc.next)) := by
  refine acts_of_control hr rfl (Wave.fields_of_s (by simp [S1Op.shape, Shape.fields])) nofun (fun k hk => ?_)
  simp only [hr.readLoc hk]
  rfl

/-- Settles O8, instruction by instruction. -/
theorem branchesComplete : Obligations.BranchesComplete := fun _ _ hr =>
  ⟨fun _ => acts_of_plain_control hr rfl (fun _ _ => rfl), acts_brx hr, acts_call hr, acts_ret hr⟩

/-! ### Instructions that mark, or move the slice on (02 R73 to R77, R80, R83) -/

theorem exec_regang (hr : Ready s x) (o : RegangOp) : exec (.regang o) s = .next (s.now.slices.foldl (fun t k =>
    if x.lanes o.g k = [] then t.modNow k Slice.passOn
    else
      let named := (o.slices ||| (1#16 <<< k)) &&& BitVec.ofNat 16 (2 ^ (x.width / 4) - 1)
      t.modNow k (fun sl => { sl with windows := [], wait := some (.regang named) })) s).regangNow := by
  refine congrArg (fun t : State => Host.Outcome.next t.regangNow) ?_
  refine issueActs_control hr (f := fun k t => if x.lanes o.g k = [] then t.modNow k Slice.passOn else _)
    x.fields_nil nofun (fun k hk => ?_)
  simp only [List.isEmpty_iff]
  split <;> rfl

/-- Settles O9, instruction by instruction; of two BRKs before one edge the later one's code stands (log 72). -/
theorem markersComplete : Obligations.MarkersComplete := by
  intro s x hr
  refine ⟨fun o => acts_of_plain_control hr rfl (fun k hk => ?_), fun g => acts_of_plain_control hr rfl (fun k hk => ?_),
    fun o => acts_of_plain_control hr rfl (fun k hk => ?_), exec_regang hr, fun o => acts_of_plain_control hr rfl (fun k hk => ?_)⟩
  case refine_4 => simp only [Bool.or_eq_true, List.isEmpty_iff, decide_eq_true_eq]; rfl
  all_goals simp only [Act.become, List.isEmpty_iff]; rfl

/-- A gang of this step's age comes behind every older one of its class, where neither is boosted (25 R424). -/
theorem Candidate.before_of_age_lt {a b : Candidate} (hc : a.cls = b.cls) (ha : a.gang.boosted = false) (hb : b.gang.boosted = false)
    (hage : a.gang.age < b.gang.age) : a.before b = true ∧ b.before a = false := by
  simp [Candidate.before, hc, ha, hb, Nat.ne_of_lt hage, Nat.ne_of_gt hage, hage, Nat.le_of_lt hage]

/-- Settles O10: neither goes through an edge, and YIELD gives the gang an age that no older gang has. -/
theorem nopAndYield : Obligations.NopAndYield := by
  refine ⟨fun s x hr g => ⟨acts_of_plain_control hr rfl (fun _ _ => rfl), acts_of_plain_control hr rfl (fun k hk => ?_)⟩, ?_⟩
  · simp only [List.isEmpty_iff]
    rfl
  · exact fun s a b hc ha hb hage hlt => Candidate.before_of_age_lt hc ha hb (hage ▸ hlt)

/-! ### Region edges and ends (02 R74, R76, R78, R82) -/

theorem acts_jmpf (hr : Ready s x) (he : Edged s x) (o : JmpfOp) (h : (s.core s.now.core).hasSegment x.image o.seg = true) :
    Acts s (.jmpf o) (fun k t =>
      let t := t.modNow k (fun sl => { sl.goOn with pc := { seg := o.seg, idx := o.idx } })
      (t.enterSegment t.now.core x.image o.seg).closeRegion t.now.core t.now.slot k (x.slice k).lastLive (x.slice k).pc) := by
  refine acts_of_control hr rfl x.fields_nil (fun _ => he) (fun k hk => ?_)
  rw [if_pos (show (s.ctx x k).core.hasSegment (s.ctx x k).wave.image o.seg = true from h)]
  rfl

/-- A slice in a handler takes the effect of its TRET. -/
theorem acts_tret (hr : Ready s x) (he : Edged s x)
    (h : ∀ k ∈ s.now.slices, (x.slice k).handler.isSome ∧ (s.core s.now.core).hasSegment x.image (x.slice k).tpc.seg = true) :
    Acts s .tret (fun k t =>
      let t := t.modNow k Slice.goOn
      t.trapReturn t.now.core t.now.slot k) := by
  refine congrArg Host.Outcome.next (issueActs_go hr (fun k hk => ?_))
  obtain ⟨hin, hseg⟩ := h k hk
  rw [if_neg (by simpa [← Option.isSome_iff_ne_none] using hin),
    planControl_go hr hk (sh := { g := none, srcs := [] }) x.fields_nil (fun _ => he),
    if_pos (show (s.laneCtx x k).core.hasSegment (s.laneCtx x k).wave.image _ = true from hseg)]
  rfl

/-- The last lane of a slice leaves with nothing of the slice's still due. -/
theorem acts_exit (hr : Ready s x) (he : Edged s x) (g : Option Guard) : Acts s (.exit g) (fun k t =>
    let t := t.modNow k (fun sl =>
      let done := sl.done ||| lanesMask (x.lanes g k)
      Slice.settle { sl.passOn with done, mask := sl.mask &&& ~~~done })
    if ((t.slice? t.now.core t.now.slot k).map (·.ended)).getD false then t.modNowWave (fun w => w.dropFromGang k) else t) := by
  refine acts_of_plain_control hr rfl (fun k hk => ?_)
  obtain ⟨hdef, hcom⟩ := he k hk
  rw [if_neg (by simp [show (s.ctx x k).core.uncommitted (s.ctx x k).slot (s.ctx x k).k = false from hcom]), if_neg (by simp [hdef])]
  rfl

/-- Settles O11, instruction by instruction. -/
theorem edgesComplete : Obligations.EdgesComplete := fun _ x hr he =>
  ⟨acts_jmpf hr he, fun _ => acts_of_control hr rfl x.fields_nil (fun _ => he) (fun _ _ => rfl), acts_tret hr he, acts_exit hr he⟩

end

end Sys2Proof.Machine
end

section
/-!
PROOFS. System instructions (02 R79 to R85, 09 R181 to R183): special registers and service calls, issued by a gang of one slice.
-/

namespace Sys2Proof.Machine

open Claim

/-! ### A gang of one slice -/

section

variable {s : State} {x : Wave} {k : Nat}

theorem mem_slices_of_one (hk : s.now.slices = [k]) : k ∈ s.now.slices := hk ▸ List.mem_singleton_self k

/-- A gang of one slice whose plan goes on takes its effect. -/
theorem issueActs_go_one {plan : State → Ctx → Slice → Act} {f : State → State} (hw : s.wave? s.now.core s.now.slot = some x)
    (hk : s.now.slices = [k]) (hp : plan s (s.ctx x k) (x.slice k) = .go f) : issueActs plan s = f s := by
  simp [issueActs, hw, hk, hp, Act.isStall, Act.wait?, waitTogether, commitAct]

/-- What a control instruction of one slice does where its plan goes on. -/
theorem issueControl_go_one (hr : Ready s x) (hk : s.now.slices = [k]) {sh : Shape} {edge : Bool}
    {go : Ctx → Slice → List Nat → Act} {f : State → State} (h : x.Fields sh.fields) (he : edge = true → Edged s x)
    (hgo : go (s.ctx x k) (x.slice k) (x.lanes sh.g k) = .go f) : issueActs (planControl sh edge go) s = f s :=
  issueActs_go_one hr.wave hk ((planControl_go hr (mem_slices_of_one hk) h he).trans hgo)

/-! ### Access of a special register (02 R84) -/

/-- With an executing lane, an access that passes the checks of its operands is a trap or goes on. -/
theorem planSr_executing (hr : Ready s x) (hk : k ∈ s.now.slices) {sh : Shape} {num : Nat} {write : Bool}
    {go : Ctx → Slice → List Nat → Act} (h : x.Fields sh.fields) (he : Edged s x) (hl : x.lanes sh.g k ≠ []) :
    planSr sh num write go s (s.ctx x k) (x.slice k) = match s.srFault x num write with
      | some code => .trap { code, lanes := lanesMask (x.lanes sh.g k) }
      | none => go (s.ctx x k) (x.slice k) (x.lanes sh.g k) := by
  refine (planControl_go hr hk h (fun _ => he)).trans ?_
  rw [if_neg (by simpa using hl)]
  rfl

theorem issueSr_go (hr : Ready s x) (he : Edged s x) (hk : s.now.slices = [k]) {sh : Shape} {num : Nat} {write : Bool}
    {go : State → Ctx → Slice → List Nat → Act} {f : State → State} (h : x.Fields sh.fields) (hl : x.lanes sh.g k ≠ [])
    (hok : s.srFault x num write = none) (hgo : go s (s.ctx x k) (x.slice k) (x.lanes sh.g k) = .go f) :
    issueActs (fun s => planSr sh num write (go s) s) s = f s := by
  refine issueActs_go_one hr.wave hk ((planSr_executing hr (mem_slices_of_one hk) h he hl).trans ?_)
  rw [hok]
  exact hgo

theorem issueSr_trap (hr : Ready s x) (he : Edged s x) (hk : s.now.slices = [k]) {sh : Shape} {num : Nat} {write : Bool}
    {go : State → Ctx → Slice → List Nat → Act} {code : Byte} (h : x.Fields sh.fields) (hl : x.lanes sh.g k ≠ [])
    (hbad : s.srFault x num write = some code) :
    issueActs (fun s => planSr sh num write (go s) s) s = s.trapNow k { code, lanes := lanesMask (x.lanes sh.g k) } := by
  refine issueActs_trap_one hr.wave hk ((planSr_executing hr (mem_slices_of_one hk) h he hl).trans ?_)
  rw [hbad]

theorem RsrOp.shape_fields {x : Wave} {o : RsrOp} (h : ∀ v, o.d = .lane v → v.toNat < x.allot) : x.Fields (RsrOp.shape o).fields := by
  unfold RsrOp.shape
  cases hd : o.d with
  | pair p => exact Wave.fields_of_s (by simp [Shape.fields, pairReg])
  | lane v => simpa [Shape.fields, qNum?, vNums] using h v hd

theorem WsrOp.shape_fields (x : Wave) (o : WsrOp) : x.Fields (WsrOp.shape o).fields :=
  Wave.fields_of_s (by simp [WsrOp.shape, Shape.fields, pairReg])

theorem Ctx.isShared_none {c : Ctx} (h : c.core.shared = []) (loc : Loc) : c.isShared loc = false := by
  cases loc <;> simp [Ctx.isShared, Core.sharedAt_none h]

theorem exec_rsr_pair (hr : Ready s x) (he : Edged s x) (hk : s.now.slices = [k]) {o : RsrOp} {p : SPair} (hd : o.d = .pair p)
    (hl : x.lanes o.g k ≠ []) (hok : s.srFault x o.num.toNat false = none) :
    exec (.rsr o) s = .next ((s.putPair k p (s.readSr s.now.core s.now.slot k x (x.slice k) o.num.toNat)).srDone
      (s.ctx x k) (x.slice k) o.num.toNat (pairLocs p)) := by
  refine congrArg Host.Outcome.next (issueSr_go hr he hk (RsrOp.shape_fields (by simp [hd])) hl hok
    (f := fun t => (t.putPair k p (t.readSr t.now.core t.now.slot k x (x.slice k) o.num.toNat)).srDone _ _ _ _) ?_)
  simp only [hd]
  rfl

theorem exec_rsr_lane (hr : Ready s x) (he : Edged s x) (hk : s.now.slices = [k]) {o : RsrOp} {v : BitVec 7} (hd : o.d = .lane v)
    (hv : v.toNat < x.allot) (hl : x.lanes o.g k ≠ []) (hok : s.srFault x o.num.toNat false = none) :
    let ws : List (Loc × W32) := (x.lanes o.g k).map (fun l => (.v v.toNat l, BitVec.ofNat 32 (4 * k + l)))
    exec (.rsr o) s = .next (((s.shareNow ((s.ctx x k).shareUses { g := none, srcs := [] } [] ws)).modNow k (fun sl =>
      sl.writeAll (writeFresh s.fresh k) ws)).srDone (s.ctx x k) (x.slice k) o.num.toNat []) := by
  intro ws
  have hfields : ∀ w, o.d = .lane w → w.toNat < x.allot := fun w hw => by
    obtain rfl : v = w := by simpa [hd] using hw
    exact hv
  refine congrArg Host.Outcome.next (issueSr_go hr he hk (RsrOp.shape_fields hfields) hl hok
    (f := fun t => ((t.shareNow ((s.ctx x k).shareUses { g := none, srcs := [] } [] ws)).modNow k (fun sl =>
      sl.writeAll (writeFresh t.fresh k) ws)).srDone (s.ctx x k) (x.slice k) o.num.toNat []) ?_)
  have hws : ws.filter (fun w => !(s.ctx x k).isShared w.1) = ws :=
    List.filter_eq_self.2 (fun w _ => by simp [Ctx.isShared_none (c := s.ctx x k) hr.shared])
  have hshare := hr.shareAll k ((s.ctx x k).shareUses { g := none, srcs := [] } [] ws)
  simp only [hd]
  rw [show (RsrOp.shape o).g = o.g from rfl, show (s.ctx x k).k = k from rfl, hshare, hws]

theorem exec_wsr (hr : Ready s x) (he : Edged s x) (hk : s.now.slices = [k]) {o : WsrOp} (hl : x.lanes o.g k ≠ [])
    (hok : s.srFault x o.num.toNat true = none) :
    let v := (x.slice k).field (pairReg o.a) true 0
    (o.num = 0x04A → s.actReady s.now.core (v.toNat % 8) = true) →
    exec (.wsr o) s = .next ((if o.num = 0x04A then s.mbact s.now.core (v.toNat % 8)
      else s.writeSr s.now.core s.now.slot x.process o.num.toNat v).srDone (s.ctx x k) (x.slice k) o.num.toNat []) := by
  intro v hready
  refine congrArg Host.Outcome.next (issueSr_go hr he hk (WsrOp.shape_fields x o) hl hok
    (f := fun t => (if o.num = 0x04A then t.mbact t.now.core (v.toNat % 8)
      else t.writeSr t.now.core t.now.slot x.process o.num.toNat v).srDone _ _ _ _) ?_)
  have hv : (s.ctx x k).pair (x.slice k) o.a = v := hr.readReg (mem_slices_of_one hk) rfl true 0
  rw [hv, if_neg (by simpa [v] using hready)]
  rfl

/-- Settles O12, register by pair, by lane, and written. -/
theorem specialRegisterAccessCompletes : Obligations.SpecialRegisterAccessCompletes := by
  intro s x k hr he hk
  refine ⟨fun o hl hok => ?_, fun o hl hok => exec_wsr hr he hk hl hok⟩
  cases hd : o.d with
  | pair p => exact exec_rsr_pair hr he hk hd hl hok
  | lane v => exact fun hv => exec_rsr_lane hr he hk hd hv hl hok

theorem srFault_secure (x : Wave) {num : Nat} (h : isSecureSr num = true) (hw : s.secureWave x = false) (write : Bool) :
    s.srFault x num write = some 0x23 := by
  simp [State.srFault, h, hw]

/-- The supervisor's registers are not the secure ones. -/
theorem srFault_supervisor {x : Wave} {num : Nat} (h : isSupervisorSr num = true) (hw : x.supervisor = false) (write : Bool) :
    s.srFault x num write = some 0x21 := by
  have hsec : isSecureSr num = false := by
    simp only [isSupervisorSr, isSecureSr, Bool.and_eq_true, Bool.and_eq_false_iff, decide_eq_true_eq, decide_eq_false_iff_not] at *
    omega
  simp [State.srFault, h, hsec, hw]

/-- Settles O15: the checks of 02 R84 in their order. -/
theorem specialRegisterAccessTraps : Obligations.SpecialRegisterAccessTraps := by
  intro s x k code hr he hk
  refine ⟨fun o hl hv hbad => ?_, fun o hl hbad => ?_, fun num h hw write => srFault_secure x h hw write,
    fun num h hw write => srFault_supervisor h hw write⟩
  · exact congrArg Host.Outcome.next (issueSr_trap hr he hk (RsrOp.shape_fields hv) hl hbad)
  · exact congrArg Host.Outcome.next (issueSr_trap hr he hk (WsrOp.shape_fields x o) hl hbad)

/-! ### Service calls (02 R81) -/

/-- A record goes to a mailbox with room, and its slice waits alone (09 R181). -/
theorem State.mailSlice_of_room {s : State} {c w k : Nat} {r : MailRecord} {f : Slice → Slice} {wait : Wait}
    (hroom : (s.core c).mailbox.length < 64) (hheld : (s.core c).heldMail = []) :
    s.mailSlice c w k r f wait = ((s.setCore c { s.core c with mailbox := (s.core c).mailbox ++ [r] }).modSlice c w k
      (fun sl => { f sl with wait := some wait })).modWave c w (·.leaveGang k) := by
  rw [State.mailSlice, if_pos (by simp [mailboxSize, hroom, hheld])]

/-- The record an SVC of slice k sends: the eight registers it names are all in it. -/
def State.svcRecord (s : State) (x : Wave) (k : Nat) (o : SvcOp) : MailRecord :=
  let v := (svcRegs o.a).map (fun n => (x.slice k).raw (.s n))
  { kind := 2, cls := x.prio.toNat, slice := k, wave := waveId s.now.core s.now.slot, pc := (x.slice k).pc, service := o.num
    word := s.now.word, lanes := waveLanes k (lanesMask (x.lanes o.g k)), addr := v.getD 1 0 ++ v.getD 0 0
    proc := v.getD 2 0, aux := v.getD 3 0, args := v.drop 4, gen := s.gen s.now.core s.now.slot }

theorem exec_svc (hr : Ready s x) (he : Edged s x) (hk : s.now.slices = [k]) {o : SvcOp} (hl : x.lanes o.g k ≠ []) :
    exec (.svc o) s = .next (s.mailSlice s.now.core s.now.slot k (s.svcRecord x k o) (fun sl => { sl with windows := [] })
      (.reply (8 * o.a.toNat))) := by
  have hv : (svcRegs o.a).map (fun n => (s.ctx x k).readLoc (x.slice k) (.s n)) = (svcRegs o.a).map (fun n => (x.slice k).raw (.s n)) :=
    List.map_congr_left (fun n _ => hr.readLoc (mem_slices_of_one hk) (.s n))
  refine congrArg Host.Outcome.next (issueControl_go_one hr hk (Wave.fields_of_s (by simp [SvcOp.shape, Shape.fields])) (fun _ => he)
    (f := fun t => t.mailSlice t.now.core t.now.slot k (t.svcRecord x k o) (fun sl => { sl with windows := [] })
      (.reply (8 * o.a.toNat))) ?_)
  simp only [hv]
  rw [if_neg (by simpa [SvcOp.shape] using hl)]
  rfl

/-- Settles O13: the record goes to a mailbox with room; a word that is no instruction takes its trap. -/
theorem serviceCallCompletes : Obligations.ServiceCallCompletes := by
  intro s x k hr hk
  refine ⟨fun o he hl hroom hheld => ?_, fun word code => exec_illegalOpcode_one hr.wave hk word code⟩
  rw [exec_svc hr he hk hl, State.mailSlice_of_room hroom hheld]
  rfl

end

end Sys2Proof.Machine
end

section
/-!
PROOFS. Fences, counter waits and prefetches (02 R65, 10 R207, R208, R210).
-/

namespace Sys2Proof.Machine

open Claim

section

variable {s : State} {x : Wave} {k : Nat}

/-! ### The lanes and operands of a slice of a ready gang -/

@[simp] theorem workLanes_all (x : Wave) (k : Nat) (g : Option Guard) : workLanes (x.slice k) g false = x.lanes g k := rfl
@[simp] theorem workLanes_once (x : Wave) (k : Nat) (g : Option Guard) : workLanes (x.slice k) g true = (x.lanes g k).take 1 := rfl
theorem take_one_isEmpty (ls : List Nat) : (ls.take 1).isEmpty = ls.isEmpty := by cases ls <;> rfl

@[simp] theorem State.ctx_core (s : State) (x : Wave) (k : Nat) : (s.ctx x k).core = s.core s.now.core := rfl
@[simp] theorem State.ctx_slot (s : State) (x : Wave) (k : Nat) : (s.ctx x k).slot = s.now.slot := rfl
@[simp] theorem State.ctx_wave (s : State) (x : Wave) (k : Nat) : (s.ctx x k).wave = x := rfl
@[simp] theorem State.ctx_k (s : State) (x : Wave) (k : Nat) : (s.ctx x k).k = k := rfl

theorem Ready.operands (hr : Ready s x) (hk : k ∈ s.now.slices) {sh : Shape} (lanes : List Nat) (h : x.Fields sh.fields) :
    operandCheck sh false (s.ctx x k) (x.slice k) lanes = none := operandCheck_clear hr hk h nofun

theorem Ready.operandsAtEdge (hr : Ready s x) (hk : k ∈ s.now.slices) {sh : Shape} (edge : Bool) (lanes : List Nat)
    (h : x.Fields sh.fields) (he : Edged s x) : operandCheck sh edge (s.ctx x k) (x.slice k) lanes = none :=
  operandCheck_clear hr hk h (fun _ => he)

theorem Ready.readLocAt (hr : Ready s x) (hk : k ∈ s.now.slices) (i : Nat) (loc : Loc) :
    (s.ctx x k).readLocAt (x.slice k) i loc = (x.slice k).raw loc := Ctx.readLocAt_quiet (x := s.ctx x k) hr.shared (hr.quiet hk) i loc

theorem Ready.readRegAt (hr : Ready s x) (hk : k ∈ s.now.slices) (i : Nat) {r : Reg} (hq : qNum? r = none) (wide : Bool) (l : Nat) :
    (s.ctx x k).readRegAt (x.slice k) i r wide l = (x.slice k).field r wide l :=
  Ctx.readRegAt_quiet (x := s.ctx x k) hr.shared (hr.quiet hk) i r wide l hq

/-- A gang of one slice whose plan goes on, and what its effect comes to. -/
theorem issueActs_eq_of_go {plan : State → Ctx → Slice → Act} {f : State → State} {t : State} (hw : s.wave? s.now.core s.now.slot = some x)
    (hk : s.now.slices = [k]) (hp : plan s (s.ctx x k) (x.slice k) = .go f) (ht : f s = t) : issueActs plan s = t :=
  ht ▸ issueActs_go_one hw hk hp

/-! ### Fences -/

/-- What a fence does once nothing is left that it awaits. -/
def State.fenced (s : State) (g : Option Guard) (need : FenceNeed) (acq : Bool) (k : Nat) : State :=
  let s := if acq then (s.acquireMet s.now.core s.now.slot k need.scope).acquire s.now.core s.now.slot need.scope else s
  let s := if need.stores then s.releaseMet s.now.core s.now.slot k need.scope else s
  s.advance { g, srcs := [] } [] k

/-- A fence with nothing left to await goes on. -/
theorem issueFence (hr : Ready s x) {g : Option Guard} {need : FenceNeed} {acq : Bool}
    (hd : ∀ k ∈ s.now.slices, x.lanes g k ≠ [] → s.drained s.now.core s.now.slot k need = true) :
    issueActs (planFence g need acq) s = s.now.slices.foldl (fun t k =>
      if x.lanes g k = [] then t.advance { g, srcs := [] } [] k else t.fenced g need acq k) s := by
  refine issueActs_go hr (fun k hk => ?_)
  show planFence g need acq s (s.ctx x k) (x.slice k) = _
  by_cases hl : x.lanes g k = []
  · simp only [planFence, workLanes_once, hl, if_true]
    rfl
  · rw [planFence, if_neg (by simpa using hl), if_pos (show s.drained s.now.core s.now.slot (s.ctx x k).k need = true from hd k hk hl)]
    simp only [if_neg hl]
    rfl

theorem acts_fence (hr : Ready s x) (o : FenceOp) :
    let need : FenceNeed := { loads := true, stores := o.kind ≠ .acq, redm := false, scope := o.scope }
    (∀ k ∈ s.now.slices, x.lanes o.g k ≠ [] → s.drained s.now.core s.now.slot k need = true) →
    Acts s (.fence o) (fun k t => if x.lanes o.g k = [] then t.advance { g := o.g, srcs := [] } [] k else
      let u := if o.kind = .rel then t else (t.acquireMet t.now.core t.now.slot k o.scope).acquire t.now.core t.now.slot o.scope
      (if o.kind = .acq then u else u.releaseMet u.now.core u.now.slot k o.scope).advance { g := o.g, srcs := [] } [] k) := by
  intro need hd
  refine congrArg Host.Outcome.next ((issueFence hr hd).trans ?_)
  obtain ⟨g, kind, scope⟩ := o
  cases kind <;> rfl

/-! ### WAITC -/

/-- A counter at or below its threshold lets the slice go on; above it the slice waits. -/
theorem acts_waitc (hr : Ready s x) (o : WaitcOp) : Acts s (.waitc o) (fun k t =>
    let n := ((x.slice k).raw (.s o.a.toNat)).toNat
    if x.lanes o.g k = [] ∨ x.counter o.path.toNat ≤ n then t.advance (WaitcOp.shape o) ((x.lanes o.g k).take 1) k
    else (t.markNow (WaitcOp.shape o) ((x.lanes o.g k).take 1) k).modNow k (fun sl => { sl with wait := some (.waitc o.path.toNat n) })) := by
  refine congrArg Host.Outcome.next (issueActs_go hr (fun k hk => ?_))
  show planWaitc o s (s.ctx x k) (x.slice k) = _
  have hf : x.Fields (WaitcOp.shape o).fields := Wave.fields_of_s (by simp [WaitcOp.shape, Shape.fields])
  unfold planWaitc
  simp only [hr.operands hk _ hf, workLanes_once, take_one_isEmpty, hr.readLoc hk, List.isEmpty_iff, State.ctx_wave]
  by_cases hl : x.lanes o.g k = []
  · simp only [hl, true_or, if_true]
    rfl
  · by_cases hn : x.counter o.path.toNat ≤ ((x.slice k).raw (.s o.a.toNat)).toNat
    · simp only [hl, hn, or_true, if_true, if_false]
      rfl
    · simp only [hl, hn, or_self, if_false]
      rfl

/-! ### PREF -/

theorem PrefOp.shape_fields {o : PrefOp} (h : x.Fields [(o.base, true)]) : x.Fields (PrefOp.shape o).fields := by
  simpa [PrefOp.shape, Shape.fields, qNum?, vNums] using h

theorem exec_pref_idle (hr : Ready s x) (hk : s.now.slices = [k]) {o : PrefOp} (h : x.Fields [(o.base, true)])
    (hl : x.lanes o.g k = []) : exec (.pref o) s = .next (s.advance (PrefOp.shape o) [] k) := by
  refine congrArg Host.Outcome.next (issueActs_go_one hr.wave hk (f := fun t => t.advance (PrefOp.shape o) [] k) ?_)
  unfold planPref
  simp only [hr.operands (mem_slices_of_one hk) _ (PrefOp.shape_fields h), workLanes_all, hl]
  rfl

theorem exec_pref (hr : Ready s x) (hk : s.now.slices = [k]) (hp : s.now.prompt = false) {o : PrefOp} (h : x.Fields [(o.base, true)]) :
    let pol := (x.slice k).raw (.s o.policy.toNat)
    let va := fun (l : Nat) => laneAddr .hbm ((x.slice k).field o.base true l) o.off
    x.lanes o.g k ≠ [] → polBad pol true = false → polOrder pol = 0 →
    (∀ l ∈ x.lanes o.g k, (canonical (va l) && s.walkerFull s.now.core x.process (va l)) = false) →
    let walks := (x.lanes o.g k).map (fun l =>
      ({ process := x.process, user := (s.asker x s.now.core false).user, core := s.now.core
         va := BitVec.ofNat 64 (va l), fillL1 := lineClass pol (va l) ≠ 3, dom := s.l1Dom s.now.core s.now.slot } : Walk))
    let cl := s.now.core / 32
    exec (.pref o) s = .next ((s.setCluster cl { s.cluster cl with walks := (s.cluster cl).walks ++ walks }).advance
      (PrefOp.shape o) (x.lanes o.g k) k) := by
  intro pol va hl hbad hord hroom walks cl
  have hmem := mem_slices_of_one hk
  have hq : qNum? o.base = none := (h _ (List.mem_cons_self ..)).1
  have hfull : (x.lanes o.g k).any (fun l => canonical (va l) && s.walkerFull s.now.core x.process (va l)) = false :=
    List.any_eq_false.2 (fun l hl' => by simpa using hroom l hl')
  refine congrArg Host.Outcome.next (issueActs_eq_of_go hr.wave hk (f := fun t =>
    let t := t.shareNow ((s.ctx x k).shareUses (PrefOp.shape o) (x.lanes o.g k) [])
    let walks := (x.lanes o.g k).map (fun l =>
      ({ process := x.process, user := (t.asker x t.now.core false).user, core := t.now.core
         va := BitVec.ofNat 64 (va l), fillL1 := lineClass pol (va l) ≠ 3, dom := t.l1Dom t.now.core t.now.slot } : Walk))
    let cl := t.now.core / 32
    let t := if t.now.prompt then walks.foldl (fun (t : State) k => t.finishWalk cl k) t
      else t.setCluster cl { t.cluster cl with walks := (t.cluster cl).walks ++ walks }
    t.advance (PrefOp.shape o) (x.lanes o.g k) k) ?_ ?_)
  · unfold planPref
    simp only [hr.operands hmem _ (PrefOp.shape_fields h), workLanes_all, hr.shareAll k, hr.readLocAt hmem, hr.readReg hmem hq,
      State.ctx_wave]
    rw [if_neg (by simpa using hl), if_neg (by simp), if_neg (by simp [pol] at hbad hord; simp [hbad, hord]),
      if_neg (by simpa [va] using hfull)]
    rfl
  · simp only [State.shareNow_none hr.shared, hp, Bool.false_eq_true, if_false]
    rfl

/-- Settles O20: fences and WAITC slice by slice, PREF in a gang of one slice. -/
theorem fencesAndCounterWaitsComplete : Obligations.FencesAndCounterWaitsComplete := fun _ _ hr =>
  ⟨acts_fence hr, fun _ hd => congrArg Host.Outcome.next (issueFence hr hd), acts_waitc hr, fun _ _ hk hp h =>
    ⟨exec_pref_idle hr hk h, exec_pref hr hk hp h⟩⟩

end

end Sys2Proof.Machine
end

section
/-!
PROOFS. Barrier objects (10 R211 to R213): what the instructions do where their object lies in the team's scratch, and what a
decrement does to it.
-/

namespace Sys2Proof.Machine

open Claim

/-! ### The decrement (10 R213) -/

/-- From zero or below the count rises by whole initial counts into the range from 1 to the initial count. -/
theorem Barrier.decrement_phases {b : Barrier} {k : Nat} (hk : 0 < k) (hc : b.count - k ≤ 0) (h0 : 0 < b.init) (h1 : b.init < 2 ^ 31) :
    ∃ n : Nat, (b.decrement k).count = b.count - k + n * b.init ∧ 0 < (b.decrement k).count ∧ (b.decrement k).count ≤ b.init
      ∧ (b.decrement k).phase = (b.phase + n) % 65536 := by
  obtain ⟨m, hm⟩ := Int.eq_ofNat_of_zero_le (a := -(b.count - k)) (by omega)
  have hd : b.decrement k = { b with count := b.count - k + ((m / b.init + 1 : Nat) : Int) * b.init
                                     phase := (b.phase + (m / b.init + 1)) % 65536 } := by
    rw [Barrier.decrement, if_neg (by omega)]
    simp only [hm, Int.toNat_natCast]
    rw [if_neg (by omega), if_neg (by simp; omega)]
  have hdiv := Nat.div_add_mod m b.init
  have hmod := Nat.mod_lt m h0
  have hmul : ((m / b.init + 1 : Nat) : Int) * b.init = ((b.init * (m / b.init) + b.init : Nat) : Int) := by
    push_cast
    ring
  refine ⟨m / b.init + 1, ?_, ?_, ?_, ?_⟩ <;> rw [hd]
  · simp only [hmul]
    omega
  · simp only [hmul]
    omega

theorem Barrier.decrement_spec (b : Barrier) (k : Nat) :
    let d := b.decrement k
    d.init = b.init ∧ d.fault = b.fault ∧ d.fcode = b.fcode ∧ (k = 0 → d = b)
    ∧ (0 < b.count - k → d.count = b.count - k ∧ d.phase = b.phase) := by
  unfold Barrier.decrement
  refine ⟨?_, ?_, ?_, fun h => by simp [h], fun h => ?_⟩
  case refine_4 =>
    by_cases hk : k = 0
    · simp [hk]
    · simp only [if_neg hk, if_pos h, and_self]
  all_goals simp only []; repeat' split
  all_goals rfl

section

variable {s : State} {x : Wave} {k : Nat}

/-! ### The driver of barrier instructions -/

theorem BinitOp.shape_fields (x : Wave) (o : BinitOp) : x.Fields (BinitOp.shape o).fields :=
  Wave.fields_of_s (by simp [BinitOp.shape, Shape.fields])
theorem BarOp.shape_fields (x : Wave) (o : BarOp) : x.Fields (BarOp.shape o).fields :=
  Wave.fields_of_s (by simp [BarOp.shape, Shape.fields])

variable {sh : Shape} {addr operand : SReg} {bad : W32 → Bool} {edge : Bool} {need : Option FenceNeed} {go : Nat → Nat → State → State}

/-- With no lane executing a barrier instruction only goes on. -/
theorem issueBarrier_idle (hr : Ready s x) (hk : s.now.slices = [k]) {plan : State → Ctx → Slice → Act}
    (hplan : plan s (s.ctx x k) (x.slice k) = planBarrier sh addr bad operand edge need go s (s.ctx x k) (x.slice k))
    (h : x.Fields sh.fields) (hl : x.lanes sh.g k = []) : issueActs plan s = s.advance sh [] k := by
  refine issueActs_go_one hr.wave hk (f := fun t => t.advance sh [] k) (hplan.trans ?_)
  have hmem := mem_slices_of_one hk
  unfold planBarrier
  simp only [workLanes_once, hl, List.take_nil, List.isEmpty_nil, Bool.not_true, Bool.and_false, (hr.quiet hmem).atEdge,
    hr.operands hmem _ h]
  rfl

/-- The object lies in the team's scratch, and nothing of the slice is ahead of the instruction. -/
structure BarrierClear (s : State) (x : Wave) (k : Nat) (sh : Shape) (addr : SReg) (need : Option FenceNeed) (c a : Nat) : Prop where
  lanes : x.lanes sh.g k ≠ []
  at_ : s.barrierAt x s.now.core (lanesMask (x.lanes sh.g k)) ((x.slice k).raw (.s addr.toNat)) = .ok (c, a)
  acquire : s.acquireAhead s.now.core s.now.slot k = none
  drained : ∀ n, need = some n → s.drained s.now.core s.now.slot k n = true
    ∧ s.ownAccessAhead { core := s.now.core, slot := s.now.slot, slice := k } { lane := 0, place := .scratch c, addr := a, size := 16 } = false

theorem issueBarrier_go (hr : Ready s x) (hk : s.now.slices = [k]) {c a : Nat} {plan : State → Ctx → Slice → Act}
    (hplan : plan s (s.ctx x k) (x.slice k) = planBarrier sh addr bad operand edge need go s (s.ctx x k) (x.slice k))
    (h : x.Fields sh.fields) (he : edge = true → Edged s x) (hc : BarrierClear s x k sh addr need c a)
    (hbad : bad ((x.slice k).raw (.s operand.toNat)) = false) : issueActs plan s = go c a s := by
  refine issueActs_go_one hr.wave hk (hplan.trans ?_)
  have hmem := mem_slices_of_one hk
  have hop : operandCheck sh (edge && !(List.take 1 (x.lanes sh.g k)).isEmpty) (s.ctx x k) (x.slice k) (List.take 1 (x.lanes sh.g k)) = none :=
    operandCheck_clear hr hmem h (fun e => he (by simpa using (Bool.and_eq_true _ _ ▸ e).1))
  unfold planBarrier
  simp only [workLanes_once, workLanes_all, (hr.quiet hmem).atEdge, hop, hr.readLoc hmem, hr.readLocAt hmem, hbad, State.ctx_wave,
    hc.at_, State.ctx_k, hc.acquire]
  rw [if_neg (by simpa [take_one_isEmpty] using hc.lanes), if_neg (by simp)]
  cases need with
  | none => rfl
  | some n =>
    obtain ⟨hd, hown⟩ := hc.drained n rfl
    simp only [Option.filter_some, hd, hown]
    rfl

end

section

variable {s : State} {x : Wave} {k c a : Nat}

theorem exec_binit_idle (hr : Ready s x) (hk : s.now.slices = [k]) (o : BinitOp) (hl : x.lanes o.g k = []) :
    exec (.binit o) s = .next (s.advance (BinitOp.shape o) [] k) := by
  have hplan : planBinit o s (s.ctx x k) (x.slice k) = planBarrier (BinitOp.shape o) o.a (fun b => b.toNat = 0 || 2 ^ 31 ≤ b.toNat) o.b
    true _ _ s (s.ctx x k) (x.slice k) := rfl
  exact congrArg Host.Outcome.next (issueBarrier_idle hr hk hplan (BinitOp.shape_fields x o) hl)

theorem exec_binit (hr : Ready s x) (hk : s.now.slices = [k]) (he : Edged s x) (o : BinitOp)
    (hc : BarrierClear s x k (BinitOp.shape o) o.a (some { loads := true, stores := true, redm := false, scope := .tm }) c a) :
    let b := (x.slice k).raw (.s o.b.toNat)
    b ≠ 0 → b.toNat < 2 ^ 31 →
    let t := ((s.untag (.scratch c) a 16 noAccess).releaseAt k .tm c a).pokeN (.scratch c) a
      (leBytes 4 b.toNat ++ leBytes 4 b.toNat ++ List.replicate 8 0)
    exec (.binit o) s = .next ((t.advance (BinitOp.shape o) ((x.lanes o.g k).take 1) k).closeRegion t.now.core t.now.slot k
      (x.slice k).lastLive (x.slice k).pc) := by
  intro b hb hlt t
  have hmem := mem_slices_of_one hk
  have hplan : planBinit o s (s.ctx x k) (x.slice k) = planBarrier (BinitOp.shape o) o.a (fun b => b.toNat = 0 || 2 ^ 31 ≤ b.toNat) o.b
    true _ _ s (s.ctx x k) (x.slice k) := rfl
  have hbad : (b.toNat = 0 || 2 ^ 31 ≤ b.toNat : Bool) = false := by
    have : b.toNat ≠ 0 := fun h => hb (BitVec.eq_of_toNat_eq h)
    simp only [Bool.or_eq_false_iff, decide_eq_false_iff_not]
    omega
  refine congrArg Host.Outcome.next ((issueBarrier_go hr hk hplan (BinitOp.shape_fields x o) (fun _ => he) hc hbad).trans ?_)
  simp only [(hr.quiet hmem).atEdge, hr.readLocAt hmem]
  rfl

theorem exec_barv_idle (hr : Ready s x) (hk : s.now.slices = [k]) (o : BarOp) (hl : x.lanes o.g k = []) :
    exec (.barv o) s = .next (s.advance (BarOp.shape o) [] k) := by
  have hplan : planBarv o s (s.ctx x k) (x.slice k) = planBarrier (BarOp.shape o) o.a (fun b => 2 ^ 31 ≤ b.toNat) o.b
    true _ _ s (s.ctx x k) (x.slice k) := rfl
  exact congrArg Host.Outcome.next (issueBarrier_idle hr hk hplan (BarOp.shape_fields x o) hl)

theorem exec_barv (hr : Ready s x) (hk : s.now.slices = [k]) (he : Edged s x) (o : BarOp)
    (hc : BarrierClear s x k (BarOp.shape o) o.a (some { loads := true, stores := true, redm := false, scope := o.scope }) c a) :
    let n := (x.slice k).raw (.s o.b.toNat)
    n.toNat < 2 ^ 31 →
    let b := s.readBarrier c a
    let t := ((s.releaseAt k o.scope c a).writeBarrier c a (b.decrement n.toNat)).putS k o.d (BitVec.ofNat 32 b.phase)
    exec (.barv o) s = .next ((t.advance (BarOp.shape o) ((x.lanes o.g k).take 1) k).closeRegion t.now.core t.now.slot k
      ((x.slice k).lastLive ||| liveOf [.s o.d.toNat]) (x.slice k).pc) := by
  intro n hlt b t
  have hmem := mem_slices_of_one hk
  have hplan : planBarv o s (s.ctx x k) (x.slice k) = planBarrier (BarOp.shape o) o.a (fun b => 2 ^ 31 ≤ b.toNat) o.b
    true _ _ s (s.ctx x k) (x.slice k) := rfl
  refine congrArg Host.Outcome.next ((issueBarrier_go hr hk hplan (BarOp.shape_fields x o) (fun _ => he) hc
    (decide_eq_false (Nat.not_le.2 hlt))).trans ?_)
  simp only [(hr.quiet hmem).atEdge, hr.readLocAt hmem]
  rfl

theorem exec_bwait_idle (hr : Ready s x) (hk : s.now.slices = [k]) (o : BarOp) (hl : x.lanes o.g k = []) :
    exec (.bwait o) s = .next (s.advance (BarOp.shape o) [] k) := by
  have hplan : planBwait o s (s.ctx x k) (x.slice k) = planBarrier (BarOp.shape o) o.a (fun _ => false) o.b
    false none _ s (s.ctx x k) (x.slice k) := rfl
  exact congrArg Host.Outcome.next (issueBarrier_idle hr hk hplan (BarOp.shape_fields x o) hl)

theorem exec_bwait (hr : Ready s x) (hk : s.now.slices = [k]) (o : BarOp) (hc : BarrierClear s x k (BarOp.shape o) o.a none c a) :
    let t := s.modNow k (fun st => { st with
      wait := some (.bwait (((x.slice k).raw (.s o.a.toNat)).setWidth 64) (((x.slice k).raw (.s o.b.toNat)).setWidth 16) o.d o.scope) })
    exec (.bwait o) s = .next (t.pollBarrier { core := t.now.core, slot := t.now.slot, slice := k }) := by
  intro t
  have hmem := mem_slices_of_one hk
  have hplan : planBwait o s (s.ctx x k) (x.slice k) = planBarrier (BarOp.shape o) o.a (fun _ => false) o.b
    false none _ s (s.ctx x k) (x.slice k) := rfl
  refine congrArg Host.Outcome.next ((issueBarrier_go hr hk hplan (BarOp.shape_fields x o) nofun hc rfl).trans ?_)
  simp only [hr.readLoc hmem, hr.readLocAt hmem]
  rfl

/-- Settles O21: the three instructions share their checks, and a decrement is arithmetic on the count and the phase. -/
theorem barriersComplete : Obligations.BarriersComplete := by
  refine ⟨fun s x k c a hr hk => ⟨fun o => ⟨?_, ?_⟩, fun o => ⟨?_, ?_⟩, fun o => ⟨?_, ?_⟩⟩, fun b k _ => ?_⟩
  · exact exec_binit_idle hr hk o
  · exact fun he hfree hl hat hb hlt hd => exec_binit hr hk he o ⟨hl, hat, hfree.1, fun n hn => by cases hn; exact ⟨hd, hfree.2⟩⟩ hb hlt
  · exact exec_barv_idle hr hk o
  · exact fun he hfree hl hat hlt hd => exec_barv hr hk he o ⟨hl, hat, hfree.1, fun n hn => by cases hn; exact ⟨hd, hfree.2⟩⟩ hlt
  · exact exec_bwait_idle hr hk o
  · exact fun hacq hl hat => exec_bwait hr hk o ⟨hl, hat, hacq, nofun⟩
  · obtain ⟨hinit, hfault, hcode, hzero, habove⟩ := b.decrement_spec k
    exact ⟨hinit, hfault, hcode, hzero, habove, fun hk hc h0 h1 => Barrier.decrement_phases hk hc h0 h1⟩

end

end Sys2Proof.Machine
end

section
/-!
PROOFS. Atomics and monitors (10 R200 to R209): their checks in a ready gang of one slice, and what goes out when they pass.
-/

namespace Sys2Proof.Machine

open Claim

section

variable {s : State} {x : Wave} {k : Nat}

/-! ### What the checks share -/

/-- Fields that name no queue leave none to wait for. -/
theorem queuesReady_of_fields {sh : Shape} (h : x.Fields sh.fields) (c : Ctx) : queuesReady c sh = true := by
  obtain ⟨hpop, hpush, _⟩ := LaneOp.clear_of_fields (o := { sh, f := fun _ => {} }) h
  simp only at hpop hpush
  simp [queuesReady, hpop, hpush]

theorem Ready.baseAddr (hr : Ready s x) (hk : k ∈ s.now.slices) {r : Reg} (hq : qNum? r = none) (space : Space) :
    baseAddr (s.ctx x k) (x.slice k) r space = fun l => ((x.slice k).field r (space == .global) l).toNat :=
  funext (fun l => congrArg BitVec.toNat (hr.readReg hk hq (space == .global) l))

/-- What a translated access leaves in the TLBs of the core that issues. -/
def State.fillIssued (s : State) (ps : List (Part × Option Xlat)) : State :=
  ps.foldl (fun (t : State) p => match p.2 with
    | some e => t.fillCoreTlb t.now.core e
    | none => t) s

theorem State.fillTlb_now (s : State) (c : Nat) (e : Xlat) : (s.fillTlb c e).now = s.now := by
  unfold State.fillTlb
  simp only []
  split <;> rfl
theorem State.fillTlb_core (s : State) (c d : Nat) (e : Xlat) : (s.fillTlb c e).core d = s.core d := by
  unfold State.fillTlb
  simp only []
  split <;> rfl

theorem State.fillCoreTlb_now (s : State) (c : Nat) (e : Xlat) : (s.fillCoreTlb c e).now = s.now := by
  unfold State.fillCoreTlb
  rw [State.fillTlb_now]
  split <;> rfl
theorem State.fillCoreTlb_shared (s : State) (c : Nat) (e : Xlat) : ((s.fillCoreTlb c e).core c).shared = (s.core c).shared := by
  unfold State.fillCoreTlb
  rw [State.fillTlb_core]
  split
  · rfl
  · rw [State.core_setCore]

/-- Filling the TLBs shares no register. -/
theorem State.fillIssued_shared (ps : List (Part × Option Xlat)) (s : State) :
    ((s.fillIssued ps).core (s.fillIssued ps).now.core).shared = (s.core s.now.core).shared := by
  induction ps generalizing s with
  | nil => rfl
  | cons p ps ih =>
    obtain ⟨part, e⟩ := p
    refine (ih _).trans ?_
    cases e with
    | none => rfl
    | some e =>
      show ((s.fillCoreTlb s.now.core e).core (s.fillCoreTlb s.now.core e).now.core).shared = _
      rw [State.fillCoreTlb_now, State.fillCoreTlb_shared]

theorem Ready.shareIssued (hr : Ready s x) (ps : List (Part × Option Xlat)) (us : List (Nat × Nat × ShareUse)) :
    (s.fillIssued ps).shareNow us = s.fillIssued ps := State.shareNow_none ((State.fillIssued_shared ps s).trans hr.shared) us

/-! ### ATOM and RED.M -/

/-- A gang of one slice, free to issue an access at a region edge: nothing acquires ahead of it, path 4 has a place, and the
walks of its parts have room. -/
structure AtomicReady (s : State) (x : Wave) (k : Nat) (ps : List (Part × Option Xlat)) : Prop where
  ready : Ready s x
  one : s.now.slices = [k]
  edged : Edged s x
  acquire : s.acquireAhead s.now.core s.now.slot k = none
  counter : x.counter 4 < 255
  walks : ps.any (fun p => p.2.isSome && s.walkerFull s.now.core x.process p.1.va) = false

variable {ps : List (Part × Option Xlat)} {sh : Shape} {base : Reg} {space : Space} {n : Nat} {redm : Bool} {need : Option FenceNeed}
  {go : List Part → State → State} {data : Nat → List Byte × List Byte}

theorem planAtomic_idle (ha : AtomicReady s x k ps) (h : x.Fields sh.fields) (hl : workLanes (x.slice k) sh.g sh.uniform = []) :
    planAtomic sh base space n redm need true go data s (s.ctx x k) (x.slice k) = .go (fun t => t.advance sh [] k) := by
  have hmem := mem_slices_of_one ha.one
  unfold planAtomic
  simp only [hl, (ha.ready.quiet hmem).atEdge, ha.ready.operandsAtEdge hmem _ _ h ha.edged]
  rfl

/-- With its parts found and nothing left that it awaits, an atomic takes its effect on them. -/
theorem planAtomic_go (ha : AtomicReady s x k ps) (h : x.Fields sh.fields) (hq : qNum? base = none)
    (hl : workLanes (x.slice k) sh.g sh.uniform ≠ [])
    (hat : s.atomLanes (s.ctx x k) (workLanes (x.slice k) sh.g sh.uniform) (fun l => ((x.slice k).field base (space == .global) l).toNat)
      n space { s.asker x s.now.core true with redm } = .ok ps)
    (hneed : ∀ m, need = some m → s.drained s.now.core s.now.slot k m = true) :
    planAtomic sh base space n redm need true go data s (s.ctx x k) (x.slice k) = .go (fun t =>
      go (ps.map (fun p => { p.1 with data := (data p.1.lane).1, cmp := (data p.1.lane).2 }))
        ((t.fillIssued ps).shareNow (laterUses (s.ctx x k) (x.slice k) sh (workLanes (x.slice k) sh.g sh.uniform)))) := by
  have hmem := mem_slices_of_one ha.one
  have hfull : (s.ctx x k).counterFull 4 sh.g = false := by
    rw [Ctx.counterFull_one (show (s.ctx x k).gang = [k] from ha.one)]
    exact decide_eq_false (Nat.not_le.2 ha.counter)
  have hdone : need.filter (fun m => !s.drained s.now.core s.now.slot k m) = none := by
    cases need with
    | none => rfl
    | some m => simp [hneed m rfl]
  unfold planAtomic
  simp only [(ha.ready.quiet hmem).atEdge, ha.ready.operandsAtEdge hmem _ _ h ha.edged, queuesReady_of_fields h, ha.ready.shareAll k,
    ha.ready.baseAddr hmem hq, State.ctx_wave, State.ctx_k, hat, ha.acquire, ha.walks, hfull, hdone]
  rw [if_neg (by simpa using hl)]
  simp only [Bool.and_false]
  rfl

theorem issueAtomic_idle (ha : AtomicReady s x k ps) {plan : State → Ctx → Slice → Act}
    (hplan : plan s (s.ctx x k) (x.slice k) = planAtomic sh base space n redm need true go data s (s.ctx x k) (x.slice k))
    (h : x.Fields sh.fields) (hl : workLanes (x.slice k) sh.g sh.uniform = []) : issueActs plan s = s.advance sh [] k :=
  issueActs_go_one ha.ready.wave ha.one (hplan.trans (planAtomic_idle ha h hl))

theorem issueAtomic_go (ha : AtomicReady s x k ps) {plan : State → Ctx → Slice → Act}
    (hplan : plan s (s.ctx x k) (x.slice k) = planAtomic sh base space n redm need true go data s (s.ctx x k) (x.slice k))
    (h : x.Fields sh.fields) (hq : qNum? base = none) (hl : workLanes (x.slice k) sh.g sh.uniform ≠ [])
    (hat : s.atomLanes (s.ctx x k) (workLanes (x.slice k) sh.g sh.uniform) (fun l => ((x.slice k).field base (space == .global) l).toNat)
      n space { s.asker x s.now.core true with redm } = .ok ps)
    (hneed : ∀ m, need = some m → s.drained s.now.core s.now.slot k m = true) :
    issueActs plan s = go (ps.map (fun p => { p.1 with data := (data p.1.lane).1, cmp := (data p.1.lane).2 })) (s.fillIssued ps) :=
  (issueActs_go_one ha.ready.wave ha.one (hplan.trans (planAtomic_go ha h hq hl hat hneed))).trans
    (congrArg (go _) (ha.ready.shareIssued ps _))

/-- What an ATOM's lane sends: its operand, and the value it compares with. -/
def atomData (o : AtomOp) (c : Ctx) (sl : Slice) (l : Nat) : List Byte × List Byte :=
  (leBytes o.ty.bytes (c.readRegAt sl 1 o.b o.ty.ty.wide l).toNat, match o.c with
    | some r => leBytes o.ty.bytes (c.readRegAt sl 2 r o.ty.ty.wide l).toNat
    | none => [])

theorem planAtom_eq (o : AtomOp) (s : State) (c : Ctx) (sl : Slice) :
    planAtom o s c sl = planAtomic (AtomOp.shape o) o.a o.space o.ty.bytes false
      (if o.scope = .wv then none else some { loads := true, stores := true, redm := false, scope := o.scope }) true
      (fun parts => sendAtoms (AtomOp.shape o) (.atom (some o.d) o.kind o.ty o.scope) (some (o.d, o.ty.ty.wide)) (some o.scope) parts
        (· ||| liveOf (regLocs o.d o.ty.ty.wide 0)) c.wave c.k (workLanes sl o.g (AtomOp.shape o).uniform))
      (atomData o c (sl.atEdge !(workLanes sl o.g (AtomOp.shape o).uniform).isEmpty)) s c sl := by
  unfold planAtom
  rfl

theorem planRedM_eq (o : RedMOp) (s : State) (c : Ctx) (sl : Slice) :
    planRedM o s c sl = planAtomic (RedMOp.shape o) o.a .global 4 true none true
      (fun parts => sendAtoms (RedMOp.shape o) (.redm o.kind o.ty) none none parts id c.wave c.k (workLanes sl o.g false))
      (fun l => (leBytes 4 (c.readRegAt (sl.atEdge !(workLanes sl o.g false).isEmpty) 1 o.b.reg false l).toNat, [])) s c sl := by
  unfold planRedM
  rfl

theorem AtomOp.base_field {o : AtomOp} (h : x.Fields (AtomOp.shape o).fields) :
    qNum? o.a = none ∧ qNum? o.b = none ∧ ∀ c, o.c = some c → qNum? c = none := by
  simp only [AtomOp.shape, Shape.fields, baseSrc, Option.toList_some, List.cons_append, List.nil_append, List.map_cons,
    Wave.fields_cons] at h
  obtain ⟨-, ⟨ha, -⟩, ⟨hb, -⟩, hc⟩ := h
  refine ⟨ha, hb, fun c hoc => ?_⟩
  simp only [hoc, Option.toList_some, List.map_cons, Wave.fields_cons] at hc
  exact hc.1.1

theorem exec_atom_idle (ha : AtomicReady s x k ps) {o : AtomOp} (h : x.Fields (AtomOp.shape o).fields)
    (hl : workLanes (x.slice k) o.g (AtomOp.shape o).uniform = []) : exec (.atom o) s = .next (s.advance (AtomOp.shape o) [] k) :=
  congrArg Host.Outcome.next (issueAtomic_idle ha (planAtom_eq o _ _ _) h hl)

theorem exec_atom (ha : AtomicReady s x k ps) {o : AtomOp} (h : x.Fields (AtomOp.shape o).fields) :
    let lanes := workLanes (x.slice k) o.g (AtomOp.shape o).uniform
    lanes ≠ [] → s.atomLanes (s.ctx x k) lanes (fun l => ((x.slice k).field o.a (o.space == .global) l).toNat) o.ty.bytes o.space
      { s.asker x s.now.core true with redm := false } = .ok ps →
    (o.scope ≠ .wv → s.drained s.now.core s.now.slot k { loads := true, stores := true, redm := false, scope := o.scope } = true) →
    let data := fun (l : Nat) => leBytes o.ty.bytes ((x.slice k).field o.b o.ty.ty.wide l).toNat
    let cmp := fun (l : Nat) => match o.c with
      | some c => leBytes o.ty.bytes ((x.slice k).field c o.ty.ty.wide l).toNat
      | none => []
    let parts := ps.map (fun (p : Part × Option Xlat) => { p.1 with data := data p.1.lane, cmp := cmp p.1.lane })
    exec (.atom o) s = .next (sendAtoms (AtomOp.shape o) (.atom (some o.d) o.kind o.ty o.scope) (some (o.d, o.ty.ty.wide)) (some o.scope)
      parts (· ||| liveOf (regLocs o.d o.ty.ty.wide 0)) x k lanes (s.fillIssued ps)) := by
  intro lanes hl hat hdrained data cmp parts
  have hmem := mem_slices_of_one ha.one
  obtain ⟨hqa, hqb, hqc⟩ := AtomOp.base_field h
  have hneed : ∀ m, (if o.scope = .wv then none else some { loads := true, stores := true, redm := false, scope := o.scope }) = some m →
      s.drained s.now.core s.now.slot k m = true := by
    intro m hm
    split at hm
    · cases hm
    · next hs =>
      cases hm
      exact hdrained hs
  refine congrArg Host.Outcome.next ((issueAtomic_go ha (planAtom_eq o _ _ _) h hqa hl hat hneed).trans ?_)
  have hdata : ∀ l, atomData o (s.ctx x k) (x.slice k) l = (data l, cmp l) := by
    intro l
    simp only [atomData, data, cmp, ha.ready.readRegAt hmem 1 hqb]
    cases hc : o.c with
    | none => rfl
    | some c => simp only [ha.ready.readRegAt hmem 2 (hqc c hc)]
  simp only [(ha.ready.quiet hmem).atEdge, hdata]
  rfl

theorem exec_redM_idle (ha : AtomicReady s x k ps) {o : RedMOp} (h : x.Fields (RedMOp.shape o).fields) (hl : x.lanes o.g k = []) :
    exec (.redM o) s = .next (s.advance (RedMOp.shape o) [] k) :=
  congrArg Host.Outcome.next (issueAtomic_idle ha (planRedM_eq o _ _ _) h hl)

theorem exec_redM (ha : AtomicReady s x k ps) {o : RedMOp} (h : x.Fields (RedMOp.shape o).fields) (hl : x.lanes o.g k ≠ [])
    (hat : s.atomLanes (s.ctx x k) (x.lanes o.g k) (fun l => ((x.slice k).field o.a true l).toNat) 4 .global
      { s.asker x s.now.core true with redm := true } = .ok ps) :
    let parts := ps.map (fun (p : Part × Option Xlat) => { p.1 with
      data := leBytes 4 ((x.slice k).field o.b.reg false p.1.lane).toNat, cmp := [] })
    exec (.redM o) s = .next (sendAtoms (RedMOp.shape o) (.redm o.kind o.ty) none none parts id x k (x.lanes o.g k) (s.fillIssued ps)) := by
  intro parts
  have hmem := mem_slices_of_one ha.one
  have hf := h
  simp only [RedMOp.shape, Shape.fields, baseSrc, srcOf, Option.toList_none, List.nil_append, List.map_cons, Wave.fields_cons] at hf
  obtain ⟨⟨hqa, -⟩, ⟨hqb, -⟩, -⟩ := hf
  refine congrArg Host.Outcome.next ((issueAtomic_go ha (planRedM_eq o _ _ _) h hqa hl hat nofun).trans ?_)
  simp only [(ha.ready.quiet hmem).atEdge, ha.ready.readRegAt hmem 1 hqb]
  rfl

/-! ### WAITCMP -/

variable {o : WaitcmpOp}

theorem planWaitcmp_edge (h : x.Fields (WaitcmpOp.shape o).fields) :
    isQueueEdge [{ sh := WaitcmpOp.shape o, f := fun _ => {} }] (x.slice k) = false :=
  isQueueEdge_clear (x := x) (by simpa using LaneOp.clear_of_fields (o := { sh := WaitcmpOp.shape o, f := fun _ => {} }) h) _

theorem State.firstPoll_of_not_prompt {s : State} (h : s.now.prompt = false) : s.firstPoll = s := by simp [State.firstPoll, h]

/-- A WAITCMP whose reads come at steps of their own ends its issue as its gang of one slice leaves it. -/
theorem exec_waitcmp_of_issue {t : State} (h : issueActs (planWaitcmp o) s = t) (hp : t.now.prompt = false) :
    exec (.waitcmp o) s = .next t := by
  show Host.Outcome.next (issueActs (planWaitcmp o) s).firstPoll = _
  rw [h, State.firstPoll_of_not_prompt hp]

theorem exec_waitcmp_idle (ha : AtomicReady s x k ps) (hp : s.now.prompt = false) (h : x.Fields (WaitcmpOp.shape o).fields)
    (hl : workLanes (x.slice k) o.g (WaitcmpOp.shape o).uniform = []) :
    exec (.waitcmp o) s = .next (s.advance (WaitcmpOp.shape o) [] k) := by
  have hmem := mem_slices_of_one ha.one
  refine exec_waitcmp_of_issue (issueActs_go_one ha.ready.wave ha.one (f := fun t => t.advance (WaitcmpOp.shape o) [] k) ?_)
    ((congrArg Now.prompt (State.now_modSlice ..)).trans hp)
  unfold planWaitcmp
  simp only [hl, planWaitcmp_edge h, (ha.ready.quiet hmem).atEdge, ha.ready.operands hmem _ h]
  rfl

/-- The monitor a WAITCMP arms in a slice of a ready gang, which runs in the context c. -/
def armedMonitor (o : WaitcmpOp) (s : State) (c : Ctx) (lanes : List Nat) : Monitor :=
  let sl := c.wave.slice c.k
  { d := o.d, space := o.space, cond := o.cond, ty := o.ty, scope := o.scope
    lanes := lanes.map (fun l => (l, BitVec.ofNat 64 (sl.field o.a (o.space == .global) l).toNat, sl.field o.b (MonTy.bytes o.ty = 8) l))
    start := s.cltime (s.now.core / 32), timeout := sl.raw (.s o.c.toNat), edge := false
    uses := laterUses c sl (WaitcmpOp.shape o) lanes, group := s.fresh }

/-- Slice k waits with a monitor, and awaits its lanes' values. -/
def State.armMonitor (s : State) (k : Nat) (m : Monitor) (lanes : List Nat) : State :=
  s.modNow k (fun sl => { sl with
    wait := some (.monitor m)
    out := sl.out ++ (destLocs m.d (MonTy.bytes m.ty = 8) lanes).map (fun loc => { loc, by_ := .memory, pc := sl.pc, id := noAccess }) })

theorem exec_waitcmp (ha : AtomicReady s x k ps) (hp : s.now.prompt = false) (h : x.Fields (WaitcmpOp.shape o).fields) {lanes : List Nat}
    (hlanes : workLanes (x.slice k) o.g (WaitcmpOp.shape o).uniform = lanes) (hl : lanes ≠ [])
    (hat : s.atomLanes (s.ctx x k) lanes (fun l => ((x.slice k).field o.a (o.space == .global) l).toNat) (MonTy.bytes o.ty) o.space
      (s.asker x s.now.core false) = .ok ps) :
    exec (.waitcmp o) s = .next (s.armMonitor k (armedMonitor o s (s.ctx x k) lanes) lanes) := by
  have hmem := mem_slices_of_one ha.one
  have hf := h
  simp only [WaitcmpOp.shape, Shape.fields, baseSrc, Option.toList_some, List.cons_append, List.nil_append, List.map_cons,
    Wave.fields_cons] at hf
  obtain ⟨-, ⟨hqa, -⟩, ⟨hqb, -⟩, -⟩ := hf
  have hpops : (WaitcmpOp.shape o).pops = [] := (LaneOp.clear_of_fields (o := { sh := WaitcmpOp.shape o, f := fun _ => {} }) h).pops
  have hgo : planWaitcmp o s (s.ctx x k) (x.slice k) = .go (fun t =>
      let t' := t.armMonitor k (armedMonitor o t (s.ctx x k) lanes) lanes
      if t'.now.prompt && !false then t'.pollMonitor { core := t.now.core, slot := t.now.slot, slice := k } false else t') := by
    unfold planWaitcmp
    simp only [hlanes, planWaitcmp_edge h, (ha.ready.quiet hmem).atEdge, ha.ready.operands hmem _ h, queuesReady_of_fields h,
      ha.ready.shareAll k, ha.ready.baseAddr hmem hqa, State.ctx_wave, State.ctx_k, hat, ha.acquire, ha.walks, hpops,
      ha.ready.readRegAt hmem 1 hqb, ha.ready.readLocAt hmem 2]
    rw [if_neg (by simpa using hl)]
    rfl
  have hnow : (s.armMonitor k (armedMonitor o s (s.ctx x k) lanes) lanes).now.prompt = false := (congrArg Now.prompt (State.now_modSlice ..)).trans hp
  refine exec_waitcmp_of_issue ((issueActs_go_one ha.ready.wave ha.one hgo).trans ?_) hnow
  simp only [hnow, Bool.false_and, Bool.false_eq_true, if_false]

/-- Settles O22: ATOM and RED.M share their checks; a WAITCMP that reads at later steps is armed. -/
theorem atomicsIssue : Obligations.AtomicsIssue := by
  intro s x k ps hr hk he hacq hcount hwalk filled
  have ha : AtomicReady s x k ps := ⟨hr, hk, he, hacq, hcount, hwalk⟩
  exact ⟨fun o h => ⟨exec_atom_idle ha h, exec_atom ha h⟩, fun o h => ⟨exec_redM_idle ha h, exec_redM ha h⟩,
    fun o h hp => ⟨exec_waitcmp_idle ha hp h, exec_waitcmp ha hp h rfl⟩⟩

end

end Sys2Proof.Machine
end

section
/-!
PROOFS. Bindings (02 R57, R58, 07 R160 to R162): QCFG, SHMAP and the pairing of shared ranges.
-/

namespace Sys2Proof.Machine

open Claim

/-! ### QCFG -/

section

variable {s : State} {x : Wave}

theorem QcfgOp.shape_fields (x : Wave) (o : QcfgOp) : x.Fields (QcfgOp.shape o).fields :=
  Wave.fields_of_s (by simp [QcfgOp.shape, Shape.fields, quadSrcs])

theorem Ready.quad (hr : Ready s x) {k : Nat} (hk : k ∈ s.now.slices) (q : SQuad) :
    (s.ctx x k).quad (x.slice k) q = (List.range 4).map (fun i => (x.slice k).raw (.s (4 * q.toNat + i))) :=
  List.map_congr_left (fun i _ => hr.readLoc hk (.s (4 * q.toNat + i)))

/-- QCFG binds or unbinds its queue. -/
theorem acts_qcfg (hr : Ready s x) (o : QcfgOp)
    (hd : ∀ k ∈ s.now.slices, x.lanes o.g k ≠ [] → x.queueDrained o.q.toNat = true
      ∧ s.queueStoring s.now.core s.now.slot (s.gen s.now.core s.now.slot) o.q.toNat = false) :
    Acts s (.qcfg o) (fun k t =>
      let v := (List.range 4).map (fun i => (x.slice k).raw (.s (4 * o.quad.toNat + i)))
      let b : Option Queue := match o.dir with
        | .unbind => none
        | d => some { dir := d, space := o.space, wide := o.wide, base := v.getD 1 0 ++ v.getD 0 0, rows := v.getD 2 0, stride := v.getD 3 0 }
      if x.lanes o.g k = [] then t.advance (QcfgOp.shape o) [] k
      else ((t.cancelQueue t.now.core t.now.slot o.q.toNat).modNowWave (fun w =>
        { w with queues := Store.put w.queues o.q.toNat b })).advance (QcfgOp.shape o) (x.lanes o.g k) k) := by
  refine congrArg Host.Outcome.next (issueActs_go hr (fun k hk => ?_))
  show planQcfg o s (s.ctx x k) (x.slice k) = _
  unfold planQcfg
  simp only [hr.operands hk _ (QcfgOp.shape_fields x o), workLanes_all, hr.quad hk, State.ctx_wave, State.ctx_slot]
  by_cases hl : x.lanes o.g k = []
  · simp only [hl, if_true]
    rfl
  · obtain ⟨hdr, hst⟩ := hd k hk hl
    rw [if_neg (by simpa using hl), if_neg (by simp [hdr, hst])]
    simp only [if_neg hl]
    rfl

end

/-! ### SHMAP -/

section

variable {s : State} {x : Wave} {k : Nat}

/-- A quiet slice of a gang of one slice, whatever its core shares. -/
structure QuietOne (s : State) (x : Wave) (k : Nat) : Prop where
  wave : s.wave? s.now.core s.now.slot = some x
  one : s.now.slices = [k]
  quiet : (x.slice k).Quiet

/-- A SHMAP whose range is in the allotment and whose partner exists. -/
structure ShmapClear (s : State) (x : Wave) (k : Nat) (o : ShmapOp) : Prop where
  lanes : x.lanes o.g k ≠ []
  partner : s.partnerOk x ((x.slice k).raw (.s o.a.toNat)).toNat = true

/-- The holder of the wave that a SHMAP names as its partner, and the mapping in place with it. -/
def shmapHolder (s : State) (x : Wave) (k : Nat) (o : ShmapOp) : Option Nat :=
  (s.core s.now.core).teamHolder x.team ((x.slice k).raw (.s o.a.toNat)).toNat
def shmapNamed (s : State) (x : Wave) (k : Nat) (o : ShmapOp) : Option Shared :=
  (s.core s.now.core).mapping? s.now.slot o.d.toNat (shmapHolder s x k o)

/-- The request that a SHMAP makes. -/
def shmapRequest (x : Wave) (k : Nat) (o : ShmapOp) : ShareReq :=
  { first := o.d.toNat, partner := ((x.slice k).raw (.s o.a.toNat)).toNat, count := o.count.toNat }

/-- The request stands, and the slice waits for its pairing. -/
def State.requestShare (s : State) (k : Nat) (r : ShareReq) : State :=
  (s.modNowWave (fun w => if w.shares.contains r then w else { w with shares := w.shares ++ [r] })).modNow k (fun sl =>
    { sl with wait := some (.shmap r.first r.partner r.count) })

theorem ShmapOp.shape_fields (x : Wave) (o : ShmapOp) : x.Fields (ShmapOp.shape o).fields :=
  Wave.fields_of_s (by simp [ShmapOp.shape, Shape.fields])

variable {o : ShmapOp}

theorem QuietOne.operands (hq : QuietOne s x k) (lanes : List Nat) :
    operandCheck (ShmapOp.shape o) false (s.ctx x k) (x.slice k) lanes = none :=
  operandCheck_quiet hq.quiet (ShmapOp.shape_fields x o)

theorem exec_shmap_idle (hq : QuietOne s x k) (hroom : o.d.toNat + max o.count.toNat 1 ≤ x.allot) (hl : x.lanes o.g k = []) :
    exec (.shmap o) s = .next (s.advance (ShmapOp.shape o) [] k) := by
  have hgo : planShmap o s (s.ctx x k) (x.slice k) = .go (fun t => t.advance (ShmapOp.shape o) [] k) := by
    unfold planShmap
    simp only [hq.operands, workLanes_all, hl, State.ctx_wave]
    rw [if_neg (Nat.not_lt.2 hroom)]
    rfl
  exact congrArg Host.Outcome.next (issueActs_go_one hq.wave hq.one hgo)

/-- Past its checks a SHMAP looks at the mapping it names. -/
theorem planShmap_clear (hq : QuietOne s x k) (hroom : o.d.toNat + max o.count.toNat 1 ≤ x.allot) (hc : ShmapClear s x k o) :
    planShmap o s (s.ctx x k) (x.slice k) =
      if o.count.toNat = 0 then
        match shmapNamed s x k o with
        | none => .go (fun t => t.advance (ShmapOp.shape o) (x.lanes o.g k) k)
        | some h =>
          if h.settled then .go (fun t => (t.unmapShared t.now.core h).advance (ShmapOp.shape o) (x.lanes o.g k) k) else .wait .fullEmpty
      else if (shmapNamed s x k o).any (fun h => h.count = o.count.toNat) then .go (fun t => t.advance (ShmapOp.shape o) (x.lanes o.g k) k)
      else .go (fun t =>
        if ((t.core t.now.core).mapping? s.now.slot o.d.toNat (shmapHolder s x k o)).any (fun h => h.count = o.count.toNat) then
          t.advance (ShmapOp.shape o) (x.lanes o.g k) k
        else
          let u := t.requestShare k (shmapRequest x k o)
          if u.now.prompt then u.pairShares u.now.core u.now.slot else u) := by
  have hread : (s.ctx x k).readLoc (x.slice k) (.s o.a.toNat) = (x.slice k).raw (.s o.a.toNat) := hq.quiet.read _ _
  unfold planShmap
  simp only [hq.operands, workLanes_all, State.ctx_wave, hread, hc.partner, hq.quiet.out]
  rw [if_neg (Nat.not_lt.2 hroom), if_neg (by simpa using hc.lanes)]
  rfl

/-- Where the mapping it asks for is in place, a SHMAP only goes on. -/
theorem exec_shmap_inPlace (hq : QuietOne s x k) (hroom : o.d.toNat + max o.count.toNat 1 ≤ x.allot) (hc : ShmapClear s x k o)
    {h : Shared} (hm : shmapNamed s x k o = some h) (h0 : o.count ≠ 0) (hcount : h.count = o.count.toNat) :
    exec (.shmap o) s = .next (s.advance (ShmapOp.shape o) (x.lanes o.g k) k) := by
  have hgo := planShmap_clear hq hroom hc
  rw [if_neg (show ¬ o.count.toNat = 0 by simpa [← BitVec.toNat_inj] using h0), if_pos (by simp [hm, hcount])] at hgo
  exact congrArg Host.Outcome.next (issueActs_go_one hq.wave hq.one hgo)

/-- With no mapping to end it only goes on. -/
theorem exec_shmap_noneToEnd (hq : QuietOne s x k) (hroom : o.d.toNat + max o.count.toNat 1 ≤ x.allot) (hc : ShmapClear s x k o)
    (h0 : o.count = 0) (hm : shmapNamed s x k o = none) :
    exec (.shmap o) s = .next (s.advance (ShmapOp.shape o) (x.lanes o.g k) k) := by
  have hgo := planShmap_clear hq hroom hc
  rw [if_pos (by simp [h0]), hm] at hgo
  exact congrArg Host.Outcome.next (issueActs_go_one hq.wave hq.one hgo)

/-- A settled mapping ends. -/
theorem exec_shmap_end (hq : QuietOne s x k) (hroom : o.d.toNat + max o.count.toNat 1 ≤ x.allot) (hc : ShmapClear s x k o)
    {h : Shared} (hm : shmapNamed s x k o = some h) (h0 : o.count = 0) (hset : h.settled = true) :
    exec (.shmap o) s = .next ((s.unmapShared s.now.core h).advance (ShmapOp.shape o) (x.lanes o.g k) k) := by
  have hgo := planShmap_clear hq hroom hc
  rw [if_pos (by simp [h0]), hm] at hgo
  simp only [hset, if_true] at hgo
  exact congrArg Host.Outcome.next (issueActs_go_one hq.wave hq.one hgo)

/-- Otherwise its request stands, to be paired at a step of its own. -/
theorem exec_shmap_request (hq : QuietOne s x k) (hroom : o.d.toNat + max o.count.toNat 1 ≤ x.allot) (hc : ShmapClear s x k o)
    (h0 : o.count ≠ 0) (hp : s.now.prompt = false) (hm : ∀ h, shmapNamed s x k o = some h → h.count ≠ o.count.toNat) :
    exec (.shmap o) s = .next (s.requestShare k (shmapRequest x k o)) := by
  have hgo := planShmap_clear hq hroom hc
  have hnone : (shmapNamed s x k o).any (fun h => h.count = o.count.toNat) = false := by
    cases hs : shmapNamed s x k o with
    | none => rfl
    | some h => simpa using hm h hs
  rw [if_neg (show ¬ o.count.toNat = 0 by simpa [← BitVec.toNat_inj] using h0), if_neg (by simp [hnone])] at hgo
  refine congrArg Host.Outcome.next ((issueActs_go_one hq.wave hq.one hgo).trans ?_)
  have hnow : (s.requestShare k (shmapRequest x k o)).now = s.now := (State.now_modSlice ..).trans (State.now_modWave ..)
  rw [if_neg (by rw [show (s.core s.now.core).mapping? s.now.slot o.d.toNat (shmapHolder s x k o) = shmapNamed s x k o from rfl, hnone]; simp)]
  simp only [hnow, hp, Bool.false_eq_true, if_false]

end

/-! ### The pairing -/

/-- Writing f r under the key of every r leaves v under n, where v stood there or some key is n, and every r whose key is n gives v. -/
theorem Store.get_foldl_set {ι : Type} {key : ι → Nat} {f : ι → W32} {n : Nat} {v : W32} {rs : List ι} {m : Store W32}
    (hv : ∀ r ∈ rs, key r = n → f r = v) (h : Store.get m 0 n = v ∨ ∃ r ∈ rs, key r = n) :
    Store.get (rs.foldl (fun m r => Store.set m 0 (key r) (f r)) m) 0 n = v := by
  induction rs generalizing m with
  | nil => simpa using h
  | cons r rs ih =>
    refine ih (fun q hq => hv q (List.mem_cons_of_mem _ hq)) ?_
    by_cases hr : key r = n
    · left
      subst hr
      exact (Store.get_set_self ..).trans (hv r (List.mem_cons_self ..) rfl)
    · rw [Store.get_set_ne _ _ _ (Ne.symm hr)]
      simpa [hr] using h

/-- The shared values of a range: those of the lower-indexed wave. -/
def Wave.rangeVals (x : Wave) (fresh first count : Nat) : Store W32 :=
  (rangeCells count x.width).foldl (fun (m : Store W32) r => Store.set m 0 (64 * r.1 + r.2) (x.vreg fresh (first + r.1) r.2)) []

theorem Wave.rangeVals_get (x : Wave) (fresh first : Nat) {count i lane : Nat} (hw : x.width ≤ 64) (hi : i < count) (hl : lane < x.width) :
    Store.get (x.rangeVals fresh first count) 0 (64 * i + lane) = x.vreg fresh (first + i) lane := by
  refine Store.get_foldl_set (key := fun r : Nat × Nat => 64 * r.1 + r.2) (f := fun r => x.vreg fresh (first + r.1) r.2) ?_
    (.inr ⟨(i, lane), by simp [rangeCells, hi, hl], rfl⟩)
  rintro ⟨j, l⟩ hmem hkey
  simp only [rangeCells, List.mem_flatMap, List.mem_map, List.mem_range, Prod.mk.injEq] at hmem
  obtain ⟨j, -, l, hl', rfl, rfl⟩ := hmem
  obtain rfl : j = i := by omega
  obtain rfl : l = lane := by omega
  rfl

theorem State.mapShared_of_wave {s : State} {c slotA : Nat} {a : Wave} (h : s.wave? c slotA = some a) (slotB firstA firstB count : Nat) :
    s.mapShared c slotA slotB firstA firstB count = s.setCore c { s.core c with shared := (s.core c).shared ++
      [{ slotA, regA := firstA, slotB, regB := firstB, count, vals := a.rangeVals s.fresh firstA count, st := [] }] } := by
  rw [State.mapShared, h]
  rfl

theorem exec_shmapPairing {s : State} {w : SliceRef} {x y : Wave} {r q : ShareReq} {other : Nat} (hx : s.wave? w.core w.slot = some x)
    (hr : x.shares = [r]) (hother : (s.core w.core).teamWave x.team r.partner = some other) (hy : s.wave? w.core other = some y)
    (hq : y.shares.find? (fun q => q.partner = x.index && q.count = r.count) = some q) :
    exec (.shmapPairing w) s = .next ((((((if x.index < r.partner then s.mapShared w.core w.slot other r.first q.first r.count
        else s.mapShared w.core other w.slot q.first r.first r.count).modWave w.core w.slot (fun v =>
          { v with shares := v.shares.filter (· ≠ r) })).modWave w.core other (fun v => { v with shares := v.shares.filter (· ≠ q) })).releaseShmap
            w.core w.slot r.first r.partner r.count).releaseShmap w.core other q.first q.partner q.count)) := by
  refine congrArg Host.Outcome.next ?_
  unfold State.pairShares
  simp only [hx, hr, List.foldl_cons, List.foldl_nil, hother, hy, Option.bind_some, hq]

/-- Settles O25: QCFG slice by slice, SHMAP by the mapping it names, the pairing with the lower-indexed wave's values. -/
theorem bindingsComplete : Obligations.BindingsComplete := by
  refine ⟨fun s x o hr hd => acts_qcfg hr o hd, fun s x k o hw hk hquiet hroom => ?_, ?_⟩
  · obtain ⟨sl, hsl, hsq⟩ := hquiet
    have hq : QuietOne s x k := ⟨hw, hk, Wave.slice_of_find hsl ▸ hsq⟩
    refine ⟨fun hl => ?_, fun hl hp => ?_⟩
    · exact hl ▸ exec_shmap_idle hq hroom hl
    · have hc : ShmapClear s x k o := ⟨hl, hp⟩
      exact ⟨fun h hm => ⟨exec_shmap_inPlace hq hroom hc hm, exec_shmap_end hq hroom hc hm⟩,
        exec_shmap_noneToEnd hq hroom hc, exec_shmap_request hq hroom hc⟩
  · intro s w x y r q other hx hr hother hy hq hwx hwy low lower first
    refine ⟨lower.rangeVals s.fresh first r.count, fun i lane hi hl => Wave.rangeVals_get _ _ _ ?_ hi hl, ?_⟩
    · simp only [lower]
      split
      · exact hwx
      · exact hwy
    · rw [exec_shmapPairing hx hr hother hy hq]
      simp only [lower, first, low]
      by_cases hlow : x.index < r.partner
      · simp only [hlow, if_true]
        rw [State.mapShared_of_wave hx]
      · simp only [hlow, if_false]
        rw [State.mapShared_of_wave hy]

end Sys2Proof.Machine
end

section
/-!
PROOFS. Queue moves (02 R43, R58, 07 R162): what an instruction over lanes that pops or pushes leaves of its wave's queues and of its
slice's registers, past the region edge it makes.
-/

namespace Sys2Proof.Machine

open Claim

/-! ### What a region edge leaves -/

/-- The wave in a slot has these queues, and its slice k the pc and registers of sl. -/
def State.Shows (s : State) (c w k : Nat) (qs : Store Queue) (sl : Slice) : Prop :=
  ∃ y sl', s.wave? c w = some y ∧ Store.find? y.slices k = some sl' ∧ y.queues = qs ∧ sl'.pc = sl.pc ∧ sl'.v = sl.v ∧ sl'.s = sl.s

section

variable {s : State} {c w k : Nat} {qs : Store Queue} {sl : Slice}

theorem State.Shows.setWave {y : Wave} (hq : y.queues = qs) {st : Slice} (hk : Store.find? y.slices k = some st) (hpc : st.pc = sl.pc)
    (hv : st.v = sl.v) (hs : st.s = sl.s) : (s.setWave c w y).Shows c w k qs sl :=
  ⟨y, st, State.wave?_setWave .., hk, hq, hpc, hv, hs⟩

/-- A change of the wave that keeps its slices, and of its queues what f says. -/
theorem State.Shows.modWave (h : s.Shows c w k qs sl) {f : Wave → Wave} {qs' : Store Queue} (hs : ∀ y, (f y).slices = y.slices)
    (hq : ∀ y, y.queues = qs → (f y).queues = qs') : (s.modWave c w f).Shows c w k qs' sl := by
  obtain ⟨y, st, hy, hk, hqs, hrest⟩ := h
  rw [State.modWave, hy]
  exact ⟨f y, st, State.wave?_setWave .., hs y ▸ hk, hq y hqs, hrest⟩

theorem State.Shows.modSlice (h : s.Shows c w k qs sl) {f : Slice → Slice} (hf : ∀ st, (f st).pc = st.pc ∧ (f st).v = st.v ∧ (f st).s = st.s) :
    (s.modSlice c w k f).Shows c w k qs sl := by
  obtain ⟨y, st, hy, hk, hqs, hpc, hv, hs⟩ := h
  obtain ⟨fpc, fv, fs⟩ := hf st
  rw [State.modSlice, hy]
  simp only [hk]
  exact State.Shows.setWave hqs (Store.find?_insert_self ..) (fpc.trans hpc) (fv.trans hv) (fs.trans hs)

theorem State.Shows.of_waves {t : State} (h : s.Shows c w k qs sl) (hw : t.wave? c w = s.wave? c w) : t.Shows c w k qs sl := by
  obtain ⟨y, st, hy, hrest⟩ := h
  exact ⟨y, st, hw.trans hy, hrest⟩

theorem State.wave?_settleShared (s : State) (c w c' slot : Nat) (edge : Bool) (ids : Nat → Bool) :
    (s.settleShared c' slot edge ids).wave? c w = s.wave? c w := by
  unfold State.settleShared
  simp only []
  split
  · rfl
  · by_cases hc : c = c'
    · subst hc
      simp [State.wave?, State.core_setCore]
    · simp [State.wave?, State.core, State.setCore, Store.find?_insert_ne _ _ hc]

theorem State.wave?_beginRecord (s : State) (c w cl : Nat) (b : List Byte) : (s.beginRecord cl b).wave? c w = s.wave? c w := by
  unfold State.beginRecord
  simp only []
  split <;> rfl

theorem Wave.leaveGang_slices (x : Wave) (k : Nat) : (x.leaveGang k).slices = x.slices := by
  unfold Wave.leaveGang
  split
  · rfl
  · split <;> rfl
theorem Wave.leaveGang_queues (x : Wave) (k : Nat) : (x.leaveGang k).queues = x.queues := by
  unfold Wave.leaveGang
  split
  · rfl
  · split <;> rfl

/-- Closing a region changes no register and no queue. -/
theorem State.Shows.closeRegionAt (h : s.Shows c w k qs sl) (r : Restart) (ms : List Loc) (pc : Pc) :
    (s.closeRegionAt c w k r ms pc).Shows c w k qs sl := by
  obtain ⟨y, st, hy, hk, hqs, hpc, hv, hs⟩ := h
  unfold State.closeRegionAt
  simp only [hy, hk]
  have hset : ((s.setWave c w (y.setSlice k { st.commitMarks ms with afterTret := false, restart := r, brk := none })).settleShared
      c w true (fun _ => true)).Shows c w k qs sl :=
    (State.Shows.setWave (y := y.setSlice k { st.commitMarks ms with afterTret := false, restart := r, brk := none }) hqs
      (Store.find?_insert_self ..) hpc hv hs).of_waves (State.wave?_settleShared ..)
  split
  · refine State.Shows.of_waves ?_ (State.wave?_beginRecord ..)
    refine State.Shows.modWave ?_ (fun y => y.leaveGang_slices k) (fun y hq => (y.leaveGang_queues k).trans hq)
    exact State.Shows.modSlice hset (fun st => by exact ⟨rfl, rfl, rfl⟩)
  · exact hset

theorem State.Shows.closeRegion (h : s.Shows c w k qs sl) (live : BitVec 256) (pc : Pc) :
    (s.closeRegion c w k live pc).Shows c w k qs sl := by
  have h' := h
  obtain ⟨y, st, hy, -⟩ := h'
  rw [State.closeRegion, hy]
  exact State.Shows.closeRegionAt (State.Shows.modSlice h (fun st => by exact ⟨rfl, rfl, rfl⟩)) _ _ _

end

/-! ### The plan of a slice that pops or pushes -/

section

variable {s : State} {x : Wave} {k : Nat}

theorem Slice.foldPred_registers (bs : List (Nat × Nat × Bool)) (sl : Slice) :
    (bs.foldl (fun sl b => Slice.setPredLane sl b.1 b.2.1 b.2.2) sl).v = sl.v
    ∧ (bs.foldl (fun sl b => Slice.setPredLane sl b.1 b.2.1 b.2.2) sl).s = sl.s := by
  rw [Slice.foldPred_frame]
  exact ⟨rfl, rfl⟩

/-- Ticking the windows and opening one changes no register. -/
theorem Slice.openWindow_registers (sl : Slice) (n : Nat) (pc : Pc) (old : List (Loc × W32)) :
    (sl.tickWindows.openWindow n pc old).v = sl.v ∧ (sl.tickWindows.openWindow n pc old).s = sl.s := by
  by_cases hn : n = 0
  · rw [Slice.openWindow, if_pos hn]
    exact ⟨rfl, rfl⟩
  · rw [Slice.openWindow, if_neg hn]
    exact ⟨rfl, rfl⟩

/-- A quiet slice with the registers of sl holds after these writes what sl does after them. -/
theorem Slice.writeAll_registers (fresh : Nat) (ws : List (Loc × W32)) {a sl : Slice} (h : a.Quiet) (hv : a.v = sl.v) (hs : a.s = sl.s) :
    (a.writeAll fresh ws).v = (ws.foldl (fun sl w => Slice.setRaw sl w.1 w.2) sl).v
    ∧ (a.writeAll fresh ws).s = (ws.foldl (fun sl w => Slice.setRaw sl w.1 w.2) sl).s := by
  induction ws generalizing a sl with
  | nil => exact ⟨hv, hs⟩
  | cons w ws ih =>
    have hq := Slice.setRaw_quiet h w.1 w.2
    have hset : (a.setRaw w.1 w.2).v = (sl.setRaw w.1 w.2).v ∧ (a.setRaw w.1 w.2).s = (sl.setRaw w.1 w.2).s := by
      cases w.1 <;> simp [Slice.setRaw, hv, hs]
    refine ih (a := a.write fresh w.1 w.2) ?_ ?_ ?_ <;> rw [Slice.write_quiet h]
    · exact ⟨hq.out, hq.windows, hq.dead⟩
    · exact hset.1
    · exact hset.2

/-- In a ready gang at an edge, an operation whose queues are bound and ready runs. -/
theorem planSlice_ready (hr : Ready s x) (he : Edged s x) (hk : k ∈ s.now.slices) {o : LaneOp}
    (hchk : planChecks [o] (s.ctx x k) (x.slice k) = none)
    (hready : o.lanes (x.slice k) ≠ [] → (∀ q ∈ o.sh.pops, x.popReady q = true) ∧ ∀ q, o.sh.push? = some q → x.pushReady q = true) :
    ∃ sl fl us, planSlice [o] (s.ctx x k) (x.slice k) = .run sl fl us (o.pushed k (o.results (s.ctx x k) (x.slice k))) (o.queues (x.slice k))
      ∧ sl.pc = (x.slice k).pc.next
      ∧ sl.v = ((o.writes (o.results (s.ctx x k) (x.slice k))).foldl (fun sl w => Slice.setRaw sl w.1 w.2) (x.slice k)).v
      ∧ sl.s = ((o.writes (o.results (s.ctx x k) (x.slice k))).foldl (fun sl w => Slice.setRaw sl w.1 w.2) (x.slice k)).s := by
  have hq := hr.quiet hk
  obtain ⟨hdef, hcom⟩ := he k hk
  have hcom' : (s.ctx x k).core.uncommitted (s.ctx x k).slot (s.ctx x k).k = false := hcom
  have hqueues : [o].any (fun o => !(o.lanes (x.slice k)).isEmpty && (o.sh.pops.any (fun q => !x.popReady q)
      || o.sh.push?.any (fun q => !x.pushReady q))) = false := by
    by_cases hl : o.lanes (x.slice k) = []
    · simp [hl]
    · obtain ⟨hpop, hpush⟩ := hready hl
      cases hp : o.sh.push? <;> simp_all
  unfold planSlice
  simp only [hq.atEdge, hchk, hq.blocked, hq.out, hcom', hdef, State.ctx_wave, hqueues, hr.shareAll k, hr.tmask, enabledTrap_zero,
    List.isEmpty_nil, Bool.not_true, Bool.and_false, Bool.or_false, Bool.false_eq_true, if_false, Option.isNone_some,
    List.map_cons, List.map_nil, List.flatMap_cons, List.flatMap_nil, List.append_nil]
  refine ⟨_, _, _, rfl, rfl, ?_, ?_⟩
  · refine (Slice.foldPred_registers _ _).1.trans ((Slice.openWindow_registers ..).1.trans (Slice.writeAll_registers _ _ ?_ ?_ ?_).1)
    exacts [⟨rfl, hq.windows, hq.dead⟩, rfl, rfl]
  · refine (Slice.foldPred_registers _ _).2.trans ((Slice.openWindow_registers ..).2.trans (Slice.writeAll_registers _ _ ?_ ?_ ?_).2)
    exacts [⟨rfl, hq.windows, hq.dead⟩, rfl, rfl]

/-- The plan of a gang of one slice, where it runs, carried out and handed on. -/
theorem issueOps_one (hr : Ready s x) (hk : s.now.slices = [k]) {ops : List LaneOp} {sl : Slice} {fl : FFlags}
    {us : List (Nat × Nat × ShareUse)} {ps : List (Nat × Nat × W64)} {qs : List Nat}
    (h : planSlice ops (s.ctx x k) (x.slice k) = .run sl fl us ps qs) :
    issueOps ops s = commitQueues ops [{ k, pushes := ps, queues := qs }]
      (s.setWave s.now.core s.now.slot { x.setSlice k { sl with wait := none } with fflags := x.fflags ||| fl }) := by
  have hplans : plans (planSlice ops) s x = [(k, .run sl fl us ps qs)] := by
    rw [← h, plans, hk]
    rfl
  unfold issueOps issuePlans
  simp only [hr.wave, hplans]
  rw [if_neg (by simp [Plan.isStall]), if_neg (by simp [waitTogether, Plan.wait?])]
  simp only [List.foldl_cons, List.foldl_nil, List.filterMap_cons, List.filterMap_nil]
  rw [commitPlan_first s x hr.wave, commitPlan_run s _ _ rfl rfl hr.shared]

/-- The wave after one row of each of these queues that an operation names: popped, and pushed with these values. -/
def Wave.moved (x : Wave) (o : LaneOp) (ps : List (Nat × Nat × W64)) (named : List Nat) : Wave :=
  (o.sh.push?.toList.eraseDups.filter (fun q => named.contains q)).foldl (fun x q =>
    x.push q ((ps.filter (fun p => p.1 = q)).map (·.2)))
    ((o.sh.pops.eraseDups.filter (fun q => named.contains q)).foldl (fun x q => x.pop q) x)

theorem Wave.foldl_slices {f : Wave → Nat → Wave} (h : ∀ x q, (f x q).slices = x.slices) (qs : List Nat) (x : Wave) :
    (qs.foldl f x).slices = x.slices := by
  induction qs generalizing x with
  | nil => rfl
  | cons q qs ih => exact (ih (f x q)).trans (h x q)

theorem Wave.moved_slices (x : Wave) (o : LaneOp) (ps : List (Nat × Nat × W64)) (named : List Nat) :
    (x.moved o ps named).slices = x.slices :=
  (Wave.foldl_slices (fun _ _ => by rfl) _ _).trans (Wave.foldl_slices (fun _ _ => by rfl) _ _)

/-- Waves of the same queues and width. -/
def Wave.SameQueues (x y : Wave) : Prop := y.queues = x.queues ∧ y.width = x.width

theorem Wave.SameQueues.foldl {f : Wave → Nat → Wave} (hf : ∀ {x y : Wave}, x.SameQueues y → ∀ q, (f x q).SameQueues (f y q)) (qs : List Nat)
    {x y : Wave} (h : x.SameQueues y) : (qs.foldl f x).SameQueues (qs.foldl f y) := by
  induction qs generalizing x y with
  | nil => exact h
  | cons q qs ih => exact ih (hf h q)

theorem Wave.SameQueues.moved {x y : Wave} (h : x.SameQueues y) (o : LaneOp) (ps : List (Nat × Nat × W64)) (named : List Nat) :
    (x.moved o ps named).SameQueues (y.moved o ps named) := by
  refine Wave.SameQueues.foldl ?_ _ (Wave.SameQueues.foldl ?_ _ h)
  · rintro x y ⟨hq, hw⟩ q
    exact ⟨by simp only [Wave.push, Wave.pushRow, Wave.rowOf, hq, hw], hw⟩
  · rintro x y ⟨hq, hw⟩ q
    exact ⟨by simp only [Wave.pop, hq], hw⟩

/-- Handing on what a slice moved leaves its registers, and its wave's queues with a row moved. -/
theorem shows_commitQueues {t : State} {y : Wave} {sl : Slice} {o : LaneOp} {ps : List (Nat × Nat × W64)} {qs : List Nat}
    (hy : t.wave? t.now.core t.now.slot = some y) (hk : Store.find? y.slices k = some sl) :
    (commitQueues [o] [{ k, pushes := ps, queues := qs }] t).Shows t.now.core t.now.slot k (y.moved o ps qs).queues sl := by
  unfold commitQueues
  by_cases hq : qs = []
  · subst hq
    have hm : y.moved o ps [] = y := by simp [Wave.moved]
    rw [hm]
    exact ⟨y, sl, hy, hk, rfl, rfl, rfl, rfl⟩
  · have hslice : (t.setWave t.now.core t.now.slot (y.moved o ps qs)).slice? t.now.core t.now.slot k = some sl := by
      rw [State.slice?, State.wave?_setWave]
      exact (congrArg (Store.find? · k) (y.moved_slices o ps qs)).trans hk
    have hmod : t.modWave t.now.core t.now.slot (fun x => x.moved o ps qs) = t.setWave t.now.core t.now.slot (y.moved o ps qs) := by
      rw [State.modWave, hy]
    have hshow : (t.setWave t.now.core t.now.slot (y.moved o ps qs)).Shows t.now.core t.now.slot k (y.moved o ps qs).queues sl :=
      State.Shows.setWave rfl ((congrArg (Store.find? · k) (y.moved_slices o ps qs)).trans hk) rfl rfl rfl
    have hpush : List.filterMap (fun (o : LaneOp) => o.sh.push?) [o] = o.sh.push?.toList := by
      cases h : o.sh.push? <;> simp [h]
    simp only [Wave.moved] at hmod hslice hshow ⊢
    simp only [List.flatMap_cons, List.flatMap_nil, List.append_nil, hpush]
    rw [if_neg (by simpa using hq), hmod]
    rw [List.filter_cons_of_pos (by simpa using hq)]
    simp only [List.filter_nil, List.foldl_cons, List.foldl_nil, State.now_setWave, hslice]
    exact hshow.closeRegion _ _

/-! ### MOV from and to a queue (02 R55) -/

/-- The operation of a MOV. -/
def movOp (o : Alu1) : LaneOp := { sh := o.shape false false, f := fun i => { val := i.a } }

/-- A MOV whose queues are bound and ready: what its slice and the queues hold afterwards. -/
theorem exec_mov_queue (hr : Ready s x) (he : Edged s x) (hk : s.now.slices = [k]) (o : Alu1)
    (hchk : planChecks [movOp o] (s.ctx x k) (x.slice k) = none)
    (hready : (movOp o).lanes (x.slice k) ≠ [] →
      (∀ q ∈ (movOp o).sh.pops, x.popReady q = true) ∧ ∀ q, (movOp o).sh.push? = some q → x.pushReady q = true) :
    let rs := (movOp o).results (s.ctx x k) (x.slice k)
    let written := ((movOp o).writes rs).foldl (fun sl w => Slice.setRaw sl w.1 w.2) (x.slice k)
    ∃ t y sl, exec (.mov o) s = .next t ∧ t.wave? s.now.core s.now.slot = some y ∧ Store.find? y.slices k = some sl
      ∧ y.queues = (x.moved (movOp o) ((movOp o).pushed k rs) ((movOp o).queues (x.slice k))).queues
      ∧ sl.pc = (x.slice k).pc.next ∧ sl.v = written.v ∧ sl.s = written.s := by
  intro rs written
  obtain ⟨sl, fl, us, hplan, hpc, hv, hs⟩ := planSlice_ready hr he (mem_slices_of_one hk) hchk hready
  have hgo := issueOps_one hr hk hplan
  obtain ⟨y, st, hy, hst, hq, hpc', hv', hs'⟩ := shows_commitQueues (t := s.setWave s.now.core s.now.slot
    { x.setSlice k { sl with wait := none } with fflags := x.fflags ||| fl }) (k := k) (o := movOp o) (ps := (movOp o).pushed k rs)
    (qs := (movOp o).queues (x.slice k)) (State.wave?_setWave ..) (Store.find?_insert_self ..)
  have hsame : x.SameQueues { x.setSlice k { sl with wait := none } with fflags := x.fflags ||| fl } := ⟨rfl, rfl⟩
  exact ⟨_, y, st, congrArg Host.Outcome.next hgo, hy, hst, hq.trans (hsame.moved _ _ _).1, hpc'.trans hpc, hv'.trans hv, hs'.trans hs⟩

theorem movOp_lanes {o : Alu1} (h : ∀ r, o.d ≠ .s r) (x : Wave) (k : Nat) : (movOp o).lanes (x.slice k) = x.lanes o.g k := by
  rw [LaneOp.lanes_worked rfl]
  unfold Slice.worked
  cases hd : o.d with
  | s r => exact absurd hd (h r)
  | v r => simp [movOp, Alu1.shape, hd, Wave.lanes]
  | q r => simp [movOp, Alu1.shape, hd, Wave.lanes]

/-- A register read back after writes to one v register over lanes: each lane's own value. -/
theorem Slice.raw_of_laneWrites {sl st : Slice} {n : Nat} {f : Nat → W32} {lanes : List Nat}
    (h : sl.v = ((lanes.map (fun l => (Loc.v n l, f l))).foldl (fun sl w => Slice.setRaw sl w.1 w.2) st).v) {l : Nat} (hl : l ∈ lanes) :
    sl.raw (.v n l) = f l := by
  have hv : ∀ st : Slice, ((lanes.map (fun l => (Loc.v n l, f l))).foldl (fun sl w => Slice.setRaw sl w.1 w.2) st).v
      = lanes.foldl (fun m l => Store.set m 0 (4 * n + l) (f l)) st.v := by
    clear h hl
    induction lanes with
    | nil => exact fun _ => rfl
    | cons a ls ih => exact fun st => ih _
  rw [hv] at h
  rw [Slice.raw, h]
  refine Store.get_foldl_set (key := fun l => 4 * n + l) (fun r _ hr => ?_) (.inr ⟨l, hl, rfl⟩)
  rw [Nat.add_left_cancel hr]

theorem eraseDups_singleton (n : Nat) : [n].eraseDups = [n] := rfl

/-- An operation whose registers are in the allotment and whose queues are bound passes the checks. -/
theorem planChecks_one {o : LaneOp} {c : Ctx} {sl : Slice} (hb : ∀ n ∈ o.sh.vAll, n < c.wave.allot)
    (hok : o.lanes sl ≠ [] → (∀ q ∈ o.sh.pops, c.wave.popOk q = true) ∧ ∀ q, o.sh.push? = some q → c.wave.pushOk q = true) :
    planChecks [o] c sl = none := by
  have hqueue : [o].any (fun o => !(o.lanes sl).isEmpty && (o.sh.pops.any (fun q => !c.wave.popOk q)
      || o.sh.push?.any (fun q => !c.wave.pushOk q))) = false := by
    by_cases hl : o.lanes sl = []
    · simp [hl]
    · obtain ⟨hpop, hpush⟩ := hok hl
      cases hp : o.sh.push? <;> simp_all
  rw [planChecks, if_neg (by simpa using hb), if_neg (by simpa using hqueue)]

theorem exec_mov_pop (hr : Ready s x) (he : Edged s x) (hk : s.now.slices = [k]) {o : Alu1} {q : BitVec 3} {d : BitVec 7}
    (ht : o.ty.wide = false) (ha : o.a.reg = .q q) (hd : o.d = .v d) (hdn : d.toNat < x.allot)
    (hready : x.lanes o.g k ≠ [] → x.popOk q.toNat = true ∧ x.popReady q.toNat = true) :
    ∃ t y sl, exec (.mov o) s = .next t ∧ t.wave? s.now.core s.now.slot = some y ∧ Store.find? y.slices k = some sl
      ∧ y.queues = (if x.lanes o.g k = [] then x else x.pop q.toNat).queues ∧ sl.pc = (x.slice k).pc.next
      ∧ ∀ l ∈ x.lanes o.g k, sl.raw (.v d.toNat l) = low (x.popValue q.toNat (4 * k + l)) := by
  have hlanes : (movOp o).lanes (x.slice k) = x.lanes o.g k := movOp_lanes (by simp [hd]) x k
  have hpops : (movOp o).sh.pops = [q.toNat] := by simp [movOp, Alu1.shape, Shape.pops, srcOf, ha, qNum?]
  have hpush : (movOp o).sh.push? = none := by simp [movOp, Alu1.shape, Shape.push?, hd, qNum?]
  have hchk : planChecks [movOp o] (s.ctx x k) (x.slice k) = none := by
    refine planChecks_one ?_ (fun hl => ?_)
    · simp [State.ctx_wave, movOp, Alu1.shape, Shape.vAll, srcOf, ha, hd, ht, vNums, hdn]
    · rw [hlanes] at hl
      simp [hpops, hpush, (hready hl).1]
  obtain ⟨t, y, sl, hex, hy, hsl, hq, hpc, hv, -⟩ := exec_mov_queue hr he hk o hchk (fun hl => by
    rw [hlanes] at hl
    simp [hpops, hpush, (hready hl).2])
  have hws : (movOp o).writes ((movOp o).results (s.ctx x k) (x.slice k))
      = (x.lanes o.g k).map (fun l => (Loc.v d.toNat l, low (x.popValue q.toNat (4 * k + l)))) := by
    have hval : ∀ l, ((movOp o).f ((s.ctx x k).laneIn (x.slice k) (movOp o).sh l)).val.setWidth 32 = low (x.popValue q.toNat (4 * k + l)) := by
      intro l
      show ((s.ctx x k).readRegAt (x.slice k) 0 o.a.reg o.ty.wide l).setWidth 32 = _
      rw [ha, ht]
      simp [Ctx.readRegAt, low]
    have hdest : (movOp o).sh.d = some (.v d, false) := by simp [movOp, Alu1.shape, hd, ht]
    simp only [LaneOp.writes, LaneOp.results, hlanes, hdest, destWrites, hval, Bool.false_eq_true, if_false, List.flatMap_map,
      ← List.map_eq_flatMap]
  refine ⟨t, y, sl, hex, hy, hsl, hq.trans ?_, hpc, fun l hl => Slice.raw_of_laneWrites
    (f := fun l => low (x.popValue q.toNat (4 * k + l))) (hws ▸ hv) hl⟩
  by_cases hl : x.lanes o.g k = []
  · simp [Wave.moved, hpops, hpush, LaneOp.queues, hlanes, hl]
  · simp [Wave.moved, hpops, hpush, LaneOp.queues, hlanes, hl, Shape.queues, eraseDups_singleton]

theorem exec_mov_push (hr : Ready s x) (he : Edged s x) (hk : s.now.slices = [k]) {o : Alu1} {q : BitVec 3} {a : BitVec 7}
    (ht : o.ty.wide = false) (hd : o.d = .q q) (ha : o.a.reg = .v a) (han : a.toNat < x.allot)
    (hready : x.lanes o.g k ≠ [] → x.pushOk q.toNat = true ∧ x.pushReady q.toNat = true) :
    ∃ t y sl, exec (.mov o) s = .next t ∧ t.wave? s.now.core s.now.slot = some y ∧ Store.find? y.slices k = some sl
      ∧ y.queues = (if x.lanes o.g k = [] then x
          else x.push q.toNat ((x.lanes o.g k).map (fun l => (4 * k + l, ((x.slice k).raw (.v a.toNat l)).setWidth 64)))).queues
      ∧ sl.pc = (x.slice k).pc.next ∧ sl.v = (x.slice k).v ∧ sl.s = (x.slice k).s := by
  have hlanes : (movOp o).lanes (x.slice k) = x.lanes o.g k := movOp_lanes (by simp [hd]) x k
  have hpops : (movOp o).sh.pops = [] := by simp [movOp, Alu1.shape, Shape.pops, srcOf, ha, qNum?]
  have hpush : (movOp o).sh.push? = some q.toNat := by simp [movOp, Alu1.shape, Shape.push?, hd, qNum?]
  have hchk : planChecks [movOp o] (s.ctx x k) (x.slice k) = none := by
    refine planChecks_one ?_ (fun hl => ?_)
    · simp [State.ctx_wave, movOp, Alu1.shape, Shape.vAll, srcOf, ha, hd, ht, vNums, han]
    · rw [hlanes] at hl
      simp [hpops, hpush, (hready hl).1]
  obtain ⟨t, y, sl, hex, hy, hsl, hq, hpc, hv, hs⟩ := exec_mov_queue hr he hk o hchk (fun hl => by
    rw [hlanes] at hl
    simp [hpops, hpush, (hready hl).2])
  have hws : (movOp o).writes ((movOp o).results (s.ctx x k) (x.slice k)) = [] := by
    simp [LaneOp.writes, movOp, Alu1.shape, hd, destWrites]
  have hps : (movOp o).pushed k ((movOp o).results (s.ctx x k) (x.slice k))
      = (x.lanes o.g k).map (fun l => (q.toNat, 4 * k + l, ((x.slice k).raw (.v a.toNat l)).setWidth 64)) := by
    simp only [LaneOp.pushed, hpush, LaneOp.results, hlanes, List.map_map]
    refine List.map_congr_left (fun l _ => ?_)
    have hval : ((movOp o).f ((s.ctx x k).laneIn (x.slice k) (movOp o).sh l)).val
      = (s.ctx x k).readRegAt (x.slice k) 0 o.a.reg o.ty.wide l := rfl
    simp only [Function.comp_apply, hval, ha, ht, hr.readRegAt (mem_slices_of_one hk) 0 (r := .v a) rfl]
    rfl
  rw [hws] at hv hs
  refine ⟨t, y, sl, hex, hy, hsl, hq.trans ?_, hpc, hv, hs⟩
  by_cases hl : x.lanes o.g k = []
  · simp [Wave.moved, hpops, hpush, LaneOp.queues, hlanes, hl]
  · simp [Wave.moved, hpops, hpush, LaneOp.queues, hlanes, hl, Shape.queues, eraseDups_singleton, hps, List.filter_map, Function.comp_def]

/-- Settles O27, the pop and the push. -/
theorem queueMoves : Obligations.QueueMoves := fun _ _ _ _ hr he hk ht =>
  ⟨fun _ _ ha hd hdn hready => exec_mov_pop hr he hk ht ha hd hdn hready,
    fun _ _ hd ha han hready => exec_mov_push hr he hk ht hd ha han hready⟩

end

end Sys2Proof.Machine
end

section
/-!
PROOFS. Plain loads and stores (02 R59 to R64, 06 R139): their checks in a ready gang of one slice, and the access that goes out.
-/

namespace Sys2Proof.Machine

open Claim

section

variable {s : State} {x : Wave} {k : Nat} {o : MemOp} {m : MemForm}

/-- Every plain load and store issues through one driver. -/
theorem exec_memForms (o : MemOp) (s : State) : ∀ e ∈ memForms o, exec e.1 s = issueMem e.2 o s := by
  simp only [memForms, List.forall_mem_cons, List.not_mem_nil, false_implies, implies_true, and_true]
  exact ⟨rfl, rfl, rfl, rfl, rfl, rfl, rfl, rfl, rfl, rfl, rfl, rfl, rfl, rfl, rfl, rfl, rfl, rfl, rfl, rfl, rfl⟩

/-- A load or store names the base among its fields, and a store its data. -/
theorem MemOp.shape_field (h : x.Fields (MemOp.shape o m).fields) : qNum? o.base = none ∧ (m.load = false → qNum? o.data = none) := by
  unfold MemOp.shape at h
  cases hm : m.load with
  | true =>
    simp only [hm, Shape.fields, if_true, Option.toList_some, List.cons_append, List.nil_append, List.map_cons, Wave.fields_cons] at h
    exact ⟨h.2.1.1, nofun⟩
  | false =>
    simp only [hm, Shape.fields, Bool.false_eq_true, if_false, Option.toList_none, List.nil_append, List.map_cons, Wave.fields_cons] at h
    exact ⟨h.1.1, fun _ => h.2.2.1.1⟩

theorem Ready.policy (hr : Ready s x) (hk : k ∈ s.now.slices) (r : SReg) :
    ((s.ctx x k).readRegAt (x.slice k) 1 (.s r) false 0).setWidth 32 = (x.slice k).raw (.s r.toNat) := by
  rw [hr.readRegAt hk 1 rfl]
  simp [Slice.field]

theorem planMem_idle (hr : Ready s x) (hk : s.now.slices = [k]) (h : x.Fields (MemOp.shape o m).fields)
    (hl : workLanes (x.slice k) o.g (onceFor o.data) = []) :
    planMem m o s (s.ctx x k) (x.slice k) = .go (fun t => t.advance (MemOp.shape o m) [] k) := by
  have hmem := mem_slices_of_one hk
  unfold planMem
  simp only [hl, List.isEmpty_nil, Bool.not_true, Bool.and_false, (hr.quiet hmem).atEdge, hr.operands hmem _ h, if_true]
  rfl

/-- The path a plain access counts on. -/
def MemForm.path (m : MemForm) (ps : List (Part × Option Xlat)) : Nat :=
  match m.space with
  | .scratch _ => 2
  | _ => if ps.any (fun p => p.1.place.isPeer) then 4 else if m.load then 0 else 1

/-- The access passes its checks: its lanes' addresses are aligned and have parts, and nothing holds it. -/
structure MemClear (s : State) (x : Wave) (k : Nat) (o : MemOp) (m : MemForm) (pol : W32) (lanes : List Nat)
    (ps : List (Part × Option Xlat)) : Prop where
  work : lanes ≠ []
  policy : polBad pol m.load = false
  aligned : m.ordered = true → polOrder pol ≠ 0 → ∀ l ∈ lanes, memAddr x k o m l % m.bytes = 0
  parts : laneParts (fun l => s.partsFor x s.now.core l (memAddr x k o m l) m.bytes m.space (s.asker x s.now.core (!m.load)))
    (memAddr x k o m) lanes = .ok ps
  acquire : s.acquireAhead s.now.core s.now.slot k = none
  walks : ps.any (fun p => p.2.isSome && s.walkerFull s.now.core x.process p.1.va) = false
  counter : x.counter (m.path ps) < 255
  release : m.load = false → polOrder pol = 2 → Edged s x ∧ s.drained s.now.core s.now.slot k
    { loads := true, stores := true, redm := false, scope := scopeOf (polScope pol) } = true

theorem planMem_go (hr : Ready s x) (hk : s.now.slices = [k]) (h : x.Fields (MemOp.shape o m).fields) {lanes : List Nat}
    {ps : List (Part × Option Xlat)} {pol : W32} (hpol : (x.slice k).raw (.s o.policy.toNat) = pol)
    (hlanes : workLanes (x.slice k) o.g (onceFor o.data) = lanes) (hc : MemClear s x k o m pol lanes ps) :
    ∃ uses, planMem m o s (s.ctx x k) (x.slice k) = .go (fun t =>
      let t := t.shareNow uses
      if m.load then issueLoad m o pol lanes ps k t
      else issueStore m o pol lanes (lanes.map (fun l => (l, (s.ctx x k).readRegAt (x.slice k) 2 o.data (m.bytes = 8) l))) ps k t) := by
  have hmem := mem_slices_of_one hk
  obtain ⟨hqb, hqd⟩ := MemOp.shape_field h
  have hfull : (s.ctx x k).counterFull (m.path ps) o.g = false := by
    rw [Ctx.counterFull_one (show (s.ctx x k).gang = [k] from hk)]
    exact decide_eq_false (Nat.not_le.2 hc.counter)
  have hrel : ∀ b c : Bool, (m.ordered && !m.load && polOrder pol = 2 && b && c) = true → Edged s x ∧ s.drained s.now.core s.now.slot k
      { loads := true, stores := true, redm := false, scope := scopeOf (polScope pol) } = true := by
    intro b c hb
    simp only [Bool.and_eq_true, Bool.not_eq_true', decide_eq_true_eq] at hb
    exact hc.release hb.1.1.1.2 hb.1.1.2
  have hop : ∀ b c : Bool, operandCheck (MemOp.shape o m) (m.ordered && !m.load && polOrder pol = 2 && b && c) (s.ctx x k) (x.slice k) lanes
      = none := fun b c => operandCheck_clear hr hmem h (fun e => (hrel b c e).1)
  have hodd : m.ordered = true → polOrder pol ≠ 0 → lanes.filter (fun l => memAddr x k o m l % m.bytes ≠ 0) = [] := fun h1 h2 =>
    List.filter_eq_nil_iff.2 (fun l hl => by simpa using hc.aligned h1 h2 l hl)
  unfold planMem
  simp only [hr.policy hmem, hpol, hlanes, (hr.quiet hmem).atEdge, hop, hr.shareAll k, hr.readReg hmem hqb, State.ctx_wave, State.ctx_k,
    hc.policy]
  rw [if_neg (by simpa using hc.work), if_neg nofun, if_neg nofun, if_neg]
  · split
    · next heq => cases hc.parts.symm.trans heq
    · next heq =>
      cases hc.parts.symm.trans heq
      simp only [hc.acquire, hc.walks]
      rw [if_neg nofun, if_neg, if_neg]
      · exact ⟨_, rfl⟩
      · intro hb
        obtain ⟨hrelease, hleft⟩ := Bool.and_eq_true_iff.1 hb
        obtain ⟨-, hdrained⟩ := hrel _ _ hrelease
        rw [hdrained] at hleft
        cases hleft
      · exact fun hb => Bool.false_ne_true (hfull.symm.trans hb)
  · intro hb
    simp only [Bool.and_eq_true, decide_eq_true_eq] at hb
    obtain ⟨⟨h1, h2⟩, h3⟩ := hb
    rw [Bool.not_eq_true', List.isEmpty_eq_false_iff] at h3
    exact h3 (hodd h1 h2)

theorem exec_mem_idle (hr : Ready s x) (hk : s.now.slices = [k]) (h : x.Fields (MemOp.shape o m).fields)
    (hl : workLanes (x.slice k) o.g (onceFor o.data) = []) :
    issueMem m o s = .next ((s.advance (MemOp.shape o m) [] k).modWave s.now.core s.now.slot (·.partPeers s.now.slices)) := by
  rw [issueMem, issueActs_go_one hr.wave hk (planMem_idle hr hk h hl)]

/-- With its checks passed, the access goes out. -/
theorem exec_mem_go (hr : Ready s x) (hk : s.now.slices = [k]) (h : x.Fields (MemOp.shape o m).fields) {lanes : List Nat}
    {ps : List (Part × Option Xlat)} {pol : W32} (hpol : (x.slice k).raw (.s o.policy.toNat) = pol)
    (hlanes : workLanes (x.slice k) o.g (onceFor o.data) = lanes) (hc : MemClear s x k o m pol lanes ps) :
    issueMem m o s = .next ((if m.load then issueLoad m o pol lanes ps k s
      else issueStore m o pol lanes (lanes.map (fun l => (l, (x.slice k).field o.data (m.bytes = 8) l))) ps k s).modWave
        s.now.core s.now.slot (·.partPeers s.now.slices)) := by
  obtain ⟨uses, hgo⟩ := planMem_go hr hk h hpol hlanes hc
  rw [issueMem, issueActs_go_one hr.wave hk hgo]
  simp only [State.shareNow_none hr.shared]
  cases hm : m.load with
  | true => simp only [if_true]
  | false => simp only [hr.readRegAt (mem_slices_of_one hk) 2 ((MemOp.shape_field h).2 hm), Bool.false_eq_true, if_false]

/-- Settles O16: every plain load and store issues through one driver, whose checks these conditions pass. -/
theorem loadsAndStoresIssue : Obligations.LoadsAndStoresIssue := by
  intro s x k o i m ps him hr hk h lanes pol peer
  have hexec : exec i s = issueMem m o s := exec_memForms o s (i, m) him
  rw [hexec]
  exact ⟨exec_mem_idle hr hk h, fun hl hbad hal hps hacq hwalk hcount hrel =>
    exec_mem_go hr hk h rfl rfl ⟨hl, hbad, hal, hps, hacq, hwalk, hcount, hrel⟩⟩

end

end Sys2Proof.Machine
end

section
/-!
PROOFS. What the issue of a load of this package changes (02 R59, R62, R64): no byte and no register; its access is in flight, its
destination awaited.
-/

namespace Sys2Proof.Machine

open Claim

section

variable {s : State} {c w k : Nat} {sl : Slice}

/-! ### The slice that a step changes -/

theorem State.slice?_modSlice (h : s.slice? c w k = some sl) (f : Slice → Slice) : (s.modSlice c w k f).slice? c w k = some (f sl) := by
  unfold State.slice? at h
  cases hx : s.wave? c w with
  | none => simp [hx] at h
  | some x =>
    have hk : Store.find? x.slices k = some sl := by simpa [hx] using h
    simp only [State.modSlice, hx, hk, State.slice?, State.wave?_setWave, Option.bind_some]
    exact Store.find?_insert_self ..

theorem State.slice?_modWave {f : Wave → Wave} (hf : ∀ x, (f x).slices = x.slices) : (s.modWave c w f).slice? c w k = s.slice? c w k := by
  unfold State.modWave
  cases hx : s.wave? c w with
  | none => rfl
  | some x => simp [State.slice?, hx, State.wave?_setWave, hf]

theorem State.advance_slice {sh : Shape} {lanes : List Nat} (h : s.slice? s.now.core s.now.slot k = some sl) :
    ∃ st, (s.advance sh lanes k).slice? s.now.core s.now.slot k = some st ∧ st.pc = sl.pc.next ∧ st.v = sl.v ∧ st.s = sl.s ∧ st.p = sl.p
      ∧ st.out = sl.out :=
  ⟨_, State.slice?_modSlice h _, rfl, rfl, rfl, rfl, rfl⟩

/-! ### Filling the TLBs -/

/-- What the translations of an access leave in the TLBs of core c. -/
def State.fillAt (s : State) (c : Nat) (ps : List (Part × Option Xlat)) : State :=
  ps.foldl (fun (s : State) p => match p.2 with | some t => s.fillCoreTlb c t | none => s) s

/-- The TLBs of a core hold neither bytes nor waves nor accesses. -/
structure SameButTlbs (s t : State) : Prop where
  bytes : SameBytes s t
  now : t.now = s.now
  serial : t.serial = s.serial
  inflight : t.inflight = s.inflight
  wave : ∀ c w, t.wave? c w = s.wave? c w

theorem State.fillCoreTlb_same (s : State) (c : Nat) (e : Xlat) : SameButTlbs s (s.fillCoreTlb c e) := by
  have htlb : ∀ (s : State) (cl : Nat), SameButTlbs s (s.fillTlb cl e) := by
    intro s cl
    refine ⟨.fillTlb .., State.fillTlb_now .., ?_, ?_, fun d w => ?_⟩
    · unfold State.fillTlb
      simp only []
      split <;> rfl
    · unfold State.fillTlb
      simp only []
      split <;> rfl
    · rw [State.wave?, State.fillTlb_core, State.wave?]
  have hcore : SameButTlbs s (s.setCore c { s.core c with tlb := (e :: (s.core c).tlb).take 1024 }) := by
    refine ⟨.setCore _ _ _ rfl, rfl, rfl, rfl, fun d w => ?_⟩
    by_cases hd : d = c
    · subst hd
      rw [State.wave?, State.core_setCore, State.wave?]
    · simp [State.wave?, State.core, State.setCore, Store.find?_insert_ne _ _ hd]
  unfold State.fillCoreTlb
  simp only []
  split
  · exact htlb s _
  · obtain ⟨h1, h2, h3, h4, h5⟩ := htlb (s.setCore c { s.core c with tlb := (e :: (s.core c).tlb).take 1024 }) (c / 32)
    exact ⟨hcore.bytes.trans h1, h2.trans hcore.now, h3.trans hcore.serial, h4.trans hcore.inflight, fun d w => (h5 d w).trans (hcore.wave d w)⟩

theorem State.fillAt_same (ps : List (Part × Option Xlat)) (s : State) (c : Nat) : SameButTlbs s (s.fillAt c ps) := by
  induction ps generalizing s with
  | nil => exact ⟨.refl s, rfl, rfl, rfl, fun _ _ => rfl⟩
  | cons p ps ih =>
    obtain ⟨p, e⟩ := p
    cases e with
    | none => exact ih s
    | some e =>
      have h := s.fillCoreTlb_same c e
      obtain ⟨h1, h2, h3, h4, h5⟩ := ih (s.fillCoreTlb c e)
      exact ⟨h.bytes.trans h1, h2.trans h.now, h3.trans h.serial, h4.trans h.inflight, fun d w => (h5 d w).trans (h.wave d w)⟩

/-! ### An access goes out -/

/-- The access in flight, with the slice's L1 and what it comes after. -/
theorem State.launchAccess_inflight (s : State) (a : Access) :
    ∃ b, Store.find? (s.launchAccess a).inflight s.serial = some b ∧ b = { a with dom := b.dom, after := b.after } := by
  unfold State.launchAccess
  have hfind : ∀ b : Access, Store.find? (Store.insert s.inflight s.serial b) s.serial = some b := fun b => Store.find?_insert_self ..
  simp only []
  split <;> split <;> simp only [State.inflight_modWave, hfind, Option.some.injEq, exists_eq_left']

theorem State.launchAccess_serial (s : State) (a : Access) : (s.launchAccess a).serial = s.serial + 1 := by
  unfold State.launchAccess
  simp only []
  split <;> simp only [State.serial_modWave]

theorem State.launchAccess_now (s : State) (a : Access) : (s.launchAccess a).now = s.now := by
  unfold State.launchAccess
  simp only []
  split <;> simp only [State.now_modWave]

theorem State.launchAccess_slice (s : State) (a : Access) (k : Nat) :
    (s.launchAccess a).slice? a.core a.slot k = s.slice? a.core a.slot k := by
  unfold State.launchAccess
  simp only []
  split <;> split
  · exact State.slice?_modWave (fun _ => rfl)
  · exact State.slice?_modWave (fun _ => rfl)
  · rfl
  · rfl

/-! ### The issue of a load -/

/-- An access of this package that has just gone out has nothing to send, and without prompt moments it stays so. -/
theorem State.issued_local {u : State} {a : Access} {sh : Shape} {lanes : List Nat} {f : Slice → Slice}
    (hparts : ∀ p ∈ a.parts, p.place.isPeer = false) (hp : u.now.prompt = false) :
    let t := ((u.launchAccess a).advance sh lanes k).modNow k f
    let sent := t.sendLoadStore u.serial ((Store.find? t.inflight u.serial).getD a)
    (if sent.now.prompt || false then sent.progress u.serial sent.now.prompt else sent) = t := by
  intro t sent
  obtain ⟨b, hb, hbeq⟩ := u.launchAccess_inflight a
  have hinflight : t.inflight = (u.launchAccess a).inflight := by
    simp only [t, State.modNow, State.advance, State.inflight_modSlice]
  have hbparts : ∀ p ∈ b.parts, p.place.isPeer = false := by
    rw [hbeq]
    exact hparts
  have hsent : sent = t := by
    simp only [sent, hinflight, hb, Option.getD_some]
    unfold State.sendLoadStore
    split
    · exact State.sendParts_local _ _ _ _ _ hbparts
    · exact State.sendParts_local _ _ _ _ _ hbparts
    · rfl
  have hnow : t.now.prompt = false := by
    simp only [t, State.modNow, State.advance, State.now_modSlice, State.launchAccess_now, hp]
  rw [hsent, hnow]
  rfl

/-- What a load leaves in its slice: it awaits its destination. -/
theorem issueLoad_local {x : Wave} {o : MemOp} {m : MemForm} {pol : W32} {lanes : List Nat} {ps : List (Part × Option Xlat)}
    (hp : s.now.prompt = false) (hw : s.wave? s.now.core s.now.slot = some x) (hk : Store.find? x.slices k = some sl)
    (hpeer : ∀ p ∈ ps, p.1.place.isPeer = false) :
    ∃ (a : Access) (f : Slice → Slice),
      issueLoad m o pol lanes ps k s = (((s.fillAt s.now.core ps).launchAccess a).advance (MemOp.shape o m) lanes k).modNow k f
      ∧ a.parts = ps.map (fun p => { p.1 with copy := false }) ∧ a.core = s.now.core ∧ a.slot = s.now.slot ∧ a.slice = k
      ∧ a.kind = .load o.data (m.bytes = 8) m.bytes m.signed
          (if m.ordered && polOrder pol = 1 then some (scopeOf (polScope pol)) else none)
      ∧ a.path = some (match m.space with | .scratch _ => 2 | _ => 0)
      ∧ ∀ st, (f st).pc = st.pc ∧ (f st).v = st.v ∧ (f st).s = st.s ∧ (f st).p = st.p
          ∧ (f st).out = st.out ++ (lanes.flatMap (regLocs o.data (m.bytes = 8))).map (fun l =>
              { loc := l, by_ := .memory, pc := sl.pc, id := s.serial }) := by
  have hsl : s.slice? s.now.core s.now.slot k = some sl := by rw [State.slice?, hw, Option.bind_some, hk]
  have hany : ps.any (fun p => p.1.place.isPeer) = false := List.any_eq_false.2 (fun p hp => by simp [hpeer p hp])
  have hfill := s.fillAt_same ps s.now.core
  unfold issueLoad
  simp only [hw, hsl, hany]
  refine ⟨_, _, State.issued_local ?_ ?_, ?_, rfl, rfl, rfl, rfl, rfl, fun st => ?_⟩
  · simp only [List.mem_map]
    rintro p ⟨q, hq, rfl⟩
    exact hpeer q hq
  · exact (congrArg Now.prompt hfill.now).trans hp
  · exact List.map_congr_left (fun p hp => by simp [hpeer p hp])
  · have hid : ∀ n, n = s.serial → st.out ++ (lanes.flatMap (regLocs o.data (m.bytes = 8))).map (fun l =>
        ({ loc := l, by_ := .memory, pc := sl.pc, id := n } : Outstanding))
        = st.out ++ (lanes.flatMap (regLocs o.data (m.bytes = 8))).map (fun l =>
        ({ loc := l, by_ := .memory, pc := sl.pc, id := s.serial } : Outstanding)) := fun n hn => hn ▸ rfl
    simp only [Bool.false_eq_true, if_false]
    unfold Slice.openWindow
    split <;> exact ⟨rfl, rfl, rfl, rfl, hid _ hfill.serial⟩

/-- Settles O17: nothing on a load's way out writes a byte or a register. -/
theorem loadIssueChangesNoMemory : Obligations.LoadIssueChangesNoMemory := by
  intro s x k o m pol lanes ps sl hp hw hk hpeer t
  obtain ⟨a, f, ht, hparts, hcore, hslot, hslice, hkind, hpath, hf⟩ := issueLoad_local (o := o) (m := m) (pol := pol) (lanes := lanes) hp hw hk hpeer
  have hfill := s.fillAt_same ps s.now.core
  have hnow : ((s.fillAt s.now.core ps).launchAccess a).now = s.now := (State.launchAccess_now ..).trans hfill.now
  have hsl : ((s.fillAt s.now.core ps).launchAccess a).slice? s.now.core s.now.slot k = some sl := by
    have h := (s.fillAt s.now.core ps).launchAccess_slice a k
    rw [hcore, hslot] at h
    rw [h, State.slice?, hfill.wave, hw, Option.bind_some, hk]
  obtain ⟨b, hb, hbeq⟩ := (s.fillAt s.now.core ps).launchAccess_inflight a
  obtain ⟨st, hst, hpc, hv, hs, hpred, hout⟩ := State.advance_slice (sh := MemOp.shape o m) (lanes := lanes)
    (s := (s.fillAt s.now.core ps).launchAccess a) (by rw [hnow]; exact hsl)
  obtain ⟨fpc, fv, fs, fp, fout⟩ := hf st
  have hadvnow : (((s.fillAt s.now.core ps).launchAccess a).advance (MemOp.shape o m) lanes k).now = s.now :=
    (State.now_modSlice ..).trans hnow
  rw [show t = _ from ht]
  refine ⟨fun die p q => ?_, ⟨b, ?_, ?_⟩, ?_, f st, ?_, fpc.trans hpc, fv.trans hv, fs.trans hs, fp.trans hpred, fout.trans (hout ▸ rfl)⟩
  · exact (hfill.bytes.trans ((SameBytes.launchAccess _ a).trans ((SameBytes.advance ..).trans (SameBytes.modSlice ..)))).peek die p q
  · rw [State.modNow, State.inflight_modSlice, State.advance, State.modNow, State.inflight_modSlice, ← hfill.serial]
    exact hb
  · rw [hbeq]
    exact ⟨hparts, hcore, hslot, hslice, hkind, hpath⟩
  · rw [State.modNow, State.serial_modSlice, State.advance, State.modNow, State.serial_modSlice, State.launchAccess_serial, hfill.serial]
  · rw [hnow] at hst
    rw [State.modNow, hadvnow]
    exact State.slice?_modSlice hst f

end

end Sys2Proof.Machine
end

section
/-!
PROOFS. A store takes its moments (02 R64, 13 R250, R256): it changes the bytes of its parts and no others.
-/

namespace Sys2Proof.Machine

open Claim

/-! ### What a write at the home leaves in flight -/

theorem State.inflight_poke (s : State) (p : Place) (a : Nat) (b : Byte) : (s.poke p a b).inflight = s.inflight := by
  cases p <;> simp only [State.poke, State.inflight_setCore]
  case device =>
    unfold State.setDeviceByte
    simp only []
    split <;> rfl

theorem State.inflight_pokeN (p : Place) (bs : List Byte) (s : State) (a : Nat) : (s.pokeN p a bs).inflight = s.inflight := by
  induction bs generalizing s a with
  | nil => rfl
  | cons b bs ih => rw [State.pokeN, ih, State.inflight_poke]

theorem State.inflight_stampLine (s : State) (p : Place) (a n : Nat) : (s.stampLine p a n).inflight = s.inflight := by
  have hsettle : (s.settlePoison p a n).inflight = s.inflight := by
    unfold State.settlePoison
    split
    · rfl
    · exact State.inflight_checkLine ..
  unfold State.stampLine
  simp only []
  split
  · exact hsettle
  · exact hsettle

theorem State.inflight_contestL1 (s : State) (p : Place) (a n id : Nat) : (s.contestL1 p a n id).inflight = s.inflight := by
  unfold State.contestL1
  split <;> rfl

theorem State.inflight_leaveLlc (s : State) (p : Place) (a : Nat) (bs : List Byte) (id : Nat) : (s.leaveLlc p a bs id).inflight = s.inflight := by
  unfold State.leaveLlc
  split <;> rfl

theorem State.inflight_homeWriteAll (p : Place) (id fuel : Nat) (s : State) (a : Nat) (bs : List Byte) :
    (s.homeWriteAll p false id fuel a bs).inflight = s.inflight := by
  induction fuel generalizing s a bs with
  | zero => rfl
  | succ n ih =>
    cases bs with
    | nil => rfl
    | cons b bs =>
      refine (ih _ _ _).trans ?_
      unfold State.homeWriteLine
      simp only [Bool.false_eq_true, if_false, State.inflight_leaveLlc, State.inflight_contestL1, State.inflight_pokeN, State.inflight_stampLine]

theorem State.inflight_homeWrite (s : State) (p : Place) (a : Nat) (bs : List Byte) (id : Nat) :
    (s.homeWrite p a bs false id).inflight = s.inflight := State.inflight_homeWriteAll ..

theorem State.inflight_cleanL1 (s : State) (d : L1Dom) (p : Place) (a n id : Nat) : (s.cleanL1 d p a n id).inflight = s.inflight := by
  unfold State.cleanL1
  split <;> rfl

theorem State.inflight_untag (s : State) (p : Place) (a n id : Nat) : (s.untag p a n id).inflight = s.inflight := by
  unfold State.untag
  split <;> rfl

theorem SameBytes.deny (s : State) (a : Access) (p : Part) : SameBytes s (s.deny a p) := by
  unfold State.deny
  split
  · exact .refl s
  · exact .modOwner ..

/-! ### One part of a store -/

section

variable {s : State} {id : Nat} {a : Access} {p : Part}

/-- A part of a store to a place of this package, whose bytes are its data. -/
structure Part.Plain (p : Part) : Prop where
  place : p.place.plain
  rep : p.rep = false
  size : p.size = p.data.length

theorem Part.Plain.notPeer (h : p.Plain) : p.place.isPeer = false := by
  have hp := h.place
  cases hpl : p.place <;> simp_all [Place.plain, Place.isPeer]

theorem State.inflight_storePart (hp : p.Plain) : (s.storePart id a p).inflight = s.inflight := by
  unfold State.storePart
  split
  · rw [State.inflight_cleanL1, State.inflight_deny]
  · rw [State.inflight_cleanL1, State.inflight_holdHostLine, State.inflight_untag, hp.rep, State.inflight_homeWrite]

/-- Where its world permits, a part is written at its home. -/
theorem SameBytes.storePart (hp : p.Plain) (hw : s.worldOk a.secure p.place p.addr = true) :
    SameBytes (s.homeWrite p.place p.addr p.data false id) (s.storePart id a p) := by
  unfold State.storePart
  rw [if_neg (by simp [hw]), hp.rep]
  exact (SameBytes.untag ..).trans ((SameBytes.holdHostLine ..).trans (.cleanL1 ..))

/-- A part changes no byte outside it. -/
theorem State.storePart_outside (hp : p.Plain) {die : Nat} {q : Place} {c : Nat} (hout : q ≠ p.place ∨ c < p.addr ∨ p.addr + p.size ≤ c) :
    (s.storePart id a p).peek die q c = s.peek die q c := by
  by_cases hw : s.worldOk a.secure p.place p.addr = true
  · rw [(SameBytes.storePart hp hw).peek, (s.homeWrite_peek hp.place p.addr p.data id die q c).1]
    split
    · next h =>
      obtain ⟨rfl, hle, -⟩ := h
      have hlen := hp.size
      have hend : p.data.length ≤ c - p.addr := by
        rcases hout with h | h | h
        · exact absurd rfl h
        · omega
        · omega
      rw [List.getElem?_eq_none hend, Option.getD_none]
    · rfl
  · unfold State.storePart
    rw [if_pos (by simp [hw])]
    exact ((SameBytes.deny s a p).trans (.cleanL1 ..)).peek die q c

/-- Its bytes stand in its place, where no replica keeps its own. -/
theorem State.storePart_inside (hp : p.Plain) (hw : s.worldOk a.secure p.place p.addr = true) {die i : Nat} (hi : i < p.data.length)
    (hst : Store.find? s.stale (staleKey p.place (p.addr + i) die) = none) :
    (s.storePart id a p).peek die p.place (p.addr + i) = p.data[i] := by
  rw [(SameBytes.storePart hp hw).peek, (s.homeWrite_peek hp.place p.addr p.data id die p.place (p.addr + i)).1,
    if_pos ⟨rfl, Nat.le_add_right .., hst⟩, Nat.add_sub_cancel_left, List.getElem?_eq_getElem hi, Option.getD_some]

/-! ### A moment of a store -/

/-- An access in flight is this store, some of whose parts have taken their moment or stand in the LLC. -/
structure StoreOf (a b : Access) : Prop where
  kind : b.kind = .store
  parts : ∀ q ∈ b.parts, ∃ p ∈ a.parts, q = { p with got := q.got, llc := q.llc }

theorem StoreOf.plain {b : Access} (h : StoreOf a b) (hp : ∀ p ∈ a.parts, p.Plain) : ∀ q ∈ b.parts, q.Plain := by
  intro q hq
  obtain ⟨p, hpa, he⟩ := h.parts q hq
  obtain ⟨h1, h2, h3⟩ := hp p hpa
  rw [he]
  exact ⟨h1, h2, h3⟩

theorem StoreOf.modify {b : Access} (h : StoreOf a b) (i : Nat) {f : Part → Part} (hf : ∀ q, f q = { q with got := (f q).got, llc := (f q).llc }) :
    StoreOf a { b with parts := b.parts.modify i f } := by
  refine ⟨h.kind, fun q hq => ?_⟩
  obtain ⟨j, hj, hjq⟩ := List.mem_iff_getElem.1 hq
  rw [List.getElem_modify] at hjq
  have hjb : j < b.parts.length := by simpa using hj
  obtain ⟨p, hpa, he⟩ := h.parts b.parts[j] (List.getElem_mem hjb)
  refine ⟨p, hpa, ?_⟩
  rw [← hjq]
  split
  · rw [hf, he]
  · exact he

/-- A store on its way: it stands in flight, and outside its parts every byte is as in s. -/
structure Storing (s u : State) (id : Nat) (a : Access) : Prop where
  inflight : ∃ b, Store.find? u.inflight id = some b ∧ StoreOf a b
  outside : ∀ die q c, (∀ p ∈ a.parts, q ≠ p.place ∨ c < p.addr ∨ p.addr + p.size ≤ c) → u.peek die q c = s.peek die q c

/-- Marking a part of a store in flight. -/
theorem Storing.modPart {u v : State} (h : Storing s u id a) (hi : v.inflight = u.inflight)
    (ho : ∀ die q c, (∀ p ∈ a.parts, q ≠ p.place ∨ c < p.addr ∨ p.addr + p.size ≤ c) → v.peek die q c = u.peek die q c)
    (i : Nat) {f : Part → Part} (hf : ∀ q, f q = { q with got := (f q).got, llc := (f q).llc }) : Storing s (v.modPart id i f) id a := by
  obtain ⟨b, hb, hof⟩ := h.inflight
  refine ⟨⟨{ b with parts := b.parts.modify i f }, ?_, hof.modify i hf⟩, fun die q c hout => ?_⟩
  · simp only [State.modPart, Store.update, hi, hb, Store.find?_insert_self]
  · exact ((SameBytes.modPart ..).peek die q c).trans ((ho die q c hout).trans (h.outside die q c hout))

theorem Storing.takePart {u : State} (h : Storing s u id a) (hp : ∀ p ∈ a.parts, p.Plain) (i : Nat) (all : Bool) :
    Storing s (u.takePart id i all) id a := by
  obtain ⟨b, hb, hof⟩ := h.inflight
  unfold State.takePart
  simp only [hb]
  cases hi : b.parts[i]? with
  | none => exact h
  | some q =>
    have hqp := hof.plain hp q (List.mem_of_getElem? hi)
    obtain ⟨p, hpa, hq⟩ := hof.parts q (List.mem_of_getElem? hi)
    simp only [hqp.notPeer, Bool.false_and, Bool.false_eq_true, if_false, hof.kind]
    split
    · exact h
    · split
      · exact h.modPart (v := u.enterLlc q.addr q.data id) (State.inflight_holdHostLine ..)
          (fun die q c _ => (SameBytes.enterLlc ..).peek die q c) i (fun _ => rfl)
      · refine h.modPart (State.inflight_storePart hqp) (fun die r c hout => ?_) i (fun _ => rfl)
        refine State.storePart_outside hqp ?_
        rw [hq]
        exact hout p hpa

theorem Storing.foldl {u : State} (h : Storing s u id a) (hp : ∀ p ∈ a.parts, p.Plain) (is : List Nat) (all : Bool) :
    Storing s (is.foldl (fun (s : State) i => s.takePart id i all) u) id a := by
  induction is generalizing u with
  | nil => exact h
  | cons i is ih => exact ih (h.takePart hp i all)

/-- The end of a store changes no byte. -/
theorem SameBytes.storeReturn (s : State) (id : Nat) (a : Access) : SameBytes s (s.storeReturn id a) := by
  have hdefer : ∀ u : State, SameBytes u (u.deferErrors a) := by
    intro u
    unfold State.deferErrors
    split
    · exact .refl u
    · exact .modOwner ..
  refine (SameBytes.foldl _ (fun u p => ?_) a.parts s).trans ((hdefer _).trans (.finish ..))
  split
  · have hclean : SameBytes u ((u.cleanL1 a.dom p.place p.addr p.size id).noFillFrom a.dom (some (p.place, p.addr))) :=
      (SameBytes.cleanL1 ..).trans (.withInflight _ _)
    simp only []
    split
    · exact hclean
    · exact hclean.trans ((SameBytes.contestL1 ..).trans (.untag ..))
  · exact .refl u

/-- After its moments a store changes no byte. -/
theorem progress_store (hs : Store.find? s.inflight id = some a) (hr : a.returned = false) {all : Bool} {u : State}
    (hu : (s.chosenParts id a all).foldl (fun (s : State) i => s.takePart id i all) s = u) {b : Access}
    (hb : Store.find? u.inflight id = some b) (hk : b.kind = .store) (hp : ∀ p ∈ b.parts, p.place.isPeer = false) :
    SameBytes u (s.progress id all) := by
  have hsend : u.sendLoadStore id b = u := by
    unfold State.sendLoadStore
    rw [hk]
    exact State.sendParts_local _ _ _ _ _ hp
  unfold State.progress
  simp only [hs, hr, hu, hb, hsend, hk]
  rw [if_neg nofun]
  split
  · split
    · exact .finish ..
    · exact .storeReturn ..
  · exact .refl u

/-- Settles O18: outside its parts a store changes nothing, and a single part that is due is written. -/
theorem storePerformedStores : Obligations.StorePerformedStores := by
  intro s id a hs hk hslot hret hparts
  have hplain : ∀ p ∈ a.parts, p.Plain := fun p hp => ⟨(hparts p hp).1, (hparts p hp).2.1, (hparts p hp).2.2.1⟩
  have hstart : Storing s s id a := ⟨⟨a, hs, hk, fun q hq => ⟨q, hq, rfl⟩⟩, fun _ _ _ _ => rfl⟩
  have hexec : exec (.storePerformed id) s = .next (s.progress id false) := by
    show execStorePerformed id s = _
    unfold execStorePerformed
    rw [hs]
    cases a
    simp only at hk hslot
    subst hk
    simp only [hslot, if_true]
  have hfold := hstart.foldl hplain (s.chosenParts id a false) false
  obtain ⟨b, hb, hof⟩ := hfold.inflight
  have hrest := progress_store hs hret rfl hb hof.kind (fun q hq => (hof.plain hplain q hq).notPeer)
  refine ⟨_, hexec, fun die q c hout => (hrest.peek die q c).trans (hfold.outside die q c hout), ?_⟩
  intro p hone hdue hhost die i hi hst
  have hpp : p.Plain := hplain p (by simp [hone])
  have hworld : s.worldOk a.secure p.place p.addr = true := (hparts p (by simp [hone])).2.2.2
  have hchosen : s.chosenParts id a false = [0] := by simp [State.chosenParts, hone, hdue]
  have htake : s.takePart id 0 false = (s.storePart id a p).modPart id 0 (fun q => { q with got := some .done }) := by
    have hhome : (p.place == .host && !p.llc) = false := by
      by_cases hpl : p.place = .host
      · simp [hhost hpl]
      · simp [hpl]
    simp [State.takePart, hs, hone, hpp.notPeer, hdue, hk, hhome]
  rw [hrest.peek, hchosen, List.foldl_cons, List.foldl_nil, htake, (SameBytes.modPart ..).peek]
  exact State.storePart_inside hpp hworld hi hst

end

end Sys2Proof.Machine
end

section
/-!
PROOFS. A load of this package takes its last moment (02 R59, R64, 13 R248): the part is read, and what the load has read lands.
-/

namespace Sys2Proof.Machine

open Claim

section

variable {s : State} {id : Nat} {a : Access} {i : Nat} {p : Part}

/-- Part i of a load is the only one still to take its moment, and may take it; the others hold bytes of this package. -/
structure LastPart (s : State) (id : Nat) (a : Access) (i : Nat) (p : Part) : Prop where
  part : a.parts[i]? = some p
  due : s.partDue id a i p = true
  others : ∀ j q, a.parts[j]? = some q → j ≠ i → q.place.isPeer = false ∧ q.copy = false ∧ ∃ bs, q.got = some (.data bs)

theorem State.partDue_notPeer (h : s.partDue id a i p = true) : p.place.isPeer = false := by
  simp only [State.partDue, Bool.and_eq_true, Bool.not_eq_true'] at h
  exact h.1.1.2

/-- A moment of the load takes that part. -/
theorem LastPart.chosenParts (h : LastPart s id a i p) : s.chosenParts id a false = [i] := by
  obtain ⟨hi, hp⟩ := List.getElem?_eq_some_iff.1 h.part
  have hone : ∀ f : Nat → Bool, (∀ j, j < a.parts.length → f j = decide (j = i)) → (List.range a.parts.length).filter f = [i] := by
    intro f hf
    rw [← filter_eq_singleton List.nodup_range (List.mem_range.2 hi)]
    exact List.filter_congr (fun j hj => hf j (List.mem_range.1 hj))
  unfold State.chosenParts
  simp only [Bool.false_eq_true, if_false]
  rw [hone]
  · simp
  · intro j hj
    rw [List.getElem?_eq_getElem hj]
    by_cases hji : j = i
    · subst hji
      simp [hp, h.due]
    · obtain ⟨-, hcopy, bs, hgot⟩ := h.others j _ (List.getElem?_eq_getElem hj) hji
      simp [hji, hcopy, State.partDue, hgot]

/-- Every part then holds bytes of this package. -/
theorem LastPart.read_parts (h : LastPart s id a i p) (bs : List Byte) :
    ∀ q ∈ a.parts.modify i (fun q => { q with got := some (PeerReply.data bs) }), q.place.isPeer = false ∧ ∃ bs, q.got = some (.data bs) := by
  intro q hq
  obtain ⟨j, hj, hjq⟩ := List.mem_iff_getElem.1 hq
  rw [List.getElem_modify] at hjq
  have hjb : j < a.parts.length := by simpa using hj
  by_cases hij : i = j
  · subst hij
    rw [if_pos rfl] at hjq
    rw [← hjq, (List.getElem?_eq_some_iff.1 h.part).2]
    have hplace : p.place.isPeer = false := State.partDue_notPeer h.due
    exact ⟨hplace, bs, rfl⟩
  · rw [if_neg hij] at hjq
    obtain ⟨hplace, -, hgot⟩ := h.others j q (List.getElem?_eq_some_iff.2 ⟨hjb, hjq⟩) (Ne.symm hij)
    exact ⟨hplace, hgot⟩

end

/-! ### What has been read lands -/

/-- The writes of a load that has read its parts: each lane's bytes, extended. -/
def Access.loaded (a : Access) (d : Reg) (wide signed : Bool) : List (Loc × W32) :=
  (a.parts.map (·.lane)).eraseDups.flatMap (fun l =>
    destWrites d wide l (extendBytes ((a.parts.filter (fun p => p.lane = l)).flatMap Part.bytes) signed))

theorem State.foldl_eq_self {α : Type} {f : State → α → State} {l : List α} {s : State} (h : ∀ a ∈ l, f s a = s) : l.foldl f s = s := by
  induction l with
  | nil => rfl
  | cons a l ih =>
    rw [List.foldl_cons, h a (List.mem_cons_self ..)]
    exact ih (fun b hb => h b (List.mem_cons_of_mem _ hb))

section

variable {s : State} {id : Nat} {a : Access}

/-- A load of this package whose parts all hold bytes lands them. -/
theorem State.loadReturn_local (h : ∀ q ∈ a.parts, q.place.isPeer = false ∧ ∃ bs, q.got = some (.data bs)) (d : Reg) (wide signed : Bool)
    (acq : Option Sys2Proof.Scope) :
    s.loadReturn id a d wide signed acq =
      (match acq with
        | some scope => (s.landAll a id (a.loaded d wide signed)).acquireFor a scope
        | none => s.landAll a id (a.loaded d wide signed)).finish id a := by
  have hpeer : a.parts.any (fun p => p.place.isPeer) = false := List.any_eq_false.2 (fun q hq => by simp [(h q hq).1])
  have herr : a.peerError? = none := by
    unfold Access.peerError?
    refine List.findSome?_eq_none_iff.2 (fun q hq => ?_)
    obtain ⟨bs, hgot⟩ := (h q hq).2
    rw [hgot]
  have hfill : a.parts.foldl (fun (s : State) p => s.fillPeer a p) s = s :=
    State.foldl_eq_self (fun q hq => State.fillPeer_local s a (h q hq).1)
  unfold State.loadReturn
  simp only [herr, hpeer, Bool.false_eq_true, if_false, Core.shareAll, List.isEmpty_nil, Bool.true_or, if_true, hfill]
  cases acq <;> rfl

/-- The moment of its last part ends a load. -/
theorem progress_load {d : Reg} {wide signed : Bool} {n : Nat} {acq : Option Sys2Proof.Scope} {i : Nat} {p : Part}
    (hs : Store.find? s.inflight id = some a) (hk : a.kind = .load d wide n signed acq) (hd : ∀ q, d ≠ .q q) (hr : a.returned = false)
    (hc : a.cancelled = false) (h : LastPart s id a i p) :
    let read := s.readPart id a i p
    let got := fun (q : Part) => { q with got := some (PeerReply.data read.1) }
    let a' := { a with parts := a.parts.modify i got }
    s.progress id false = (read.2.modPart id i got).loadReturn id a' d wide signed acq := by
  intro read got a'
  have htake : s.takePart id i false = read.2.modPart id i got := by
    unfold State.takePart
    simp only [hs, h.part, State.partDue_notPeer h.due, h.due, hk]
    rfl
  have hfind : Store.find? (read.2.modPart id i got).inflight id = some a' := by
    simp only [State.modPart, Store.update, read, State.inflight_readPart, hs, Store.find?_insert_self, a']
  have hparts := h.read_parts read.1
  have hsend : (read.2.modPart id i got).sendLoadStore id a' = read.2.modPart id i got := by
    unfold State.sendLoadStore
    simp only [a', hk]
    exact State.sendParts_local _ _ _ _ _ (fun q hq => (hparts q hq).1)
  have hall : a'.parts.all (fun q => q.got.isSome) = true := List.all_eq_true.2 (fun q hq => by
    obtain ⟨-, bs, hgot⟩ := hparts q hq
    rw [hgot]
    rfl)
  have hkind : a'.kind = .load d wide n signed acq := hk
  have hcancelled : a'.cancelled = false := hc
  unfold State.progress
  simp only [hs, hr, h.chosenParts, List.foldl_cons, List.foldl_nil, htake, hfind, hsend, hall, hcancelled, hkind]
  cases d with
  | q r => exact absurd rfl (hd r)
  | v r => rfl
  | s r => rfl

/-- A part of the scratchpad is read where it stands. -/
theorem readPart_scratch {i c : Nat} {p : Part} (h : p.place = .scratch c) :
    (s.readPart id a i p).1 = s.peekN (dieOf a.core) p.place p.addr p.size ∧ (s.tags = [] → (s.readPart id a i p).2 = s) := by
  have hread : s.readPart id a i p = ((s.meet a.core a.slot a.gen a.slice a.kind.acquires p.place p.addr p.size).homeRead (dieOf a.core)
      p.place p.addr p.size (s.fresh + 8192 + 64 * i), s.meet a.core a.slot a.gen a.slice a.kind.acquires p.place p.addr p.size) := by
    unfold State.readPart
    simp only [h, Place.cached, Bool.not_false, if_true]
  rw [hread]
  refine ⟨?_, fun ht => by simp [State.meet, ht]⟩
  rw [State.homeRead, if_neg (by simp [State.isPoisoned, h])]
  exact (SameBytes.meet ..).peekN ..

/-- Settles O19: the last part's moment ends the load. -/
theorem loadReturnLands : Obligations.LoadReturnLands := by
  intro s id a d wide signed n acq i p hs hk hd hr hc hp hdue hothers read got a' ws t
  have h : LastPart s id a i p := ⟨hp, hdue, hothers⟩
  refine ⟨?_, fun c hpl => readPart_scratch hpl⟩
  have hexec : exec (.loadReturn id) s = .next (s.progress id false) := by
    show execLoadReturn id s = _
    unfold execLoadReturn
    rw [hs]
    cases a
    simp only at hk
    subst hk
    rfl
  rw [hexec, progress_load hs hk hd hr hc h, State.loadReturn_local (h.read_parts _)]
  rfl

end

end Sys2Proof.Machine
end

section
/-!
PROOFS. Waits that end (02 R43, R65, R73, 04 R123, 07 R160, 10 R208, R209, R213).
-/

namespace Sys2Proof.Machine

open Claim

/-! ### Slices that wait -/

theorem Store.mem_keys_of_find? {α : Type} {m : Store α} {k : Nat} {x : α} (h : Store.find? m k = some x) : k ∈ m.keys := by
  induction m with
  | nil => simp at h
  | cons e m ih =>
    obtain ⟨i, y⟩ := e
    by_cases hi : i = k
    · simp [Store.keys, hi]
    · rw [Store.find?, if_neg hi] at h
      exact List.mem_cons_of_mem _ (ih h)

section

variable {s : State} {w : SliceRef} {x : Wave} {k : Nat}

/-- A slice that waits for something is there. -/
theorem Wave.find?_of_wait {v : Wait} (h : (x.slice k).wait = some v) : Store.find? x.slices k = some (x.slice k) := by
  unfold Wave.slice at *
  cases hk : Store.find? x.slices k with
  | none => simp [hk] at h
  | some sl => rfl

theorem State.slice?_of_wait {c slot : Nat} {v : Wait} (hx : s.wave? c slot = some x) (h : (x.slice k).wait = some v) :
    s.slice? c slot k = some (x.slice k) := by
  rw [State.slice?, hx, Option.bind_some, Wave.find?_of_wait h]

theorem State.modSlice_of_wait {c slot : Nat} {v : Wait} (hx : s.wave? c slot = some x) (h : (x.slice k).wait = some v) (f : Slice → Slice) :
    s.modSlice c slot k f = s.setWave c slot (x.setSlice k (f (x.slice k))) := by
  simp only [State.modSlice, hx, Wave.find?_of_wait h]

/-! ### WAITC -/

/-- Slices that wait at a WAITC go on one after the other, where the counters have fallen: none changes another, nor a counter. -/
theorem foldl_waitcRelease {c slot : Nat} {ks : List Nat} (hn : ks.Nodup)
    (hw : ∀ k ∈ ks, ∃ path n, (x.slice k).wait = some (.waitc path n) ∧ x.counter path ≤ n) {t : State} {y : Wave}
    (hy : t.wave? c slot = some y) (hc : y.counters = x.counters) (hs : ∀ k ∈ ks, y.slice k = x.slice k) :
    ks.foldl (fun (s : State) k =>
      match s.wave? c slot with
      | none => s
      | some x => match (x.slice k).wait with
        | some (.waitc path n) => if x.counter path ≤ n then s.resume c slot k else s
        | _ => s) t
      = ks.foldl (fun t k => t.modSlice c slot k (fun sl => { sl.tickWindows with pc := sl.pc.next, wait := none })) t := by
  induction ks generalizing t y with
  | nil => rfl
  | cons k ks ih =>
    obtain ⟨hk, hn⟩ := List.nodup_cons.1 hn
    obtain ⟨path, n, hwait, hle⟩ := hw k (List.mem_cons_self ..)
    have hyw : (y.slice k).wait = some (.waitc path n) := by rw [hs k (List.mem_cons_self ..), hwait]
    have hyc : y.counter path ≤ n := by
      unfold Wave.counter at hle ⊢
      rw [hc]
      exact hle
    simp only [List.foldl_cons, hy, hyw, hyc, if_true]
    refine ih hn (fun j hj => hw j (List.mem_cons_of_mem _ hj))
      (y := y.setSlice k { (y.slice k).tickWindows with pc := (y.slice k).pc.next, wait := none }) ?_ hc (fun j hj => ?_)
    · rw [State.resume, State.modSlice_of_wait hy hyw, State.wave?_setWave]
    · have hjk : j ≠ k := fun e => hk (e ▸ hj)
      rw [← hs j (List.mem_cons_of_mem _ hj)]
      simp only [Wave.slice, Wave.setSlice, Store.find?_insert_ne _ _ hjk]

/-! ### REGANG and the segment meeting -/

/-- Slice k waits at a REGANG of this PC. -/
def Wave.waitsAt (x : Wave) (pc : Pc) (k : Nat) : Prop := (∃ m, (x.slice k).wait = some (.regang m)) ∧ (x.slice k).pc = pc

theorem Slice.atRegang_eq_some {sl : Slice} {pc : Pc} {m : BitVec 16} : sl.atRegang pc = some m ↔ sl.wait = some (.regang m) ∧ sl.pc = pc := by
  unfold Slice.atRegang
  split
  · next m' hm =>
    by_cases hpc : sl.pc = pc <;> simp [hpc, hm]
  · next hno =>
    simp only [reduceCtorEq, false_iff, not_and]
    exact fun h => absurd h (hno m)

theorem Wave.atRegang_isSome {pc : Pc} : ((x.slice k).atRegang pc).isSome = true ↔ x.waitsAt pc k := by
  rw [Option.isSome_iff_exists]
  simp only [Slice.atRegang_eq_some, Wave.waitsAt, exists_and_right]

theorem Wave.regang_named {pc : Pc} {m : BitVec 16} :
    (List.range 16).all (fun j => !m.getLsbD j || (x.slice j).ended || ((x.slice j).atRegang pc).isSome) = true
      ↔ ∀ j, j < 16 → m.getLsbD j = true → (x.slice j).ended = true ∨ x.waitsAt pc j := by
  simp only [List.all_eq_true, List.mem_range, Bool.or_eq_true, Bool.not_eq_true', ← Wave.atRegang_isSome]
  refine forall₂_congr (fun j _ => ?_)
  cases m.getLsbD j <;> simp

/-- The slices a REGANG releases: those that wait at its PC, and whose every named slice waits there or has exited. -/
theorem Wave.mem_regangReady {pc : Pc} : k ∈ x.regangReady pc ↔ x.waitsAt pc k ∧ ∀ m, (x.slice k).wait = some (.regang m) →
    ∀ j, j < 16 → m.getLsbD j = true → (x.slice j).ended = true ∨ x.waitsAt pc j := by
  unfold Wave.regangReady
  rw [List.mem_filter]
  constructor
  · rintro ⟨-, h⟩
    cases hr : (x.slice k).atRegang pc with
    | none => simp [hr] at h
    | some m =>
      obtain ⟨hm, hpc⟩ := Slice.atRegang_eq_some.1 hr
      rw [hr] at h
      refine ⟨⟨⟨m, hm⟩, hpc⟩, fun m' hm' => ?_⟩
      obtain rfl : m = m' := by simpa [hm] using hm'
      exact Wave.regang_named.1 h
  · rintro ⟨⟨⟨m, hm⟩, hpc⟩, hall⟩
    refine ⟨Store.mem_keys_of_find? (Wave.find?_of_wait hm), ?_⟩
    rw [Slice.atRegang_eq_some.2 ⟨hm, hpc⟩]
    exact Wave.regang_named.2 (hall m hm)

theorem exec_regangRelease (hx : s.wave? w.core w.slot = some x) (h : w.slice ∈ x.regangReady (x.slice w.slice).pc) :
    exec (.regangRelease w) s = .next (s.setWave w.core w.slot (((x.regangReady (x.slice w.slice).pc).foldl (fun (y : Wave) k =>
      y.setSlice k { y.slice k with wait := none, pc := (x.slice w.slice).pc.next }) x).formGang (x.regangReady (x.slice w.slice).pc)
        (((x.gangOf? w.slice).map (·.age)).getD 0))) := by
  refine congrArg Host.Outcome.next ?_
  unfold State.releaseRegang
  simp only [hx]
  rw [if_pos (List.contains_iff_mem.2 h)]

theorem Wave.foldl_setSlice_gangOf? (f : Wave → Nat → Slice) (ks : List Nat) (x : Wave) (k : Nat) :
    (ks.foldl (fun (x : Wave) k => x.setSlice k (f x k)) x).gangOf? k = x.gangOf? k := by
  induction ks generalizing x with
  | nil => rfl
  | cons j ks ih => exact ih (x.setSlice j (f x j))

theorem exec_segmentMeetingRelease (hx : s.wave? w.core w.slot = some x) {n : Nat} (hw : (x.slice w.slice).wait = some (.meeting n))
    (h : ∀ k ∈ x.meets (4 * n) w.slice, (x.slice k).wait = some (.meeting n) ∧ (x.slice k).pc = (x.slice w.slice).pc) :
    exec (.segmentMeetingRelease w) s = .next (s.setWave w.core w.slot (((x.meets (4 * n) w.slice).foldl (fun (x : Wave) k =>
      x.setSlice k { x.slice k with wait := none }) x).formGang (x.meets (4 * n) w.slice) (((x.gangOf? w.slice).map (·.age)).getD 0))) := by
  show execSegmentMeetingRelease w s = _
  unfold execSegmentMeetingRelease
  simp only [hx, hw]
  rw [if_pos (List.all_eq_true.2 (fun k hk => by simpa [Bool.and_eq_true] using h k hk)),
    Wave.foldl_setSlice_gangOf? (fun x k => { x.slice k with wait := none })]

/-! ### Fences and full/empty states -/

theorem exec_fenceDrainComplete (hx : s.wave? w.core w.slot = some x) {need : FenceNeed} (hw : (x.slice w.slice).wait = some (.fence need))
    (hd : s.drained w.core w.slot w.slice need = true) :
    exec (.fenceDrainComplete w) s = .next (s.modSlice w.core w.slot w.slice (fun sl => { sl with wait := none })) := by
  show execFenceDrainComplete w s = _
  unfold execFenceDrainComplete
  rw [State.slice?_of_wait hx hw]
  cases hsl : x.slice w.slice
  rw [hsl] at hw
  simp only at hw
  subst hw
  simp only [hd, if_true]

theorem exec_fullEmptyProceed (hx : s.wave? w.core w.slot = some x) (hw : (x.slice w.slice).wait = some .fullEmpty) :
    exec (.fullEmptyProceed w) s = .next (s.modSlice w.core w.slot w.slice (fun sl => { sl with wait := none })) := by
  refine congrArg Host.Outcome.next ?_
  rw [State.modSlice_of_wait hx hw, State.modSlice_of_wait hx hw, if_pos hw]

/-! ### BWAIT and WAITCMP in a gang of one slice -/

/-- A BWAIT whose barrier has changed phase or faulted ends. -/
theorem exec_bwaitRelease (hx : s.wave? w.core w.slot = some x) (hm : s.mates w = [w.slice]) {addr : W64} {phase : BitVec 16} {d : SReg}
    {scope : Sys2Proof.Scope} {c a : Nat} (hw : (x.slice w.slice).wait = some (.bwait addr phase d scope))
    (hat : s.scratch x.team (w.core / 32) addr.toNat 16 = .ok (.scratch c, a))
    (hover : (s.readBarrier c a).phase ≠ phase.toNat ∨ (s.readBarrier c a).fault = true)
    (hown : s.ownWriteAhead w { lane := 0, place := .scratch c, addr := a, size := 16 } = false) :
    exec (.bwaitRelease w) s = .next ((((s.meet w.core w.slot (s.gen w.core w.slot) w.slice (some scope) (.scratch c) a 16).acquire
      w.core w.slot scope).modSlice w.core w.slot w.slice (fun sl =>
        sl.write (writeFresh s.fresh w.slice) (.s d.toNat) (BitVec.ofNat 32 (ofLeBytes (s.peekN 0 (.scratch c) (a + 8) 4))))).modSlice
          w.core w.slot w.slice (fun sl => { sl.tickWindows with pc := sl.pc.next, wait := none })) := by
  refine congrArg Host.Outcome.next ?_
  rw [hm, List.foldl_cons, List.foldl_nil]
  unfold State.pollBarrier
  simp only [hx, hw, hat]
  rw [if_pos (by simpa [hown] using hover)]
  rfl

/-- A monitor whose read leaves it done ends, with those that end with it. -/
theorem pollMonitor_done (hx : s.wave? w.core w.slot = some x) {m m' : Monitor} {t : State} (hw : (x.slice w.slice).wait = some (.monitor m))
    (hr : s.readMonitor w x m = .ok (m', t)) (late : Bool) :
    let n := { m' with late := m'.late || late }
    let u := t.modSlice w.core w.slot w.slice (fun sl => { sl with wait := some (.monitor n) })
    ∀ {y : Wave}, u.wave? w.core w.slot = some y →
    (∀ p ∈ y.monitorGroup w.slice n, u.monitorDone { w with slice := p.1 } p.2 p.2.late = true) →
    s.pollMonitor w late = u.endMonitors w (y.monitorGroup w.slice n) := by
  intro n u y hy hdone
  simp only [u, n] at hy hdone ⊢
  unfold State.pollMonitor
  simp only [hx, Wave.monitorOf, hw, hr, hy]
  rw [if_pos (List.all_eq_true.2 hdone)]

theorem monitorDone_of {u : State} {m : Monitor} (h : ∀ l ∈ m.lanes, ∃ g, Store.find? m.got l.1 = some g ∧ (g.1 = true ∨ m.late = true))
    (hs : ((u.core w.core).shareAll w.slot m.uses).isSome) : u.monitorDone w m m.late = true := by
  unfold State.monitorDone
  rw [hs, Bool.and_true, List.all_eq_true]
  intro l hl
  obtain ⟨g, hg, hdone⟩ := h l hl
  rw [hg]
  simpa using hdone

/-- A monitor's read, and its timeout once that is due, poll it. -/
theorem exec_waitcmpMonitorRead (hm : s.mates w = [w.slice]) : exec (.waitcmpMonitorRead w) s = .next (s.pollMonitor w false) := by
  refine congrArg Host.Outcome.next ?_
  rw [hm]
  rfl

theorem exec_waitcmpTimeout (hx : s.wave? w.core w.slot = some x) (hm : s.mates w = [w.slice]) {m : Monitor}
    (hw : (x.slice w.slice).wait = some (.monitor m)) (h0 : m.timeout ≠ 0)
    (hdue : m.start + m.timeout.toNat ≤ s.cltime (w.core / 32)) : exec (.waitcmpTimeout w) s = .next (s.pollMonitor w true) := by
  refine congrArg Host.Outcome.next ?_
  rw [hm, List.foldl_cons, List.foldl_nil, State.slice?_of_wait hx hw]
  cases hsl : x.slice w.slice
  rw [hsl] at hw
  simp only at hw
  subst hw
  simp only [h0, hdue, ne_eq, not_false_eq_true, decide_true, Bool.and_true, if_true]

/-- Settles O23, wait by wait; the monitors of one instruction that pops or pushes end together (log 76). -/
theorem waitsEnd : Obligations.WaitsEnd := by
  refine ⟨fun s w x hx => ⟨fun hn hw => ?_, fun need => exec_fenceDrainComplete hx, fun m hw => ?_, fun n hw => exec_segmentMeetingRelease hx hw,
    exec_fullEmptyProceed hx⟩, fun s w x hx hm => ⟨fun addr phase d scope c a => exec_bwaitRelease hx hm, ?_⟩⟩
  · exact congrArg Host.Outcome.next (foldl_waitcRelease hn hw hx rfl (fun _ _ => rfl))
  · intro there all hall
    refine ⟨x.regangReady (x.slice w.slice).pc, fun k => Wave.mem_regangReady, exec_regangRelease hx (Wave.mem_regangReady.2 ?_)⟩
    refine ⟨⟨⟨m, hw⟩, rfl⟩, fun m' hm' => ?_⟩
    obtain rfl : m = m' := by simpa [hw] using hm'
    exact hall
  · intro m m' t y hw hr late hlate n u hy hdone
    have hpoll : s.pollMonitor w late = u.endMonitors w (y.monitorGroup w.slice n) := pollMonitor_done hx hw hr late hy (fun p hp => by
      obtain ⟨hlanes, hshare⟩ := hdone p hp
      exact monitorDone_of hlanes hshare)
    rw [← hpoll]
    cases late with
    | false => exact exec_waitcmpMonitorRead hm
    | true =>
      obtain ⟨h0, hdue⟩ := hlate rfl
      exact exec_waitcmpTimeout hx hm hw h0 hdue

end

end Sys2Proof.Machine
end

section
/-!
PROOFS. Floating point, conversions and special functions (04 R106 to R118): each is one lane operation of the driver.  Cross-lane
instructions (04 R123 to R128): one lane operation whose lanes read the whole wave.
-/

namespace Sys2Proof.Machine

open Claim

section

variable {s : State} {x : Wave} {i : Instr}

/-! ### Floating point (04 R106 to R118) -/

theorem runs_float1 (hr : Ready s x) {o : Alu1} (h : ok1 x o o.ty.wide) {f : FloatFn} {raises : FFlags}
    (hi : exec i s = issueFloat1 f o s raises) : Runs s x i [alu1 x o o.ty.wide (fun a => floatVal f o.ty a 0 0)] :=
  have h' := runs_alu1 hr h (Bool.and_true _) hi
  h'

theorem runs_float2 (hr : Ready s x) {o : Alu2} (h : ok2 x o o.ty.wide) {f : Rnd → Bool → FloatFn}
    (hi : exec i s = issueFloat2 f o s) : Runs s x i [alu2 x o o.ty.wide (fun a b => floatVal (f o.rnd o.sat) o.ty a b 0)] :=
  have h' := runs_alu2 hr h (Bool.and_true _) hi
  h'

theorem runs_floatImm (hr : Ready s x) {o : AluI} (h : okI x o) {f : FloatFn} (hi : exec i s = issueFloatImm f o s) :
    Runs s x i [aluI x o (fun a => floatVal f .f32 a o.float 0)] :=
  runs_of_issueLane hr hi h rfl rfl rfl (fun _ _ => rfl)

theorem runs_special (hr : Ready s x) {o : Alu1} (h : ok1 x o o.ty.wide) {fn : SpecFn} (hi : exec i s = issueSpecial fn o s) :
    Runs s x i [alu1 x o o.ty.wide (fun a => floatVal (fun f a _ _ => f.special fn o.rnd a) o.ty a 0 0)] :=
  runs_float1 hr h hi

/-! ### Cross-lane instructions (04 R123 to R128) -/

/-- An instruction that issues one cross-lane operation completes; out says what lane l of slice k answers. -/
theorem runs_of_issueCross (hr : Ready s x) {w : Nat} {sh : Shape} {f : Ctx → LaneIn → LaneOut} {g : Option Guard}
    {d : Option (Reg × Bool)} {out : Nat → Nat → LaneOut} (hi : exec i s = issueCross w sh f s) (h : x.Fields sh.fields)
    (hm : Together s x w) (ho : sh.only = none) (hg : sh.g = g) (hd : sh.d = d)
    (hout : ∀ k l, f (s.laneCtx x k) (x.laneRead sh k l) = out k l) : Runs s x i [x.part g d out] := by
  subst hg hd
  rw [← funext fun k => funext (hout k)]
  exact ⟨_, hi, issueCross_ran hr ho h hm⟩

/-- A shuffle takes the lane of the segment that src names from the lane's place, b modulo 64 and the segment's width. -/
theorem runs_shuffle (hr : Ready s x) (hq : ∀ k, (x.slice k).Quiet) {o : ShflOp} {src : ShuffleFn}
    (h : x.Fields [(.v o.d, o.ty.wide), (.v o.a, o.ty.wide), (o.b.reg, false)]) (hm : Together s x (4 * 2 ^ o.seg.toNat))
    (hi : exec i s = issueShuffle src o s) :
    Runs s x i [x.part o.g (some (.v o.d, o.ty.wide)) (fun k l =>
      let w := min (4 * 2 ^ o.seg.toNat) x.width
      let lane := 4 * k + l
      val (x.vlane o.a o.ty.wide (lane / w * w + src w (lane % w) ((x.src k o.b false l).toNat % 64))))] := by
  refine runs_of_issueCross hr hi h hm rfl rfl rfl (fun k l => ?_)
  simp only [laneVal_quiet hr hq, ← Nat.mod_eq_sub_div_mul]
  rfl

/-- The tree of a segment, over the registers of a wave whose slices are quiet. -/
theorem tree_quiet (hr : Ready s x) (hq : ∀ k, (x.slice k).Quiet) (k : Nat) (op : TreeOp) (t : Sys2Proof.Ty) (a : BitVec 7)
    (w base : Nat) (taken : Nat → Bool) :
    (s.laneCtx x k).tree op t a.toNat w base taken = treeFold op t (Nat.log2 w) ((List.range w).map (fun p =>
      if taken p then x.vlane a t.wide (base + p) else treeIdentity op t)) := by
  simp only [Ctx.tree, laneVal_quiet hr hq]

end

/-- Settles O4, form by form. -/
theorem floatCompletes : Obligations.FloatCompletes := by
  intro s x hr
  refine ⟨fun o h => ?_, fun o h => ?_, fun o h => ?_, fun o h => ⟨runs_float1 hr h rfl, runs_float1 hr h rfl⟩, fun o h => ?_,
    fun o h => ?fscale, fun o h => ?fexp, fun o h => ?_⟩
  · exact ⟨runs_float2 hr h (f := fAdd) rfl, runs_float2 hr h (f := fSub) rfl, runs_float2 hr h (f := fMul) rfl,
      runs_float2 hr h (f := fun _ _ => fMin) rfl, runs_float2 hr h (f := fun _ _ => fMax) rfl,
      runs_float2 hr h (f := fun _ _ => fCopySign) rfl⟩
  · and_intros <;> exact runs_floatImm hr h rfl
  · and_intros <;> exact runs_of_issueLane hr rfl h rfl rfl rfl (fun _ _ => rfl)
  case fscale =>
    -- the exponent that FSCALE adds is a 32-bit source
    have h' := runs_alu2 hr h (Bool.and_false _) (i := .fscale o) rfl
    exact h'
  case fexp =>
    -- the exponent that FEXP gives is 32 bits wide
    have h' := runs_alu1 hr h (Bool.and_false _) (i := .fexp o) rfl
    exact h'
  -- FRND and CVT have shapes of their own
  all_goals exact runs_of_issueLane hr rfl h rfl rfl rfl (fun _ _ => rfl)

/-- Settles O5: each is a floating-point function of one source. -/
theorem specialFunctionCompletes : Obligations.SpecialFunctionCompletes := by
  intro s x hr o h part
  and_intros <;> exact runs_special hr h rfl

/-- Settles O6, instruction by instruction: every lane reads the wave's registers as they stood before the issue. -/
theorem crossLaneCompletes : Obligations.CrossLaneCompletes := by
  intro s x hr hq
  refine ⟨fun o h hm => ?_, fun o hm => ?_, fun o hm => ?_, fun o h hm => ?_, fun o h hm => ⟨?redl, ?scanl⟩⟩
  · exact ⟨runs_shuffle hr hq (src := shflSource) h hm rfl, runs_shuffle hr hq (src := shflxSource) h hm rfl,
      runs_shuffle hr hq (src := shflupSource) h hm rfl, runs_shuffle hr hq (src := shfldnSource) h hm rfl⟩
  · exact runs_of_issueCross hr rfl (fun _ h => absurd h List.not_mem_nil) hm rfl rfl rfl (fun _ _ => rfl)
  · have hpair : x.Fields [(pairReg o.d, true)] := List.forall_mem_singleton.2 ⟨rfl, fun _ h => absurd h List.not_mem_nil⟩
    exact runs_of_issueCross hr rfl hpair hm rfl rfl rfl (fun _ _ => rfl)
  · -- RDLANE has a second source only where b names the lane
    obtain ⟨g, d, a, aLast, b, ty⟩ := o
    cases b <;> exact runs_of_issueCross hr rfl h hm rfl rfl rfl (fun k l => congrArg val (laneVal_quiet hr hq k a ty.wide _))
  case redl => exact runs_of_issueCross hr rfl h hm rfl rfl rfl (fun k l => tree_quiet hr hq k _ _ _ _ _ _)
  case scanl =>
    refine runs_of_issueCross hr rfl h hm rfl rfl rfl (fun k l => ?_)
    simp only [tree_quiet hr hq]
    rfl

end Sys2Proof.Machine
end

section
/-!
PROOFS. Mailbox actions (05 R132, 08 R171, R172, 09 R181, R184): a write to mbact drops the head record and applies its action to the
slice that the record names.
-/

namespace Sys2Proof.Machine

open Claim

section

variable {s t : State} {c a : Nat} {r : MailRecord} {rest : List MailRecord} {x : Wave}

/-! ### The head record -/

@[simp] theorem State.recordSlice_dropHead (s : State) (c : Nat) (r : MailRecord) : (s.dropHead c).recordSlice c r = s.recordSlice c r := by
  simp only [State.recordSlice, State.wave?, State.gen, State.dropHead, State.core_setCore]
  rfl

/-- Only a skip waits, for the earlier writes and MMAs of the slice. -/
theorem State.actReady_of_ne_skip (s : State) (c : Nat) (ha : a ≠ 1) : s.actReady c a = true := by
  unfold State.actReady
  split
  · rfl
  · simp [ha]

/-- The skip of a service call ends its slice and passes no edge. -/
theorem State.actReady_of_service (hm : (s.core c).mailbox = r :: rest) (hk : r.kind = 2) (a : Nat) : s.actReady c a = true := by
  simp [State.actReady, hm, hk]

theorem State.actReady_of_landed (hm : (s.core c).mailbox = r :: rest) (hx : s.recordSlice c r = .resident x)
    (hout : (x.slice r.slice).out = []) (hcom : (s.core c).uncommitted (waveIdSlot r.wave) r.slice = false) (a : Nat) :
    s.actReady c a = true := by
  simp [State.actReady, hm, hx, hout, hcom]

theorem State.mbact_empty (hm : (s.core c).mailbox = []) (a : Nat) : s.mbact c a = s := by
  simp [State.mbact, State.actReady, hm]

theorem State.mbact_eq_act (hm : (s.core c).mailbox = r :: rest) (hk : r.kind ≠ 5 ∧ r.kind ≠ 6) (ha : s.actReady c a = true) :
    s.mbact c a = (s.dropHead c).act c r a := by
  simp [State.mbact, hm, ha, hk]

/-- A record of a doorbell or of a host queue is served, whatever the action. -/
theorem State.mbact_eq_dismiss (hm : (s.core c).mailbox = r :: rest) (hk : r.kind = 5 ∨ r.kind = 6) (a : Nat) :
    s.mbact c a = (s.dropHead c).dismiss r := by
  have hready : s.actReady c a = true := by
    rcases hk with hk | hk <;> simp [State.actReady, hm, hk]
  simp [State.mbact, hm, hready, hk]

/-! ### The actions on a resident slice -/

/-- The action a on a record of this kind ends its slice: end slice, the actions that the kind does not take, and those that mean
nothing for it (05 R132, 09 R184). -/
def endsSlice (kind : Nat) : Nat → Prop
  | 0 | 1 => kind = 2
  | 3 => kind ≠ 1
  | 4 => kind ≠ 2
  | 5 => False
  | _ => True

theorem State.act_of_endsSlice (t : State) (c : Nat) (h : endsSlice r.kind a) : t.act c r a = t.endRecorded c r false := by
  unfold endsSlice at h
  unfold State.act
  -- one case for each row of endsSlice: its condition on the kind selects the same branch of act
  split at h <;> simp_all

theorem State.act_retry (hx : t.recordSlice c r = .resident x) (hk : r.kind ≠ 2) : t.act c r 0 =
    if (x.slice r.slice).wait = some .action then
      let u := t.modSlice c (waveIdSlot r.wave) r.slice (fun sl => { sl with wait := none })
      if r.kind = 4 ∧ (x.slice r.slice).pc ≠ r.pc then
        u.closeRegion c (waveIdSlot r.wave) r.slice (x.slice r.slice).lastLive r.pc
      else u
    else t := by
  simp [State.act, hx, hk]

theorem State.act_skip (hx : t.recordSlice c r = .resident x) (hk : r.kind ≠ 2) (hw : (x.slice r.slice).wait = some .action) :
    t.act c r 1 = t.skip c (waveIdSlot r.wave) r.slice x := by
  simp [State.act, hx, hk, hw]

/-- The trap that the forwarding of a record delivers: its lanes of the slice, and those it names of other slices. -/
def MailRecord.trap (r : MailRecord) : Trap :=
  { code := r.code, lanes := r.mask, addr := r.addr, aux := r.aux, others := r.lanes &&& ~~~(waveLanes r.slice 15) }

theorem State.act_forward_handled (hx : t.recordSlice c r = .resident x) (hk : r.kind = 1)
    (hp : ((t.process? x.process).bind (·.handler?)).isSome = true) : t.act c r 3 = t.deliverDue c (waveIdSlot r.wave) r.slice r.trap := by
  obtain ⟨pc, hpc⟩ := Option.isSome_iff_exists.1 hp
  simp [State.act, hx, hk, hpc, MailRecord.trap]

theorem State.act_forward_unhandled (hx : t.recordSlice c r = .resident x) (hk : r.kind = 1)
    (hp : (t.process? x.process).bind (·.handler?) = none) : t.act c r 3 = t.endRecorded c r false := by
  simp [State.act, hx, hk, hp]

theorem State.act_reply (t : State) (c : Nat) (hk : r.kind = 2) : t.act c r 4 = t.reply c r := by
  simp [State.act, hk]

theorem State.act_endWave (t : State) (c : Nat) (r : MailRecord) : t.act c r 5 = t.endRecorded c r true := rfl

/-- A delivery whose handler's segment has come takes place where nothing of the slice is outstanding. -/
theorem State.deliverDue_landed {w k : Nat} {sl : Slice} {p : Process} {h : Pc} (hx : t.wave? c w = some x)
    (hsl : t.slice? c w k = some sl) (hp : t.process? x.process = some p) (hh : p.handler? = some h) (hlast : h.seg.toNat ≤ x.lastSeg)
    (hseg : (t.core c).hasSegment x.image h.seg = true) (hout : sl.out = []) (hcom : (t.core c).uncommitted w k = false)
    (hdef : sl.deferred = []) (f : Trap) : t.deliverDue c w k f = t.deliver c w k h f := by
  simp [State.deliverDue, hx, hsl, hp, hh, Nat.not_lt.2 hlast, hseg, hout, hcom, hdef]

theorem State.reply_resident {base : Nat} (hx : t.recordSlice c r = .resident x) (hw : (x.slice r.slice).wait = some (.reply base)) :
    t.reply c r = (t.modSlice c (waveIdSlot r.wave) r.slice (fun sl =>
      { sl.putWords (writeFresh t.fresh r.slice) base (t.core c).replyWords with wait := none, pc := sl.pc.next })).closeRegion c
        (waveIdSlot r.wave) r.slice ((x.slice r.slice).lastLive ||| liveOf ((List.range 8).map (fun i => .s (base + i))))
        (x.slice r.slice).pc := by
  unfold State.reply
  simp only [hx, hw]

end

end Sys2Proof.Machine

namespace Sys2Proof.Claim

open Machine

section

variable {s : State} {c a : Nat} {r : MailRecord} {x : Wave}

/-! ### A write to mbact whose record heads the mailbox -/

theorem Heads.mbact_of_ready (h : Heads s c r x) (ha : s.actReady c a = true) : s.mbact c a = (s.dropHead c).act c r a := by
  obtain ⟨_, hm⟩ := h.mail
  exact State.mbact_eq_act hm h.kind ha

theorem Heads.mbact_of_ne_skip (h : Heads s c r x) (ha : a ≠ 1) : s.mbact c a = (s.dropHead c).act c r a :=
  h.mbact_of_ready (s.actReady_of_ne_skip c ha)

theorem Heads.endRecorded (h : Heads s c r x) (all : Bool) :
    (s.dropHead c).endRecorded c r all = ended s c r x (if all then x.slices.keys else [r.slice]) := by
  unfold State.endRecorded
  simp only [h.slice]
  rfl

theorem Heads.mbact_of_endsSlice (h : Heads s c r x) (ha : endsSlice r.kind a) : s.mbact c a = ended s c r x [r.slice] := by
  have hready : s.actReady c a = true := by
    by_cases hskip : a = 1
    · subst hskip
      obtain ⟨_, hm⟩ := h.mail
      exact State.actReady_of_service hm ha 1
    · exact s.actReady_of_ne_skip c hskip
  rw [h.mbact_of_ready hready, State.act_of_endsSlice _ _ ha, h.endRecorded]
  rfl

theorem Heads.mbact_skip (h : Heads s c r x) (hk : r.kind ≠ 2) (hw : (x.slice r.slice).wait = some .action)
    (hout : (x.slice r.slice).out = []) (hcom : (s.core c).uncommitted (waveIdSlot r.wave) r.slice = false) :
    s.mbact c 1 = (s.dropHead c).skip c (waveIdSlot r.wave) r.slice x := by
  obtain ⟨_, hm⟩ := h.mail
  rw [h.mbact_of_ready (State.actReady_of_landed hm (s.recordSlice_dropHead c r ▸ h.slice) hout hcom 1), State.act_skip h.slice hk hw]

theorem Heads.mbact_forward_handled (h : Heads s c r x) (hk : r.kind = 1)
    (hp : (((s.dropHead c).process? x.process).bind (·.handler?)).isSome = true) :
    s.mbact c 3 = (s.dropHead c).deliverDue c (waveIdSlot r.wave) r.slice r.trap := by
  rw [h.mbact_of_ne_skip (by decide), State.act_forward_handled h.slice hk hp]

theorem Heads.mbact_forward_unhandled (h : Heads s c r x) (hk : r.kind = 1)
    (hp : ((s.dropHead c).process? x.process).bind (·.handler?) = none) : s.mbact c 3 = ended s c r x [r.slice] := by
  rw [h.mbact_of_ne_skip (by decide), State.act_forward_unhandled h.slice hk hp, h.endRecorded]
  rfl

theorem Heads.mbact_reply (h : Heads s c r x) (hk : r.kind = 2) : s.mbact c 4 = (s.dropHead c).reply c r := by
  rw [h.mbact_of_ne_skip (by decide), State.act_reply _ _ hk]

theorem Heads.mbact_endWave (h : Heads s c r x) : s.mbact c 5 = ended s c r x x.slices.keys := by
  rw [h.mbact_of_ne_skip (by decide), State.act_endWave, h.endRecorded]
  rfl

end

end Sys2Proof.Claim

namespace Sys2Proof.Machine

open Claim

/-- Settles O44, action by action; that a deferred error comes first at a skip is the model's reading (log 82). -/
theorem mailboxActionsComplete : Obligations.MailboxActionsComplete := by
  refine ⟨fun s c r x h => ?heads, fun s c r rest hm => ⟨fun hk => ?doorbell, fun hk => ?queue⟩, fun s c hm i hi => ?empty,
    fun s c r rest hheld hroom => ?append⟩
  case heads =>
    intro w t sl u
    have hend : ∀ a, endsSlice r.kind a → Host.Outcome.next (s.mbact c a) = (.next (ended s c r x [r.slice]) : Done) :=
      fun a ha => congrArg Host.Outcome.next (h.mbact_of_endsSlice ha)
    refine ⟨fun hk => congrArg Host.Outcome.next ?retry, fun hk hw hout hcom => ?skip, hend 2 trivial, ?forward, ?noHandler, ?reply,
      congrArg Host.Outcome.next h.mbact_endWave, hend 6 trivial, hend 7 trivial, fun hk => ⟨hend 0 hk, hend 1 hk⟩, hend 3, hend 4⟩
    case retry => rw [h.mbact_of_ne_skip (by decide), State.act_retry h.slice hk]
    case skip =>
      have hskip : exec (.mbactSkip c) s = .next (t.skip c w r.slice x) := congrArg Host.Outcome.next (h.mbact_skip hk hw hout hcom)
      rw [hskip]
      exact ⟨fun hdef => congrArg Host.Outcome.next (if_pos (List.isEmpty_iff.2 hdef)),
        fun hdef => congrArg Host.Outcome.next (if_neg (mt List.isEmpty_iff.1 hdef))⟩
    case forward =>
      intro p pc hk hp hh hx hsl hlast hseg hout hcom hdef
      have hdeliver : s.mbact c 3 = t.deliver c w r.slice pc r.trap := by
        rw [h.mbact_forward_handled hk (Option.isSome_of_eq_some ((congrArg (·.bind (·.handler?)) hp).trans hh))]
        exact State.deliverDue_landed hx hsl hp hh hlast hseg hout hcom hdef _
      exact congrArg Host.Outcome.next hdeliver
    case noHandler =>
      intro p hk hp hh
      exact congrArg Host.Outcome.next (h.mbact_forward_unhandled hk ((congrArg (·.bind (·.handler?)) hp).trans hh))
    case reply =>
      intro base hk hw
      exact congrArg Host.Outcome.next ((h.mbact_reply hk).trans (State.reply_resident h.slice hw))
  case doorbell =>
    refine congrArg Host.Outcome.next ((State.mbact_eq_dismiss hm (.inl hk) 6).trans ?_)
    simp [State.dismiss, hk]
  case queue =>
    refine congrArg Host.Outcome.next ((State.mbact_eq_dismiss hm (.inr hk) 6).trans ?_)
    simp [State.dismiss, hk]
  case empty =>
    simp only [List.mem_cons, List.not_mem_nil, or_false] at hi
    rcases hi with rfl | rfl | rfl | rfl | rfl | rfl | rfl | rfl <;> exact congrArg Host.Outcome.next (State.mbact_empty hm _)
  case append =>
    refine congrArg Host.Outcome.next ?_
    have hfree : (s.core c).mailbox.length < mailboxSize := hroom
    simp [State.appendHeld, hheld, hfree]

end Sys2Proof.Machine
end

section
/-!
PROOFS. Launches and placement (06 R146, R147, R151, 25 R417 to R419, R423): the run-queue controllers hand over and accept records,
place teams, keep cores for those that have waited long, and report what has ended.
-/

namespace Sys2Proof.Machine

section

variable {s : State} {cluster : Nat}

/-- A cluster takes in the record it was handed, once its bytes are known: as its checks leave it, or with status 3 (25 R417). -/
theorem execLaunchRecordAccept_of_bytes {q : Submit} {b : List Byte}
    (hq : s.handed.find? (fun h => h.1 = cluster) = some (cluster, q))
    (hb : q.bytes = some b ∨ (q.bytes = none ∧ s.readVirtual (s.processAsker q.process cluster) q.recAddr.toNat 128 = .ok b)) :
    execLaunchRecordAccept cluster s = .next (State.queueTeams { s with
      handed := s.handed.erase (cluster, q)
      launches := Store.insert s.launches s.serial ((s.checkLaunch (LaunchRecord.ofBytes b) q cluster s.serial).getD
        { (LaunchRecord.ofBytes b).launch q s.serial with status := 3 })
      serial := s.serial + 1 }) := by
  unfold execLaunchRecordAccept
  rcases hb with hinline | ⟨hnone, hread⟩
  · simp only [hq, hinline, Option.bind_some, Option.getD_some]
    cases s.checkLaunch (LaunchRecord.ofBytes b) q cluster s.serial <;> rfl
  · simp only [hq, hnone, hread, Option.bind_some, Option.getD_some]
    cases s.checkLaunch (LaunchRecord.ofBytes b) q cluster s.serial <;> rfl

/-- A team whose entry segments all stand has nothing to fetch on any of its cores. -/
theorem State.any_entriesDue_eq_false {l : Launch} {core : Nat} (h : ∀ c ∈ l.coresAt core, s.entriesDue l c.1 c.2 = []) :
    (l.coresAt core).any (fun c => !(s.entriesDue l c.1 c.2).isEmpty) = false :=
  List.any_eq_false.2 (fun c hc => by simp [h c hc])

end

/-- Settles O42, event by event; the order of teams is the model's reading (log 53), and that a reported launch stays is its choice
(log 81). -/
theorem launchesAndPlacementComplete : Obligations.LaunchesAndPlacementComplete := by
  refine ⟨fun s cluster q hbest => ?handoff, fun s cluster q b hq hb => ?accept,
    fun s cluster core slots e l hnext hl hcore hplace hslots hstand => ?place, fun s cluster => ?age,
    fun s launch l hl hstatus hreported => ?report⟩
  case handoff =>
    change execLaunchQueueHandoff cluster s = _
    simp only [execLaunchQueueHandoff, hbest]
  case accept =>
    have haccept := execLaunchRecordAccept_of_bytes hq hb
    exact ⟨fun l hcheck => haccept.trans (by rw [hcheck]; rfl), fun hcheck => haccept.trans (by rw [hcheck]; rfl)⟩
  case place =>
    have hfree : (core / 32 = cluster && s.placeable ((s.teamOrder cluster).takeWhile (fun f => f ≠ e)) e core
        && s.slotsOk l core slots) = true := by
      rw [hplace, hslots, decide_eq_true hcore, Bool.and_self, Bool.and_self]
    change execTeamPlacement cluster core slots s = _
    unfold execTeamPlacement
    simp only [hnext, hl]
    exact (if_pos hfree).trans (if_neg (Bool.eq_false_iff.1 (State.any_entriesDue_eq_false hstand)))
  case age =>
    refine congrArg (fun runq => Host.Outcome.next (s.setCluster cluster { s.cluster cluster with runq })) (List.map_congr_left ?_)
    rintro ⟨cls, entry⟩ -
    cases entry with
    | parked => rfl
    | team _ _ since => by_cases hlong : 100000 ≤ s.cltime cluster - since <;> simp [hlong]
  case report =>
    change execLaunchCompletionReport launch s = _
    simp [execLaunchCompletionReport, hl, hstatus, hreported]

end Sys2Proof.Machine
end

section
/-!
PROOFS. The movements and the end of waves (06 R150, 07 R157, R158, 09 R190 to R196): retirement, the drop, compaction with its
limit on a hold, and the restart of a parked wave.
-/

namespace Sys2Proof.Machine

section

variable {s : State} {core slot : Nat}

/-! ### Retirement (06 R150) -/

/-- The row of a load queue that its engine still fetches for a wave (07 R162). -/
def State.fetchesRow (s : State) (core slot : Nat) (a : Access) : Bool :=
  (a.core = core && a.slot = slot && a.gen = s.gen core slot) && a.kind.isRead && a.path.isNone && queueAgent 0 ≤ a.slice

theorem State.fetchesRow_iff (s : State) (core slot : Nat) (a : Access) : s.fetchesRow core slot a = true ↔
    a.core = core ∧ a.slot = slot ∧ a.gen = s.gen core slot ∧ a.kind.isRead = true ∧ a.path = none ∧ 16 ≤ a.slice := by
  simp [State.fetchesRow, queueAgent, and_assoc]

/-- What a retirement leaves, the wave's shared ranges ended and its samples written: these accesses are on their way, slot and block
are free, the team has lost the wave, and with its last one its rings close. -/
def State.retired (v : State) (core slot : Nat) (x : Wave) (inflight : Store Access) : State :=
  let u := ((({ v with inflight } : State).setCore core { v.core core with
    waves := Store.erase (v.core core).waves slot
    gens := Store.set (v.core core).gens 0 slot (Store.get (v.core core).gens 0 slot + 1), compacting := none
    passes := (v.core core).passes.filter (fun p => p.slot ≠ slot) }).removeWave x).leaveTeam x.team (waveId core slot) x
  ((u.teamRings x.team).foldl (fun (t : State) i => if t.teamOver x.team then t.closeTeamRing i else t) u).queueTeams

theorem execWaveRetire_of_canRetire {x : Wave} (hx : s.wave? core slot = some x) (hretire : s.canRetire core slot = true) :
    execWaveRetire core slot s =
      let v := (((s.core core).shared.filter (fun h => h.slotA = slot || h.slotB = slot)).foldl
        (fun (t : State) h => t.unmapShared core h) s).flushSamples core slot x
      .next (v.retired core slot x (v.inflight.map (fun a =>
        if v.fetchesRow core slot a.2 then (a.1, { a.2 with cancelled := true }) else a))) := by
  unfold execWaveRetire
  rw [hx]
  exact if_neg (by simp [hretire])

/-! ### Compaction (07 R157, R158) -/

/-- The engine finds its candidate block on a core. -/
theorem State.compaction_found {b a : Nat} (hsize : s.compactSize core = some b) (hcand : (s.core core).candidate b = some a) :
    (s.compactSize core).bind (fun b => ((s.core core).candidate b).map (fun a => (a, b))) = some (a, b) := by
  simp [hsize, hcand]

/-- No other wave of the core is held, in the two forms in which the engine asks. -/
theorem Core.none_held {k : Core} (h : ∀ w ∈ k.waves, w.1 ≠ slot → w.2.hold = none) :
    k.waves.all (fun w => w.1 = slot || w.2.hold.isNone) = true ∧ k.waves.any (fun w => w.1 ≠ slot && w.2.hold.isSome) = false := by
  refine ⟨List.all_eq_true.2 (fun w hw => ?_), List.any_eq_false.2 (fun w hw => ?_)⟩ <;>
    by_cases hslot : w.1 = slot <;> simp [hslot, h w hw]

/-- A hold that has lasted 2048 cycles is let go unmoved, and the search goes on beyond its block. -/
theorem execCompactionHoldTimeout_of_busy {x : Wave} {h b a : Nat} (hx : s.wave? core slot = some x) (hhold : x.hold = some h)
    (hlong : 2048 ≤ s.cycles - h) (hquiet : x.quiet = false)
    (hsize : (s.setWave core slot { x with hold := none }).compactSize core = some b) (hcand : (s.core core).candidate b = some a) :
    execCompactionHoldTimeout core slot s =
      let t := s.setWave core slot { x with hold := none }
      .next (t.setCore core { t.core core with compacting := some a }) := by
  simp only [execCompactionHoldTimeout, hx, hhold, hlong, hquiet, hsize, hcand, decide_true, Bool.not_false, Bool.and_self, if_true,
    Option.bind_some]

end

/-- Settles O43, event by event; the turn of a restart is the model's reading (log 53), and a drop for want of scratch or park-store
room is one that a schedule may name (log 79). -/
theorem wavesMoveAndRetire : Obligations.WavesMoveAndRetire := by
  refine ⟨fun s core slot x hx hretire => ?retire, fun s core slot hcan hwhy => ?drop,
    fun s core slot x b a hx hsize hcand hocc hheld => ?copy, fun s core slot x h b a hx hhold hlong hquiet => ?timeout,
    fun s core entry slot p base hp hslot hready hturn hsegs hbase => ?restart⟩
  case retire =>
    intro v k late w u
    refine (execWaveRetire_of_canRetire hx hretire).trans (congrArg (fun i => Host.Outcome.next (v.retired core slot x i)) ?_)
    exact List.map_congr_left (fun a _ => if_congr (v.fetchesRow_iff core slot a.2) rfl rfl)
  case drop =>
    have hdue : (s.canDrop core slot && (s.isVictim core slot || s.wantsKept core slot)) = true := by simp [hcan, hwhy]
    exact if_pos hdue
  case copy =>
    obtain ⟨hall, hany⟩ := Core.none_held hheld
    have hfound := State.compaction_found hsize hcand
    refine ⟨fun hbusy => ?_, fun p hquiet hplace => ?_⟩
    · change execCompactionCopy core slot s = _
      simp only [execCompactionCopy, hx, hfound, hocc, hbusy, hany, Bool.not_true, Bool.false_and, Bool.false_eq_true, if_false]
    · change execCompactionCopy core slot s = _
      simp only [execCompactionCopy, hx, hfound, hocc, hquiet, hall, hplace, Bool.not_true, Bool.and_true, Bool.false_eq_true,
        if_false, if_true]
  case timeout =>
    exact fun hsize hcand => execCompactionHoldTimeout_of_busy hx hhold hlong hquiet hsize hcand
  case restart =>
    change execWaveRestart core entry slot s = _
    simp only [execWaveRestart, hp, hslot, hready, hturn, hsegs, hbase, Bool.and_true, Bool.not_true, Bool.false_eq_true, if_false,
      List.isEmpty_nil]
    rfl

end Sys2Proof.Machine
end

section
/-!
PROOFS. regbase (07 R155): what an RSR leaves in a pair, and the two fields of the wave's block.
-/

namespace Sys2Proof.Machine

section

variable {s : State} {x : Wave} {k : Nat}

/-! ### A pair of registers, written and read -/

theorem append_halves (v : W64) : v.extractLsb' 32 32 ++ v.setWidth 32 = v := by
  rw [BitVec.setWidth_eq_extractLsb' (by decide), BitVec.extractLsb'_append_extractLsb'_eq_extractLsb' (by decide)]
  exact BitVec.extractLsb'_eq_self

/-- A pair written in a quiet slice reads back whole. -/
theorem Slice.field_writeAll_pair {sl : Slice} (h : sl.Quiet) (fresh : Nat) (p : SPair) (v : W64) :
    (sl.writeAll fresh (destWrites (pairReg p) true 0 v)).field (pairReg p) true 0 = v := by
  obtain ⟨ms, hm⟩ := Slice.writeAll_quiet fresh (destWrites (pairReg p) true 0 v) h
  rw [hm]
  simp only [destWrites, pairReg, if_true, List.foldl_cons, List.foldl_nil, Slice.field, Slice.raw, Slice.setRaw, Store.get_set_self,
    Store.get_set_ne _ _ _ (Nat.succ_ne_self _).symm]
  exact append_halves v

theorem State.wave?_of_slice? {c w : Nat} {sl : Slice} (h : s.slice? c w k = some sl) : ∃ y, s.wave? c w = some y ∧ y.slice k = sl := by
  obtain ⟨y, hy, hsl⟩ := Option.bind_eq_some_iff.1 h
  exact ⟨y, hy, Wave.slice_of_find hsl⟩

theorem Ready.slice? (hr : Ready s x) (hk : k ∈ s.now.slices) : s.slice? s.now.core s.now.slot k = some (x.slice k) := by
  obtain ⟨sl, hsl, _⟩ := hr.slices k hk
  rw [State.slice?, hr.wave, Option.bind_some, hsl, Wave.slice_of_find hsl]

/-! ### A special register read into a pair (02 R84, R85) -/

/-- An RSR of a register not marked E leaves the register's value in its pair. -/
theorem exec_rsr_pair_reads (hr : Ready s x) (he : Edged s x) (hk : s.now.slices = [k]) {o : RsrOp} {p : SPair} (hd : o.d = .pair p)
    (hl : x.lanes o.g k ≠ []) (hok : s.srFault x o.num.toNat false = none) (hedge : srEdge o.num.toNat = false) :
    ∃ t y, exec (.rsr o) s = .next t ∧ t.wave? s.now.core s.now.slot = some y
      ∧ (y.slice k).field (pairReg p) true 0 = s.readSr s.now.core s.now.slot k x (x.slice k) o.num.toNat := by
  have hmem := mem_slices_of_one hk
  have hput (v : W64) : (s.putPair k p v).slice? s.now.core s.now.slot k = _ := State.slice?_modSlice (hr.slice? hmem) _
  have hnow (v : W64) : (s.putPair k p v).now = s.now := State.now_modSlice ..
  rw [exec_rsr_pair hr he hk hd hl hok, State.srDone, hedge, if_neg Bool.false_ne_true, State.modNow, hnow]
  obtain ⟨y, hy, hsl⟩ := State.wave?_of_slice? (State.slice?_modSlice (hput _) _)
  exact ⟨_, y, rfl, hy, (congrArg (Slice.field · (pairReg p) true 0) hsl).trans (Slice.field_writeAll_pair (hr.quiet hmem) ..)⟩

/-! ### regbase (07 R155) -/

theorem allotCode_lt (n : Nat) : allotCode n < 4 := by
  unfold allotCode
  split_ifs <;> decide

/-- regbase is an exact number: no bit of the code or of the first unit is lost. -/
theorem State.toNat_readSr_regbase (c w : Nat) (sl : Slice) (hbase : x.base < 16384) :
    (s.readSr c w k x sl 0x006).toNat = allotCode x.allot * 2 ^ 16 + x.base := by
  have hcode := allotCode_lt x.allot
  exact (BitVec.toNat_ofNat ..).trans (Nat.mod_eq_of_lt (by omega))

end

/-- Settles O58: the pair takes regbase, whose first unit lies below the allotment code. -/
theorem regbaseReads : Obligations.RegbaseReads := by
  intro s x k o p hr he hk hl hnum hd hbase _
  obtain ⟨t, y, hexec, hy, hread⟩ := exec_rsr_pair_reads hr he hk hd hl (by rw [hnum]; rfl) (by rw [hnum]; rfl)
  refine ⟨t, y, hexec, hy, ?_⟩
  have hnat := State.toNat_readSr_regbase (s := s) (k := k) s.now.core s.now.slot (x.slice k) hbase
  have hcode := allotCode_lt x.allot
  rw [hread, show o.num.toNat = 0x006 by rw [hnum]; rfl]
  refine ⟨?unit, ?code, ?rest, fun hallot hunit => ?worked⟩
  case unit => omega
  case code => exact (show _ = allotCode x.allot by omega)
  case rest => omega
  case worked => exact BitVec.eq_of_toNat_eq (by rw [hnat, hallot, hunit]; rfl)

end Sys2Proof.Machine
end

section
/-!
PROOFS. The engines of the queues (07 R162, R163): the row that each moves, and the access it moves it by.
-/

namespace Sys2Proof.Machine

section

variable {s : State} {core slot q : Nat} {x : Wave} {b : Queue}

/-! ### What a change of a wave leaves -/

theorem State.gen_modWave (s : State) (c w : Nat) (f : Wave → Wave) (c' w' : Nat) : (s.modWave c w f).gen c' w' = s.gen c' w' := by
  unfold State.modWave
  split
  · rfl
  · by_cases hc : c' = c
    · subst hc
      rw [State.gen, State.setWave, State.core_setCore]
      rfl
    · simp only [State.gen, State.core, State.setWave, State.setCore, Store.find?_insert_ne _ _ hc]

theorem State.secureWave_modWave (s : State) (c w : Nat) (f : Wave → Wave) (y : Wave) :
    (s.modWave c w f).secureWave y = s.secureWave y := by
  simp only [State.secureWave, State.process?, State.obj?, State.objects_modWave]

theorem queueAccess_modWave (s : State) (c w : Nat) (f : Wave → Wave) (kind : Flight) (parts : List Part) (row : Nat) :
    queueAccess (s.modWave c w f) x core slot q kind parts row = queueAccess s x core slot q kind parts row := by
  simp only [queueAccess, State.gen_modWave, State.secureWave_modWave]

/-! ### What an engine does with a row -/

/-- The wave's queue q becomes b, and the access that moves its row, if that has parts, goes out. -/
def State.moveRow (s : State) (core slot q : Nat) (b : Queue) (a : Access) : State :=
  let t := s.modWave core slot (fun x => { x with queues := Store.insert x.queues q b })
  if a.parts = [] then t else t.launchRow a

/-- The row that a load queue's engine opens: what it asks for is awaited, and an element without parts is a free value (log 31). -/
def State.openedRow (s : State) (x : Wave) (core : Nat) (b : Queue) : Row :=
  { vals := (List.range x.width).map (fun l =>
      if queueParts s x core b b.next l false = [] then some (Config.freeWord (s.fresh + l)) else none)
    awaits := if (List.range x.width).flatMap (fun l => queueParts s x core b b.next l false) = [] then [] else [s.serial] }

theorem zipIdx_map_range {α : Type} (f : Nat → α) (n : Nat) : ((List.range n).map f).zipIdx = (List.range n).map (fun i => (f i, i)) :=
  List.ext_getElem (by simp) (fun i _ _ => by simp)

/-- A load queue with rows to come, fewer than eight of them held, has its next row opened. -/
theorem exec_queueLoadRowFetch (hx : s.wave? core slot = some x) (hb : Store.find? x.queues q = some b) (hdir : b.dir = .load)
    (hheld : b.held.length < 8) (hrows : b.next < b.rows.toNat) :
    exec (.queueLoadRowFetch core slot q) s = .next (s.moveRow core slot q
      { b with held := b.held ++ [s.openedRow x core b], next := b.next + 1 }
      (queueAccess s x core slot q (.load (.q (BitVec.ofNat 3 q)) b.wide (if b.wide then 8 else 4) false none)
        ((List.range x.width).flatMap (fun l => queueParts s x core b b.next l false)) b.next)) := by
  have hdue : (b.dir == .load && b.held.length < queueDepth && b.next < b.rows.toNat) = true := by
    simp [hdir, hheld, hrows, queueDepth]
  change execQueueLoadRowFetch core slot q s = _
  simp only [execQueueLoadRowFetch, hx, hb, hdue, if_true, zipIdx_map_range, List.map_map, queueAccess_modWave, List.isEmpty_iff]
  rfl

/-- The parts with their bytes of an element's value. -/
def cutParts (ps : List Part) (bs : List Byte) : List Part :=
  (ps.foldl (fun (r : List Part × List Byte) p => (r.1 ++ [{ p with data := r.2.take p.size }], r.2.drop p.size)) ([], bs)).1

/-- The parts of a store queue's row: those of each lane that has pushed a value. -/
def State.pushedParts (s : State) (x : Wave) (core : Nat) (b : Queue) (row : Row) : List Part :=
  row.vals.zipIdx.flatMap (fun v => match v.1 with
    | some val => cutParts (queueParts s x core b b.next v.2 true) (leBytes (if b.wide then 8 else 4) val.toNat)
    | none => [])

/-- The oldest row of a store queue, once it has its values and the row before it has been stored, is taken out and stored. -/
theorem exec_queueStoreRowPerform (hx : s.wave? core slot = some x) (hb : Store.find? x.queues q = some b) (hdir : b.dir = .store)
    {row : Row} {rest : List Row} (hheld : b.held = row :: rest) (hvals : row.awaits = [])
    (hbefore : s.queueStoring core slot (s.gen core slot) q = false) :
    exec (.queueStoreRowPerform core slot q) s = .next (s.moveRow core slot q { b with held := rest, next := b.next + 1 }
      (queueAccess s x core slot q .store (s.pushedParts x core b row) b.next)) := by
  have hdue : (!row.awaits.isEmpty || s.queueStoring core slot (s.gen core slot) q) = false := by simp [hvals, hbefore]
  change execQueueStoreRowPerform core slot q s = _
  simp only [execQueueStoreRowPerform, hx, hb]
  split
  next hd hh =>
    obtain ⟨rfl, rfl⟩ := List.cons.inj (hheld.symm.trans hh)
    simp only [hdue, Bool.false_eq_true, if_false, queueAccess_modWave, List.isEmpty_iff]
    rfl
  next hother => exact absurd hheld (hother row rest hdir)

end

/-- Settles O26: the load engine and the store engine; an element that cannot be reached is free on a load row and is not stored on
a store row (log 31). -/
theorem queueEnginesComplete : Obligations.QueueEnginesComplete := by
  intro s core slot q x b hx hb agent bytes
  refine ⟨fun hdir hheld hrows => ?load, fun row rest hdir hheld hvals hbefore => ?store⟩
  case load =>
    have h := exec_queueLoadRowFetch hx hb hdir hheld hrows
    exact ⟨fun hp => h.trans (congrArg _ (if_pos hp)), fun hp => h.trans (congrArg _ (if_neg hp))⟩
  case store =>
    have h := exec_queueStoreRowPerform hx hb hdir hheld hvals hbefore
    exact ⟨fun hp => h.trans (congrArg _ (if_pos hp)), fun hp => h.trans (congrArg _ (if_neg hp))⟩

end Sys2Proof.Machine
end

section
/-!
PROOFS. Special registers that act (09 R183, 27 R450, R451, R457, R459): each access that 02 R84 allows ends as the one driver of its
direction does.
-/

namespace Sys2Proof.Machine

/-! ### The drivers of the rows that name their register -/

section

variable {s : State} {x : Wave} {k : Nat} {o : PairOp} {num : Nat}

theorem PairOp.read_fields (x : Wave) (o : PairOp) : x.Fields (PairOp.read o).fields :=
  Wave.fields_of_s (by simp [PairOp.read, Shape.fields, pairReg])

theorem PairOp.write_fields (x : Wave) (o : PairOp) : x.Fields (PairOp.write o).fields :=
  Wave.fields_of_s (by simp [PairOp.write, Shape.fields, pairReg])

/-- The source answers at a prompt issue unless it has failed (27 R459). -/
theorem entropyWait_ready (hfail : s.security.entropyFailed = false) (hprompt : s.now.prompt = true) : entropyWait s = none := by
  simp [entropyWait, hfail, hprompt]

variable (hr : Ready s x) (he : Edged s x) (hk : s.now.slices = [k]) (hl : x.lanes o.g k ≠ [])
include hr he hk hl

/-- An allowed read that waits for nothing writes its pair, and then does what follows. -/
theorem issueSrRead_go {wait : State → Option (Except Trap Wait)} {val : State → Nat → W64} {after : Nat → State → State}
    (hok : s.srFault x num false = none) (hwait : wait s = none) :
    issueSrRead o num wait val after s
      = .next (after k ((s.putPair k o.p (val s k)).srDone (s.ctx x k) (x.slice k) num (pairLocs o.p))) := by
  refine congrArg Host.Outcome.next (issueSr_go hr he hk (PairOp.read_fields x o) hl hok
    (f := fun t => after k ((t.putPair k o.p (val t k)).srDone (s.ctx x k) (x.slice k) num (pairLocs o.p))) ?_)
  rw [hwait]
  rfl

/-- An allowed write whose plan for the pair's value goes on takes its effect. -/
theorem issueSrWrite_go {f : State → Ctx → W64 → List Nat → Act} {g : State → State} (hok : s.srFault x num true = none)
    (hgo : f s (s.ctx x k) ((x.slice k).field (pairReg o.p) true 0) (x.lanes o.g k) = .go g) :
    issueSrWrite o num f s = .next ((g s).srDone (s.ctx x k) (x.slice k) num []) := by
  have hv : (s.ctx x k).pair (x.slice k) o.p = (x.slice k).field (pairReg o.p) true 0 := hr.readReg (mem_slices_of_one hk) rfl true 0
  refine congrArg Host.Outcome.next (issueSr_go hr he hk (PairOp.write_fields x o) hl hok
    (f := fun t => (g t).srDone (s.ctx x k) (x.slice k) num []) ?_)
  rw [hv, show (PairOp.write o).g = o.g from rfl, hgo]

/-! ### The registers that are read (27 R459, 09 R183) -/

theorem exec_nonceRead (hok : s.srFault x 0x106 false = none) (hfail : s.security.entropyFailed = false) (hprompt : s.now.prompt = true) :
    let t := (s.putPair k o.p (Config.entropy (s.fresh + k))).srDone (s.ctx x k) (x.slice k) 0x106 (pairLocs o.p)
    exec (.nonceRead o) s
      = .next { t with security := { t.security with nonce := Config.entropy (t.fresh + k), wipeSinceNonce := false } } := by
  change execNonceRead o s = _
  exact issueSrRead_go hr he hk hl hok (entropyWait_ready hfail hprompt)

theorem exec_entropyRead (hok : s.srFault x 0x10A false = none) (hfail : s.security.entropyFailed = false) (hprompt : s.now.prompt = true) :
    exec (.entropyRead o) s = .next ((s.putPair k o.p (Config.entropy (s.fresh + k))).srDone (s.ctx x k) (x.slice k) 0x10A
      (pairLocs o.p)) := by
  change execEntropyRead o s = _
  exact issueSrRead_go hr he hk hl hok (entropyWait_ready hfail hprompt)

theorem exec_mbwaitRead (hok : s.srFault x 0x041 false = none) (hmail : (s.core s.now.core).mailbox ≠ []) :
    exec (.mbwaitRead o) s = .next ((s.putPair k o.p (BitVec.ofNat 64 (s.core s.now.core).mailbox.length)).srDone (s.ctx x k)
      (x.slice k) 0x041 (pairLocs o.p)) := by
  change execMbwaitRead o s = _
  exact issueSrRead_go hr he hk hl hok (if_neg (by simpa using hmail))

/-! ### The registers that are written (09 R183, 27 R450, R451, R457) -/

/-- A one in bit 0 starts a wipe, unless one runs (27 R450). -/
theorem exec_keywipeWrite (hok : s.srFault x 0x107 true = none) :
    exec (.keywipeWrite o) s = .next ((if ((x.slice k).field (pairReg o.p) true 0).getLsbD 0 && !s.security.wiping
      then { s with security := s.security.startWipe } else s).srDone (s.ctx x k) (x.slice k) 0x107 []) := by
  change execKeywipeWrite o s = _
  refine (issueSrWrite_go hr he hk hl hok (apply_ite Act.go _ _ _).symm).trans ?_
  split <;> rfl

theorem exec_dbgctlWrite (hok : s.srFault x 0x108 true = none) :
    let n : BitVec 3 := ((x.slice k).field (pairReg o.p) true 0).setWidth 3
    s.security.dbgOk n = true →
    exec (.dbgctlWrite o) s = .next ((s.setDbgctl n).srDone (s.ctx x k) (x.slice k) 0x108 []) := by
  intro n hdbg
  change execDbgctlWrite o s = _
  exact issueSrWrite_go hr he hk hl hok (g := fun t => t.setDbgctl n) (if_pos hdbg)

theorem exec_measureWrite (hok : s.srFault x 0x109 true = none) {r : List Byte}
    (hread : s.readVirtual (s.asker x s.now.core false)
      ((((x.slice k).field (pairReg o.p) true 0).setWidth 56 : BitVec 56).signExtend 64 : W64).toNat 64 = .ok r) :
    exec (.measureWrite o) s = .next (({ s with security := s.security.extend r } : State).srDone (s.ctx x k) (x.slice k) 0x109 []) := by
  change execMeasureWrite o s = _
  refine issueSrWrite_go hr he hk hl hok (g := fun t => { t with security := t.security.extend r }) ?_
  simp only [show (s.ctx x k).wave = x from rfl, hread]

/-- A drop waits for nothing where the wave it names here is left alone or can be dropped. -/
theorem exec_dropWrite (hok : s.srFault x 0x050 true = none) :
    let v := (x.slice k).field (pairReg o.p) true 0
    let w := waveIdSlot (v.toNat % 2 ^ 15)
    (waveIdCore (v.toNat % 2 ^ 15) = s.now.core → ∀ y, s.wave? s.now.core w = some y →
      y.supervisor = true ∨ y.prio = 0 ∨ s.canDrop s.now.core w = true) →
    exec (.dropWrite o) s = .next ((s.dropByName s.now.core v).srDone (s.ctx x k) (x.slice k) 0x050 []) := by
  intro v w hfree
  change execDropWrite o s = _
  refine issueSrWrite_go hr he hk hl hok (g := fun t => t.dropByName t.now.core v) (if_neg ?_)
  rw [Bool.and_eq_true, decide_eq_true_eq]
  rintro ⟨hcore, hheld⟩
  split at hheld
  next y hy =>
    simp only [Bool.and_eq_true, Bool.not_eq_true', decide_eq_true_eq] at hheld
    obtain ⟨⟨huser, hclass⟩, hdrop⟩ := hheld
    obtain h | h | h := hfree hcore y hy
    · exact Bool.false_ne_true (huser.symm.trans h)
    · exact hclass h
    · exact Bool.false_ne_true (hdrop.symm.trans h)
  next => exact absurd hheld Bool.false_ne_true

theorem exec_reprioWrite (hok : s.srFault x 0x051 true = none) {t : State}
    (hrep : s.reprioByName s.now.core ((x.slice k).field (pairReg o.p) true 0) = some t) :
    exec (.reprioWrite o) s = .next (t.srDone (s.ctx x k) (x.slice k) 0x051 []) := by
  change execReprioWrite o s = _
  refine (issueSrWrite_go hr he hk hl hok
    (g := fun t => (t.reprioByName t.now.core ((x.slice k).field (pairReg o.p) true 0)).getD t) ?_).trans ?_
  · simp only [hrep]
  · simp only [hrep, Option.getD_some]

end

/-- Settles O14, register by register. -/
theorem actingRegistersComplete : Obligations.ActingRegistersComplete := fun _ _ _ _ hr he hk hl =>
  ⟨exec_nonceRead hr he hk hl, exec_entropyRead hr he hk hl, exec_mbwaitRead hr he hk hl, exec_keywipeWrite hr he hk hl,
    exec_dbgctlWrite hr he hk hl, fun hok _ => exec_measureWrite hr he hk hl hok, exec_dropWrite hr he hk hl,
    fun hok _ => exec_reprioWrite hr he hk hl hok⟩

end Sys2Proof.Machine
end

section
/-!
PROOFS. The copy instructions (10 R217, R219, R220): what XKICK, XSUSP and XSTAT do with a record that lies in the team's scratch.
-/

namespace Sys2Proof.Machine

open Claim

section

variable {s : State} {x : Wave} {k : Nat}

/-! ### What leaves the issuing gang and the clusters as they are -/

theorem State.now_settleShared (s : State) (c w : Nat) (edge : Bool) (ids : Nat → Bool) : (s.settleShared c w edge ids).now = s.now := by
  unfold State.settleShared
  simp only []
  split <;> rfl

theorem State.now_beginRecord (s : State) (cl : Nat) (b : List Byte) : (s.beginRecord cl b).now = s.now := by
  unfold State.beginRecord
  simp only []
  split <;> rfl

theorem State.now_closeRegionAt (s : State) (c w k : Nat) (r : Restart) (ms : List Loc) (pc : Pc) :
    (s.closeRegionAt c w k r ms pc).now = s.now := by
  unfold State.closeRegionAt
  split
  · rfl
  · split
    · rfl
    · simp only []
      split
      · rw [State.now_beginRecord, State.now_modWave, State.now_modSlice, State.now_settleShared, State.now_setWave]
      · rw [State.now_settleShared, State.now_setWave]

theorem State.now_closeRegion (s : State) (c w k : Nat) (live : BitVec 256) (pc : Pc) : (s.closeRegion c w k live pc).now = s.now := by
  unfold State.closeRegion
  split
  · rfl
  · rw [State.now_closeRegionAt, State.now_modSlice]

theorem State.now_advance (s : State) (sh : Shape) (lanes : List Nat) (k : Nat) : (s.advance sh lanes k).now = s.now :=
  State.now_modSlice ..

theorem State.launchAccess_cluster (s : State) (a : Access) (c : Nat) : (s.launchAccess a).cluster c = s.cluster c := by
  unfold State.launchAccess State.cluster
  simp only []
  split <;> simp only [State.clusters_modWave]

/-! ### The driver of instructions with a record -/

theorem S1Op.shape_fields (x : Wave) (o : S1Op) : x.Fields (S1Op.shape o).fields :=
  Wave.fields_of_s (by simp [S1Op.shape, Shape.fields])
theorem XstatOp.shape_fields (x : Wave) (o : XstatOp) : x.Fields (XstatOp.shape o).fields :=
  Wave.fields_of_s (by simp [XstatOp.shape, Shape.fields, pairReg])

variable {sh : Shape} {r : SReg} {edge : Bool} {go : Nat → Nat × Nat → State → Ctx → Slice → Act}

/-- With no lane executing an instruction with a record only goes on. -/
theorem issueRecord_idle (hr : Ready s x) (hk : s.now.slices = [k]) (h : x.Fields sh.fields) (hl : x.lanes sh.g k = []) :
    issueActs (planRecord sh r edge go) s = s.advance sh [] k := by
  refine issueActs_go_one hr.wave hk (f := fun t => t.advance sh [] k) ?_
  unfold planRecord
  simp only [workLanes_all, hl, List.isEmpty_nil, Bool.not_true, Bool.and_false, hr.operands (mem_slices_of_one hk) _ h]
  rfl

/-- The record whose address the register gives is aligned and lies in the team's scratch. -/
structure RecordAt (s : State) (x : Wave) (k : Nat) (g : Option Guard) (r : SReg) (a : Nat × Nat) : Prop where
  lanes : x.lanes g k ≠ []
  aligned : ((x.slice k).raw (.s r.toNat)).toNat % 64 = 0
  at_ : s.teamScratch x.team (s.now.core / 32) ((x.slice k).raw (.s r.toNat)).toNat 64 = some a

/-- With its record found the instruction takes its effect. -/
theorem issueRecord_go (hr : Ready s x) (he : Edged s x) (hk : s.now.slices = [k]) (h : x.Fields sh.fields) {a : Nat × Nat}
    (hrec : RecordAt s x k sh.g r a) {f : State → State}
    (hgo : go ((x.slice k).raw (.s r.toNat)).toNat a s (s.ctx x k) (x.slice k) = .go f) :
    issueActs (planRecord sh r edge go) s = f s := by
  have hmem := mem_slices_of_one hk
  refine issueActs_go_one hr.wave hk ?_
  unfold planRecord
  simp only [workLanes_all, hr.operandsAtEdge hmem _ _ h he, hr.readLoc hmem, State.ctx_wave, hrec.at_, hgo]
  rw [if_neg (by simpa using hrec.lanes), if_neg (by simp [hrec.aligned])]

/-! ### XKICK -/

/-- The copy queue and path 3 have a place, nothing acquires ahead, and the queue's head is not read within the issue itself. -/
structure KickClear (s : State) (x : Wave) (k : Nat) : Prop where
  place : (s.cluster (s.now.core / 32)).copyQueue.length < 256
  counter : x.counter 3 < 255
  later : s.now.prompt = false ∨ (s.cluster (s.now.core / 32)).copyQueue ≠ []
  acquire : s.acquireAhead s.now.core s.now.slot k = none

/-- The access that holds an XKICK's count on path 3. -/
def kickAccess (s : State) (x : Wave) (k : Nat) : Access :=
  { core := s.now.core, slot := s.now.slot, slice := k, gen := s.gen s.now.core s.now.slot, pc := (x.slice k).pc, word := s.now.word
    path := some 3, kind := .counted, parts := [], lanes := 0, process := x.process, secure := s.secureWave x }

/-- What an XKICK puts into the copy queue. -/
def kickOf (s : State) (x : Wave) (k addr : Nat) : CopyKick :=
  { addr := BitVec.ofNat 64 addr, team := x.team, process := x.process, core := s.now.core, slot := s.now.slot, slice := k
    gen := s.gen s.now.core s.now.slot, cls := x.prio.toNat, id := s.serial }

/-- The address of a record joins the copy queue, counted on path 3. -/
def State.kicked (s : State) (x : Wave) (k addr : Nat) : State :=
  let t := s.launchAccess (kickAccess s x k)
  let cl := s.now.core / 32
  t.setCluster cl { t.cluster cl with copyQueue := (t.cluster cl).copyQueue ++ [kickOf s x k addr] }

theorem exec_xkick (hr : Ready s x) (he : Edged s x) (hk : s.now.slices = [k]) {o : S1Op} {a : Nat × Nat}
    (hrec : RecordAt s x k o.g o.a a) (hc : KickClear s x k) :
    let u := s.kicked x k ((x.slice k).raw (.s o.a.toNat)).toNat
    exec (.xkick o) s = .next ((u.advance (S1Op.shape o) [0] k).closeRegion u.now.core u.now.slot k (x.slice k).lastLive (x.slice k).pc) := by
  intro u
  have hroom : ¬ copyPlaces ≤ (s.cluster (s.now.core / 32)).copyQueue.length := Nat.not_le.2 hc.place
  have hfull : (s.ctx x k).counterFull 3 o.g = false := by
    rw [Ctx.counterFull_one (show (s.ctx x k).gang = [k] from hk)]
    exact decide_eq_false (Nat.not_le.2 hc.counter)
  have hlater : (s.now.prompt && (s.cluster (s.now.core / 32)).copyQueue.isEmpty) = false := by
    rcases hc.later with hp | hq
    · rw [hp, Bool.false_and]
    · rw [List.isEmpty_eq_false_iff.2 hq, Bool.and_false]
  refine congrArg Host.Outcome.next ((issueRecord_go (sh := S1Op.shape o) hr he hk (S1Op.shape_fields x o) hrec
    (by simp only [hroom, if_false, hfull, Bool.false_eq_true, State.ctx_k, hc.acquire]; rfl)).trans ?_)
  simp only [u, State.kicked, hroom, if_false, State.now_closeRegion, State.now_advance, State.now_setCluster, State.launchAccess_now,
    State.launchAccess_cluster, hlater, Bool.false_eq_true]
  rfl

/-! ### XSUSP and XSTAT -/

theorem exec_xsusp (hr : Ready s x) (he : Edged s x) (hk : s.now.slices = [k]) {o : S1Op} {a : Nat × Nat}
    (hrec : RecordAt s x k o.g o.a a) :
    let u := s.xsusp (s.now.core / 32) x.team ((x.slice k).raw (.s o.a.toNat)).toNat
    exec (.xsusp o) s = .next ((u.advance (S1Op.shape o) [0] k).closeRegion s.now.core s.now.slot k (x.slice k).lastLive (x.slice k).pc) := by
  refine congrArg Host.Outcome.next ((issueRecord_go (sh := S1Op.shape o) hr he hk (S1Op.shape_fields x o) hrec rfl).trans ?_)
  rfl

/-- The bytes at the destination of a record's request beyond its cursor: those of the granule that an engine writes (10 R220). -/
def State.copiedAhead (s : State) (cl team addr : Nat) : Nat :=
  match (s.cluster cl).engines.values.find? (fun r => r.names team addr) with
  | some r => r.written
  | none => 0

theorem exec_xstat (hr : Ready s x) (he : Edged s x) (hk : s.now.slices = [k]) {o : XstatOp} {a : Nat × Nat}
    (hrec : RecordAt s x k o.g o.a a) :
    let b := s.peekN 0 (.scratch a.1) a.2 64
    let done := word32 b 0x28 + s.copiedAhead (s.now.core / 32) x.team ((x.slice k).raw (.s o.a.toNat)).toNat
    exec (.xstat o) s = .next ((s.putPair k o.d (BitVec.ofNat 64 (done * 2 ^ 32 + word32 b 0x30))).advance (XstatOp.shape o) [0] k) := by
  refine congrArg Host.Outcome.next ((issueRecord_go (sh := XstatOp.shape o) hr he hk (XstatOp.shape_fields x o) hrec rfl).trans ?_)
  rfl

/-- Settles O33, instruction by instruction; a place in the copy queue ends the wait for one. -/
theorem copyInstructionsComplete : Obligations.CopyInstructionsComplete := by
  refine ⟨fun s x k a hr he hk => ⟨fun o hl hal hat => ?_, fun o hl => ?_, fun o hl => ?_, fun o hl hal hat => ?_⟩, fun s w hplace => ?_⟩
  · have hrec : RecordAt s x k o.g o.a a := ⟨hl, hal, hat⟩
    exact ⟨fun hplace hcount hlater hacq => exec_xkick hr he hk hrec ⟨hplace, hcount, hlater, hacq⟩, exec_xsusp hr he hk hrec⟩
  · exact ⟨congrArg Host.Outcome.next (issueRecord_idle hr hk (S1Op.shape_fields x o) hl),
      congrArg Host.Outcome.next (issueRecord_idle hr hk (S1Op.shape_fields x o) hl)⟩
  · exact congrArg Host.Outcome.next (issueRecord_idle hr hk (XstatOp.shape_fields x o) hl)
  · exact exec_xstat hr he hk ⟨hl, hal, hat⟩
  · exact if_pos hplace

end

end Sys2Proof.Machine
end

section
/-!
PROOFS. The copy engines (09 R198, 10 R217, R218): the record at the head of the copy queue, a granule of this package's memory, and
the request that gives way.
-/

namespace Sys2Proof.Machine

section

variable {s : State} {cluster engine : Nat}

/-! ### The copy queue's head (10 R217) -/

/-- The copy queue without its head. -/
def State.dequeueKick (s : State) (cluster : Nat) (rest : List CopyKick) : State :=
  s.setCluster cluster { s.cluster cluster with copyQueue := rest }

/-- The access that holds an XKICK's count ends with its record's reading. -/
def State.finishKick (s : State) (q : CopyKick) : State :=
  match Store.find? s.inflight q.id with
  | some b => s.finish q.id b
  | none => s

/-- The head of the copy queue, its release done, lies in its team's scratch and its state says that it awaits an engine. -/
structure KickRead (s : State) (cluster : Nat) (q : CopyKick) (rest : List CopyKick) (a : Nat × Nat) (r : CopyRecord) : Prop where
  head : (s.cluster cluster).copyQueue = q :: rest
  released : s.kickReady q = true
  at_ : (s.dequeueKick cluster rest).teamScratch q.team cluster q.addr.toNat 64 = some a
  record : r = CopyRecord.ofBytes ((s.dequeueKick cluster rest).peekN 0 (.scratch a.1) a.2 64)
  state : r.state = 0 ∨ r.state = 2

variable {q : CopyKick} {rest : List CopyKick} {a : Nat × Nat} {r : CopyRecord}

/-- The request that an accepted record becomes. -/
def State.copyReq (s : State) (q : CopyKick) : CopyReq :=
  { recAddr := q.addr, team := q.team, process := q.process, core := q.core, cls := q.cls
    secure := ((s.process? q.process).map (·.secure)).getD false, age := s.serial }

/-- A record is accepted where its fields pass and its barrier lies in the team's scratch, and refused otherwise. -/
theorem State.readKick_of_read (h : KickRead s cluster q rest a r) :
    let u := s.dequeueKick cluster rest
    let bar := u.barrierOf q.team cluster r.bar
    s.readKick cluster =
      if r.ok && bar.isSome then
        let v := u.pokeScratch a 0x30 (leBytes 4 1)
        ((v.setCluster cluster { v.cluster cluster with copies := (v.cluster cluster).copies ++ [s.copyReq q] }).finishKick q).fillEngines
          cluster 4
      else
        let v := u.pokeScratch a 0x30 (leBytes 4 (3 * 2 ^ 24 + 4))
        (match bar with
          | some b => v.faultBarrier b 3
          | none => v).finishKick q := by
  obtain ⟨hhead, hrel, hat, rfl, hstate⟩ := h
  unfold State.readKick
  simp only [hhead, hrel]
  rw [if_neg (by simp)]
  simp only [State.dequeueKick] at hat hstate ⊢
  simp only [hat]
  rw [if_neg (by rcases hstate with h | h <;> simp [h])]
  rfl

theorem State.readKick_accept (h : KickRead s cluster q rest a r) (hok : r.ok = true)
    (hbar : ((s.dequeueKick cluster rest).barrierOf q.team cluster r.bar).isSome = true) :
    let v := (s.dequeueKick cluster rest).pokeScratch a 0x30 (leBytes 4 1)
    s.readKick cluster = ((v.setCluster cluster { v.cluster cluster with
      copies := (v.cluster cluster).copies ++ [s.copyReq q] }).finishKick q).fillEngines cluster 4 :=
  (State.readKick_of_read h).trans (if_pos (by rw [hok, hbar, Bool.and_self]))

theorem State.readKick_refuse (h : KickRead s cluster q rest a r) (hok : r.ok = false) {b : Nat × Nat}
    (hbar : (s.dequeueKick cluster rest).barrierOf q.team cluster r.bar = some b) :
    s.readKick cluster =
      (((s.dequeueKick cluster rest).pokeScratch a 0x30 (leBytes 4 (3 * 2 ^ 24 + 4))).faultBarrier b 3).finishKick q := by
  refine (State.readKick_of_read h).trans ((if_neg (by simp [hok])).trans ?_)
  rw [hbar]

/-! ### The engines (10 R218, 09 R198) -/

/-- An engine asks for a translation with the rights of its request's process. -/
def State.engineAsker (s : State) (cluster : Nat) (r : CopyReq) : Asker :=
  { process := r.process, user := !((s.process? r.process).map (·.supervisor)).getD false, secure := r.secure, cluster
    fresh := s.fresh + 4096 }

/-- What an engine knows of its granule: its record, the bytes that it moves, and where they lie in this package. -/
structure GranuleAt (s : State) (cluster : Nat) (r : CopyReq) (a : Nat × Nat) (c : CopyRecord) (n : Nat) (sp dp : List Part) : Prop where
  at_ : s.teamScratch r.team cluster r.recAddr.toNat 64 = some a
  record : c = CopyRecord.ofBytes (s.peekN 0 (.scratch a.1) a.2 64)
  bytes : n = min 4096 (c.total - c.cursor)
  source : s.engineRanges (s.engineAsker cluster r) r.team (spaceOf c.sspace) (c.ranges c.cursor n).1 = .ok sp
  dest : s.engineRanges { s.engineAsker cluster r with write := true } r.team (spaceOf c.dspace) (c.ranges c.cursor n).2 = .ok dp
  here : ∀ p ∈ sp ++ dp, p.place.isPeer = false

/-- A granule of this package's memory is copied through the lines it is written to, where no other engine owns one. -/
theorem State.copyGranule_of_at {r : CopyReq} {a : Nat × Nat} {c : CopyRecord} {n : Nat} {sp dp : List Part}
    (hr : Store.find? (s.cluster cluster).engines engine = some r) (hg : GranuleAt s cluster r a c n sp dp)
    (hreads : r.reads = none) (hwrites : r.writes = none) (hsuspend : r.suspend = false)
    (hstays : (s.cluster cluster).displaces r = false) (hfree : ∀ l ∈ (ownLines dp).eraseDups, s.ownedLine l.1 (128 * l.2) 1 = false) :
    let t := s.takeLines (ownLines dp).eraseDups
    s.copyGranule cluster engine =
      (t.engineWrite dp (convBytes c.conv c.sizes.1 c.sizes.2 (t.engineBytes cluster sp))).endGranule cluster engine r c a n := by
  obtain ⟨hat, rfl, rfl, hsource, hdest, hhere⟩ := hg
  have hsp : sp.any (fun p => p.place.isPeer) = false :=
    List.any_eq_false.2 (fun p hp => by simp [hhere p (List.mem_append_left _ hp)])
  have hdp : dp.any (fun p => p.place.isPeer) = false :=
    List.any_eq_false.2 (fun p hp => by simp [hhere p (List.mem_append_right _ hp)])
  have hlines : (ownLines dp).eraseDups.any (fun l => s.ownedLine l.1 (128 * l.2) 1) = false :=
    List.any_eq_false.2 (fun l hl => by simp [hfree l hl])
  simp only [State.engineAsker] at hsource hdest
  unfold State.copyGranule
  simp only [hr, hat, hwrites, hreads, hsuspend, hstays, hsource, hdest, hlines, hsp, hdp, State.writeGranule, Bool.and_false,
    Bool.false_and, Bool.false_eq_true, if_false]

/-- With a class 0 request waiting and four engines busy, the youngest of the lowest class gives way. -/
theorem Cluster.displaces_iff (k : Cluster) (r : CopyReq) : k.displaces r = true ↔
    k.engines.length = 4 ∧ (∃ q ∈ k.copies, q.cls = 0) ∧ r.cls ≠ 0
      ∧ ∀ e ∈ k.engines, e.2.cls < r.cls ∨ (e.2.cls = r.cls ∧ e.2.age ≤ r.age) := by
  simp [Cluster.displaces, and_assoc]

/-- An engine between two granules gives way by setting its request aside. -/
theorem exec_copyDisplace {r : CopyReq} (hr : Store.find? (s.cluster cluster).engines engine = some r)
    (hdisplaces : (s.cluster cluster).displaces r = true) (hreads : r.reads = none) (hwrites : r.writes = none) :
    exec (.copyDisplace cluster engine) s = .next (s.displaceCopy cluster engine r) := by
  change execCopyDisplace cluster engine s = _
  unfold execCopyDisplace
  simp [hr, hdisplaces, hreads, hwrites]

/-- Settles O34: the record at the head, a granule of this package's memory, moved whole (log 61), and the youngest request of the
lowest class. -/
theorem copyEnginesComplete : Obligations.CopyEnginesComplete := by
  refine ⟨fun s cluster q rest a hhead hrel hat hstate => ?record, fun s cluster engine r a sp dp hr hreads hwrites hsuspend hstays hat
    hsource hdest hhere hfree => ?granule, fun s cluster engine r hr hbusy hzero hcls hyoungest hreads hwrites => ?displace⟩
  case record =>
    have hread : KickRead s cluster q rest a _ := ⟨hhead, hrel, hat, rfl, hstate⟩
    exact ⟨fun hok hbar => congrArg Host.Outcome.next (State.readKick_accept hread hok hbar),
      fun b hok hbar => congrArg Host.Outcome.next (State.readKick_refuse hread hok hbar)⟩
  case granule =>
    exact congrArg Host.Outcome.next (State.copyGranule_of_at hr ⟨hat, rfl, rfl, hsource, hdest, hhere⟩ hreads hwrites hsuspend hstays hfree)
  case displace =>
    exact exec_copyDisplace hr ((Cluster.displaces_iff ..).2 ⟨hbusy, hzero, hcls, hyoungest⟩) hreads hwrites

end

end Sys2Proof.Machine
end

section
/-!
PROOFS. What the memory system does by itself (10 R202 to R206, 12 R234 to R236, R243, 13 R266, R269): walks, shoot-downs, atomics
and reductions at their home, and writes on their way to a replica.
-/

namespace Sys2Proof.Machine

section

variable {s : State} {cl id : Nat}

/-! ### Walks (12 R234, R235) -/

/-- With no other miss to its page the oldest walk ends alone. -/
theorem exec_pageWalkComplete {k : Walk} {rest : List Walk} (hwalks : (s.cluster cl).walks = k :: rest)
    (halone : ∀ j ∈ rest, halfOf j.process j.va.toNat ≠ halfOf k.process k.va.toNat ∨ j.va.toNat / 4096 ≠ k.va.toNat / 4096) :
    exec (.pageWalkComplete cl) s = .next ((s.setCluster cl { s.cluster cl with walks := rest }).finishWalk cl k) := by
  have hnone : rest.filter (fun j => halfOf j.process j.va.toNat = halfOf k.process k.va.toNat && j.va.toNat / 4096 = k.va.toNat / 4096) = [] :=
    List.filter_eq_nil_iff.2 (fun j hj => by simpa [imp_iff_not_or] using halone j hj)
  have hall : rest.filter (fun j => !(halfOf j.process j.va.toNat = halfOf k.process k.va.toNat && j.va.toNat / 4096 = k.va.toNat / 4096)) = rest :=
    List.filter_eq_self.2 (fun j hj => by simpa [imp_iff_not_or] using halone j hj)
  change execPageWalkComplete cl s = _
  unfold execPageWalkComplete
  simp only [hwalks, hnone, hall, List.foldl_cons, List.foldl_nil]

/-- Who asks for a prefetch's translation. -/
def State.walkAsker (s : State) (cl : Nat) (k : Walk) : Asker :=
  { process := k.process, user := k.user, secure := ((s.process? k.process).map (·.secure)).getD false, cluster := cl, core := some k.core
    fresh := s.fresh + 4096 }

/-- What a walk that succeeds fills on its way: the TLBs with its translation, and the LLC with a line of the host. -/
def State.walkFilled (s : State) (k : Walk) (p : Place) (a : Nat) (x : Option Xlat) : State :=
  (match x with
    | some x => s.fillCoreTlb k.core x
    | none => s).holdHostLine p a

section

variable {k : Walk} {p : Place} {a : Nat} {rep : Bool} {x : Option Xlat}

/-- A walk that brings no line to L1 ends with the TLBs and the LLC filled. -/
theorem State.finishWalk_of_skip (h : s.resolve (s.walkAsker cl k) k.va.toNat = .ok (p, a, rep, x))
    (hskip : k.fillL1 = false ∨ (s.walkFilled k p a x).isPoisoned p a = true) : s.finishWalk cl k = s.walkFilled k p a x := by
  have hno : (!k.fillL1 || (s.walkFilled k p a x).isPoisoned p a || (s.walkFilled k p a x).ownedLine p a 1) = true := by
    rcases hskip with h | h <;> simp [h]
  unfold State.finishWalk
  simp only [State.walkAsker] at h
  simp only [h]
  exact if_pos hno

/-- A walk brings a line of this package or of the host to L1, where no engine owns it. -/
theorem State.finishWalk_of_fill (h : s.resolve (s.walkAsker cl k) k.va.toNat = .ok (p, a, rep, x)) (hfill : k.fillL1 = true)
    (hclean : (s.walkFilled k p a x).isPoisoned p a = false) (hfree : (s.walkFilled k p a x).ownedLine p a 1 = false)
    (hpeer : p.isPeer = false) : s.finishWalk cl k = (s.walkFilled k p a x).fillL1 k.dom p a := by
  have hgo : (!k.fillL1 || (s.walkFilled k p a x).isPoisoned p a || (s.walkFilled k p a x).ownedLine p a 1) = false := by
    rw [hfill, hclean, hfree]
    rfl
  unfold State.finishWalk
  simp only [State.walkAsker] at h
  simp only [h]
  refine (if_neg (Bool.eq_false_iff.1 hgo)).trans ?_
  cases p with
  | peer => cases hpeer
  | _ => rfl

/-- A fault ends a walk silently. -/
theorem State.finishWalk_of_error {c : Byte} (h : s.resolve (s.walkAsker cl k) k.va.toNat = .error c) : s.finishWalk cl k = s := by
  unfold State.finishWalk
  simp only [State.walkAsker] at h
  simp only [h]

end

/-! ### Shoot-downs (12 R236) -/

/-- A translation survives the shoot-down of these pages. -/
def Shootdown.spares (d : Shootdown) (x : Xlat) : Bool :=
  let lo := d.start.toNat / 4096 * 4096
  !(x.process = halfOf d.process lo && x.page < lo + d.pages * 4096 && lo < x.page + x.size)

/-- A part was translated under an entry that the shoot-down drops. -/
def Shootdown.covers (d : Shootdown) (process : Nat) (p : Part) : Bool :=
  let lo := d.start.toNat / 4096 * 4096
  halfOf process p.va = halfOf d.process lo && p.va < lo + d.pages * 4096 && lo < p.va + p.size

/-- The accesses of a cluster made under the entries that a shoot-down drops, and still out. -/
def State.madeUnder (s : State) (cl : Nat) (d : Shootdown) : List Nat :=
  (s.inflight.filter (fun a => !a.2.returned && !a.2.cancelled && a.2.core / 32 = cl && a.2.parts.any (d.covers a.2.process))).map (·.1)

theorem State.mem_madeUnder {d : Shootdown} {i : Nat} {a : Access} {p : Part} (hmem : (i, a) ∈ s.inflight) (hret : a.returned = false)
    (hcan : a.cancelled = false) (hcl : a.core / 32 = cl) (hp : p ∈ a.parts) (hcov : d.covers a.process p = true) : i ∈ s.madeUnder cl d := by
  refine List.mem_map.2 ⟨(i, a), List.mem_filter.2 ⟨hmem, ?_⟩, rfl⟩
  have hany : a.parts.any (d.covers a.process) = true := List.any_eq_true.2 ⟨p, hp, hcov⟩
  simp [hret, hcan, hcl, hany]

/-- A shoot-down that has come drops its translations in the cluster and in its cores, and notes what is still out under them. -/
theorem exec_shootdownReceipt {d : Shootdown} (hd : (s.cluster cl).shootdowns.find? (fun d => d.id = id && !d.received) = some d) :
    exec (.shootdownReceipt cl id) s = .next (State.setCluster { s with
        cores := s.cores.map (fun (c : ℕ × Core) => if c.1 / 32 = cl then (c.1, { c.2 with tlb := c.2.tlb.filter d.spares }) else c) } cl
      { s.cluster cl with
        tlb := (s.cluster cl).tlb.filter d.spares
        shootdowns := (s.cluster cl).shootdowns.map (fun e =>
          if e.id = id then { e with received := true, awaits := s.madeUnder cl d } else e) }) := by
  change execShootdownReceipt cl id s = _
  unfold execShootdownReceipt
  simp only [hd]
  rfl

/-- No access of this number is out, nor a write of it on its way to a replica. -/
def State.isDone (s : State) (i : Nat) : Bool :=
  ((Store.find? s.inflight i).map (fun a => a.returned || a.cancelled)).getD true && s.replicaWrites.all (fun w => w.id ≠ i)

theorem State.isDone_iff (s : State) (i : Nat) : s.isDone i = true ↔
    (∀ a, Store.find? s.inflight i = some a → a.returned = true ∨ a.cancelled = true) ∧ ∀ w ∈ s.replicaWrites, w.id ≠ i := by
  unfold State.isDone
  cases Store.find? s.inflight i <;> simp

theorem exec_shootdownAck {d : Shootdown} (hd : (s.cluster cl).shootdowns.find? (fun d => d.id = id && d.received) = some d) :
    exec (.shootdownAck cl id) s = .next (if d.awaits.all s.isDone then
      s.setCluster cl { s.cluster cl with shootdowns := (s.cluster cl).shootdowns.filter (fun e => e.id ≠ id) } else s) := by
  change execShootdownAck cl id s = _
  unfold execShootdownAck
  simp only [hd]
  exact (apply_ite Host.Outcome.next ..).symm

end

section

variable {s : State} {id : Nat} {a : Access} {p : Part}

/-! ### Atomics and reductions at their home (10 R202 to R206) -/

theorem returned_of_due (h : s.due id a = true) : a.returned = false := by
  simpa using (Bool.and_eq_true_iff.1 h).1

theorem notPeer_of_single (hone : a.parts = [p]) (hpeer : p.place.isPeer = false) : ∀ q ∈ a.parts, q.place.isPeer = false := by
  simp [hone, hpeer]

/-- An atomic of this package that is due is performed. -/
theorem State.completeAtom_of_atom {d : Reg} {kind : AtomKind} {ty : AtomTy} {scope : Sys2Proof.Scope}
    (ha : Store.find? s.inflight id = some a) (hkind : a.kind = .atom (some d) kind ty scope)
    (hlocal : ∀ q ∈ a.parts, q.place.isPeer = false) (hdue : s.due id a = true) :
    s.completeAtom id = s.atomPerform id a (some d) kind ty scope := by
  unfold State.completeAtom
  simp only [ha, hkind, returned_of_due hdue, State.sendParts_local _ _ _ _ _ hlocal, hdue, Bool.or_false, Bool.false_eq_true, if_false, if_true]

/-- A reduction of this package that is due, with none of the slice's before it, is applied. -/
theorem State.completeAtom_of_redm {kind : RedKind} {ty : Ty} (ha : Store.find? s.inflight id = some a) (hkind : a.kind = .redm kind ty)
    (hlocal : ∀ q ∈ a.parts, q.place.isPeer = false) (hdue : s.due id a = true) (hahead : s.redmAhead id a = false) :
    s.completeAtom id = s.redmPerform id a kind ty := by
  unfold State.completeAtom
  simp only [ha, hkind, returned_of_due hdue, State.sendParts_local _ _ _ _ _ hlocal, hdue, hahead, Bool.or_false, Bool.false_and,
    Bool.false_eq_true, if_false, if_true]

theorem exec_atomHomePerform {d : Option Reg} {kind : AtomKind} {ty : AtomTy} {scope : Sys2Proof.Scope}
    (ha : Store.find? s.inflight id = some a) (hkind : a.kind = .atom d kind ty scope) :
    exec (.atomHomePerform id) s = .next (s.completeAtom id) := by
  change execAtomHomePerform id s = _
  unfold execAtomHomePerform
  rw [ha]
  cases a
  cases hkind
  rfl

theorem exec_redmApply {kind : RedKind} {ty : Ty} (ha : Store.find? s.inflight id = some a) (hkind : a.kind = .redm kind ty) :
    exec (.redmApply id) s = .next (s.completeAtom id) := by
  change execRedmApply id s = _
  unfold execRedmApply
  rw [ha]
  cases a
  cases hkind
  rfl

/-- An atomic of one location of this package: the location is read and written, and its old value returns. -/
theorem State.atomPerform_single {d : Reg} {kind : AtomKind} {ty : AtomTy} {scope : Sys2Proof.Scope} (hone : a.parts = [p])
    (hpeer : p.place.isPeer = false) (hgot : p.got = none) :
    let m := s.meet a.core a.slot a.gen a.slice (some scope) p.place p.addr p.size
    let r := (m.deny a p).homeRmw a.secure p id (m.fresh + 8192 + 32 * p.lane) (fun old => atomNew kind ty old (bytesVal p.data) (bytesVal p.cmp))
    let u := (r.2.passL1 a.dom p.place p.addr p.size).countHome p.place p.addr 9
    s.atomPerform id a (some d) kind ty scope =
      ((((u.deliverLanes id a d ty.ty.wide [(p.lane, r.1)]).forget id a).deferErrors a).acquireFor a scope).finish id a := by
  unfold State.atomPerform
  simp only [hone, hgot, hpeer, List.foldl_cons, List.foldl_nil, List.filterMap_cons, List.filterMap_nil, List.filter_cons, List.filter_nil,
    Bool.not_false, if_true, State.atomParts, List.map_nil, List.append_nil]

theorem State.redmPerform_single {kind : RedKind} {ty : Ty} (hone : a.parts = [p]) (hpeer : p.place.isPeer = false) :
    let r := (s.deny a p).homeRmw a.secure p id (s.fresh + 8192 + 32 * p.lane) (fun old => (treeNode kind.tree ty old (bytesVal p.data)).val)
    s.redmPerform id a kind ty =
      (((r.2.countHome p.place p.addr 10).passL1 a.dom p.place p.addr p.size).deferErrors a).finish id a := by
  unfold State.redmPerform
  simp only [hone, hpeer, List.filter_cons, List.filter_nil, Bool.not_false, if_true, List.foldl_cons, List.foldl_nil]

/-! ### Writes on their way to a replica (12 R243, 13 R266) -/

theorem exec_replicaUpdate {die : Nat} {w : ReplicaWrite} (hw : s.replicaWrites.find? (fun w => w.die = die) = some w) :
    exec (.replicaUpdate die) s = .next (s.applyReplica w) := by
  change Host.Outcome.next (s.replicaStep die) = _
  rw [State.replicaStep, hw]

/-- With no write for its die nothing reaches a replica. -/
theorem exec_replicaUpdate_idle {die : Nat} (h : ∀ w ∈ s.replicaWrites, w.die ≠ die) : exec (.replicaUpdate die) s = .next s := by
  change Host.Outcome.next (s.replicaStep die) = _
  rw [State.replicaStep, List.find?_eq_none.2 (fun w hw => by simpa using h w hw)]

/-- With the only write on its way come, its die sees every byte of it as the home does. -/
theorem State.applyReplica_only {w : ReplicaWrite} (h : s.replicaWrites = [w]) : s.applyReplica w = { s.bumpDie w.die 8 1 with
    replicaWrites := []
    stale := w.bytes.zipIdx.foldl (fun m b => Store.erase m (staleKey w.place (w.addr + b.2) w.die)) s.stale } := by
  unfold State.applyReplica
  simp only [h, List.erase_cons_head, List.any_nil, Bool.false_eq_true, if_false]

end

/-- Settles O52, event by event; that a die's replica takes the oldest write first is the model's reading (log 67). -/
theorem memorySystemEventsComplete : Obligations.MemorySystemEventsComplete := by
  refine ⟨fun s cl k rest hwalks halone => ?walk, fun s cl id d hd => ?receipt, fun s cl id d hd => ?ack,
    fun s id a p d kind ty scope ha hkind hone hpeer hgot hdue => ?atom, fun s id a p kind ty ha hkind hone hpeer hdue hahead => ?redm,
    fun s die => ?replica⟩
  case walk =>
    have hwalk := exec_pageWalkComplete hwalks halone
    exact ⟨fun p a rep x hok => ⟨fun hskip => hwalk.trans (congrArg _ (State.finishWalk_of_skip hok hskip)),
        fun hfill hclean hfree hpeer => hwalk.trans (congrArg _ (State.finishWalk_of_fill hok hfill hclean hfree hpeer))⟩,
      fun c herr => hwalk.trans (congrArg _ (State.finishWalk_of_error herr))⟩
  case receipt =>
    refine ⟨_, exec_shootdownReceipt hd, fun i a p hmem hret hcan hcl hp hhalf hhi hlo => State.mem_madeUnder hmem hret hcan hcl hp ?_⟩
    simp [Shootdown.covers, hhalf, hhi, hlo]
  case ack =>
    have hack := exec_shootdownAck hd
    refine ⟨fun hall => hack.trans (congrArg _ (if_pos ?_)), fun hsome => hack.trans (congrArg _ (if_neg ?_))⟩
    · exact List.all_eq_true.2 (fun i hi => (s.isDone_iff i).2 (hall i hi))
    · intro hall
      obtain ⟨i, hi, hout⟩ := hsome
      obtain ⟨hreturned, hreplica⟩ := (s.isDone_iff i).1 (List.all_eq_true.1 hall i hi)
      rcases hout with ⟨a, ha, hret, hcan⟩ | ⟨w, hw, hid⟩
      · simpa [hret, hcan] using hreturned a ha
      · exact hreplica w hw hid
  case atom =>
    exact (exec_atomHomePerform ha hkind).trans (congrArg _ ((State.completeAtom_of_atom ha hkind (notPeer_of_single hone hpeer) hdue).trans
      (State.atomPerform_single hone hpeer hgot)))
  case redm =>
    exact (exec_redmApply ha hkind).trans (congrArg _ ((State.completeAtom_of_redm ha hkind (notPeer_of_single hone hpeer) hdue hahead).trans
      (State.redmPerform_single hone hpeer)))
  case replica =>
    refine ⟨fun w hw => exec_replicaUpdate hw, exec_replicaUpdate_idle, fun w hone hdie => ?_⟩
    subst hdie
    exact (exec_replicaUpdate (by simp [hone])).trans (congrArg _ (State.applyReplica_only hone))

end Sys2Proof.Machine
end

section
/-!
PROOFS. Fetches into the instruction store and deliveries to a floating-point handler (02 R44, 08 R172, 09 R186, 12 R245).
-/

namespace Sys2Proof.Machine

section

variable {s : State} {core index : Nat} {e : Segment}

/-! ### Segment fetches (12 R245) -/

/-- A segment is fetched with the rights of the process that asked for it. -/
def State.segmentAsker (s : State) (core : Nat) (e : Segment) : Asker :=
  { process := e.process, user := e.user, secure := ((s.process? e.process).map (·.secure)).getD false, fetch := true
    cluster := core / 32, fresh := s.fresh + 4096 }

/-- A fetch that was pinned out starts in the slot that has come free. -/
theorem exec_segmentFetchComplete_start (he : (s.core core).istore[index]? = some e) (hwords : e.words = none)
    (hstarted : e.started = false) {k : Core} (hslot : (s.core core).takeSlot = some k) :
    exec (.segmentFetchComplete core index) s = .next (s.setCore core
      { k with istore := k.istore.map (fun f => if f = e then { e with started := true } else f) }) := by
  change execSegmentFetchComplete core index s = _
  unfold execSegmentFetchComplete
  simp only [he]
  rw [if_neg (by simp [hwords]), if_pos (by simp [hstarted]), hslot]

/-- A fetch that runs and whose bytes can be read leaves its segment's words in its slot. -/
theorem exec_segmentFetchComplete_enter (he : (s.core core).istore[index]? = some e) (hwords : e.words = none)
    (hstarted : e.started = true) (hlast : e.seg.toNat ≤ e.lastSeg) {bs : List Byte}
    (hread : s.readVirtual (s.segmentAsker core e) ((e.code.toNat + 4096 * e.seg.toNat) % 2 ^ 64) 4096 = .ok bs) :
    exec (.segmentFetchComplete core index) s = .next (s.setCore core { s.core core with
      istore := (s.core core).istore.map (fun f =>
        if f = e then { e with words := some (segmentWords bs), entered := s.serial } else f) }) := by
  unfold State.segmentAsker at hread
  change execSegmentFetchComplete core index s = _
  unfold execSegmentFetchComplete
  simp only [he]
  rw [if_neg (by simp [hwords]), if_neg (by simp [hstarted]), if_neg (Nat.not_lt.2 hlast), hread]

end

section

variable {s : State} {w : SliceRef} {x : Wave} {t : Trap}

/-! ### Deliveries (08 R172) -/

theorem exec_userTrapDelivery (hx : s.wave? w.core w.slot = some x) (hwait : (x.slice w.slice).wait = some (.delivery t)) :
    exec (.userTrapDelivery w) s = .next (s.deliverDue w.core w.slot w.slice t) := by
  change execUserTrapDelivery w s = _
  unfold execUserTrapDelivery
  rw [State.slice?_of_wait hx hwait]
  cases hsl : x.slice w.slice
  rw [hsl] at hwait
  cases hwait
  rfl

/-- Delivery leaves the slice at its handler, past a region edge, and out of its gang. -/
theorem State.deliver_of_slice {c slot k : Nat} {sl : Slice} (h : s.slice? c slot k = some sl) (pc : Pc) (t : Trap) :
    s.deliver c slot k pc t = ((s.modSlice c slot k (fun sl => { (sl.setTrapRegs k t) with
      handler := some sl.mask, pc, wait := none })).closeRegion c slot k sl.lastLive sl.pc).modWave c slot (·.leaveGang k) := by
  rw [State.deliver, h]

end

/-- Settles O24: a fetch starts or its words enter, and a delivery whose waits are over takes place.  What a delivery waits for at its
edge is the model's reading (log 41), and so is that the tvec of that moment names the handler (log 82). -/
theorem segmentsAndDeliveriesComplete : Obligations.SegmentsAndDeliveriesComplete := by
  refine ⟨fun s core index e he hwords => ⟨fun hstarted k hslot => ?start, fun hstarted hlast bs hread => ?enter⟩,
    fun s w x p h t hx hwait hp hh hlast hseg hcom hout hdef => ?deliver⟩
  case start => exact exec_segmentFetchComplete_start he hwords hstarted hslot
  case enter => exact exec_segmentFetchComplete_enter he hwords hstarted hlast hread
  case deliver =>
    have hsl : s.slice? w.core w.slot w.slice = some (x.slice w.slice) := State.slice?_of_wait hx hwait
    have hdue : s.deliverDue w.core w.slot w.slice t = s.deliver w.core w.slot w.slice h t :=
      State.deliverDue_landed hx hsl hp hh hlast hseg hout hcom hdef t
    rw [exec_userTrapDelivery hx hwait, hdue, State.deliver_of_slice hsl]

end Sys2Proof.Machine
end

section
/-!
PROOFS. Matrix storage (14 R279 to R281, R283, R286): records, weight slots and tiles are taken, emptied and handed over by a gang of one
slice.
-/

namespace Sys2Proof.Machine

open Claim

section

variable {s : State} {x : Wave} {k : Nat}

/-! ### The driver of slice-wise instructions -/

section

variable {sh : Shape} {edge : Bool} {go : State → Ctx → Slice → List Nat → Act} {f : State → State}

/-- A gang of one slice whose plan goes on takes its effect. -/
theorem issueEach_go_one {plan : State → Ctx → Slice → Act} (hw : s.wave? s.now.core s.now.slot = some x) (hk : s.now.slices = [k])
    (hp : plan s (s.ctx x k) (x.slice k) = .go f) : issueEach plan s = f s := by
  simp [issueEach, hw, hk, hp, Act.isStall, Act.wait?, waitTogether, commitAct]

/-- With no lane executing a slice-wise instruction only goes on. -/
theorem issueSliceWise_idle (hr : Ready s x) (hk : s.now.slices = [k]) (hf : x.Fields sh.fields) (hl : x.lanes sh.g k = []) :
    issueEach (planSliceWise sh edge go) s = s.advance sh [] k := by
  refine issueEach_go_one hr.wave hk (f := fun t => t.advance sh [] k) ?_
  unfold planSliceWise
  simp only [workLanes_all, hl, List.isEmpty_nil, Bool.not_true, Bool.and_false, Slice.atEdge, Bool.false_eq_true, if_false, if_true,
    hr.operands (mem_slices_of_one hk) _ hf]
  rfl

/-- With a lane executing, a slice-wise instruction that may go on takes its effect. -/
theorem issueSliceWise_go (hr : Ready s x) (he : Edged s x) (hk : s.now.slices = [k]) (hf : x.Fields sh.fields) (hl : x.lanes sh.g k ≠ [])
    (hgo : go s (s.ctx x k) (x.slice k) (x.lanes sh.g k) = .go f) : issueEach (planSliceWise sh edge go) s = f s := by
  have hmem := mem_slices_of_one hk
  refine issueEach_go_one hr.wave hk ?_
  unfold planSliceWise
  simp only [workLanes_all, (hr.quiet hmem).atEdge, hr.operandsAtEdge hmem _ _ hf he, hgo]
  rw [if_neg (by simpa using hl)]

/-- The same of one that changes what the wave holds and is done. -/
theorem issueSliceWise_holds (hr : Ready s x) (he : Edged s x) (hk : s.now.slices = [k]) (hf : x.Fields sh.fields) (hl : x.lanes sh.g k ≠ [])
    {hold : Wave → Wave} (hgo : go s (s.ctx x k) (x.slice k) (x.lanes sh.g k)
      = .go (fun t => (t.modNowWave hold).matrixDone sh edge (s.ctx x k) (x.slice k) (x.lanes sh.g k))) :
    issueEach (planSliceWise sh edge go) s = (s.modNowWave hold).matrixDone sh edge (s.ctx x k) (x.slice k) (x.lanes sh.g k) :=
  issueSliceWise_go hr he hk hf hl hgo

end

/-! ### Operands -/

theorem Wave.fields_bare (x : Wave) (g : Option Guard) : x.Fields (Shape.fields { g, srcs := [] }) := x.fields_nil
theorem ObresOp.shape_fields (x : Wave) (o : ObresOp) : x.Fields (ObresOp.shape o).fields :=
  Wave.fields_of_s (by simp [ObresOp.shape, Shape.fields, quadSrcs])
theorem WldOp.shape_fields (x : Wave) (o : WldOp) : x.Fields (WldOp.shape o).fields :=
  Wave.fields_of_s (by simp [WldOp.shape, Shape.fields, quadSrcs])
theorem MstatOp.shape_fields (x : Wave) (o : PairOp) : x.Fields (MstatOp.shape o).fields :=
  Wave.fields_of_s (by simp [MstatOp.shape, Shape.fields, pairReg])

/-- Register i of the descriptor of a matrix instruction in slice k. -/
def Wave.descriptor (x : Wave) (k : Nat) (q : SQuad) (i : Nat) : Nat := ((x.slice k).raw (.s (4 * q.toNat + i))).toNat

theorem Ready.descriptor (hr : Ready s x) (hk : k ∈ s.now.slices) (q : SQuad) :
    ((s.ctx x k).quad (x.slice k) q).map (fun (r : W32) => r.toNat)
      = [x.descriptor k q 0, x.descriptor k q 1, x.descriptor k q 2, x.descriptor k q 3] := by
  rw [hr.quad hk]
  rfl

/-! ### Records (14 R279, R280) -/

section

variable {o : ObresOp}

/-- Extent, stride and addresses of an OBRES are in rule (14 R279). -/
structure ObresInRule (x : Wave) (k : Nat) (o : ObresOp) : Prop where
  extent_pos : 0 < x.descriptor k o.quad 1
  extent_le : x.descriptor k o.quad 1 ≤ 65536
  stride_pos : 0 < x.descriptor k o.quad 3
  base_aligned : x.descriptor k o.quad 0 % 16 = 0
  stride_aligned : x.descriptor k o.quad 3 % 16 = 0
  blocks : o.fmt = .q4 → x.descriptor k o.quad 3 % (blockLen o.wide / 2) = 0

/-- An OBRES checks its descriptor for nothing else. -/
theorem ObresInRule.accepted (h : ObresInRule x k o) :
    ¬ (decide (x.descriptor k o.quad 1 = 0) || decide (65536 < x.descriptor k o.quad 1) || decide (x.descriptor k o.quad 3 = 0)
      || decide (x.descriptor k o.quad 0 % 16 ≠ 0) || decide (x.descriptor k o.quad 3 % 16 ≠ 0)
      || (o.fmt == .q4 && decide (x.descriptor k o.quad 3 % (blockLen o.wide / 2) ≠ 0))) = true := by
  have hpos := h.extent_pos
  have hle := h.extent_le
  have hstride := h.stride_pos
  simp only [h.base_aligned, h.stride_aligned, Bool.or_eq_true, Bool.and_eq_true, decide_eq_true_eq, beq_iff_eq]
  rintro (hbad | ⟨hq, hbad⟩)
  · omega
  · exact hbad (h.blocks hq)

/-- The scratch ranges of an OBRES: its rows, and for q4 its scales. -/
def obresRanges (x : Wave) (k : Nat) (o : ObresOp) : List (Nat × Nat) :=
  (x.descriptor k o.quad 0, x.descriptor k o.quad 1) :: (if o.fmt = .q4 then
    [(x.descriptor k o.quad 2, (x.descriptor k o.quad 1 + x.descriptor k o.quad 3 - 1) / x.descriptor k o.quad 3
      * (2 * x.descriptor k o.quad 3 / blockLen o.wide))] else [])

/-- The record that an OBRES makes of what it read. -/
def obresRecord (x : Wave) (k : Nat) (o : ObresOp) (bs : List (List Byte)) : ObRecord :=
  { base := x.descriptor k o.quad 0, extent := x.descriptor k o.quad 1, stride := x.descriptor k o.quad 3, fmt := o.fmt, wide := o.wide
    snap := bs.getD 0 [], scales := bs.getD 1 [], cls := x.prio.toNat }

/-- OBRES with a descriptor in rule, a snapshot to take, no MMA on its record and room makes the record. -/
theorem exec_obres (hr : Ready s x) (he : Edged s x) (hk : s.now.slices = [k]) {bs : List (List Byte)}
    (hl : x.lanes o.g k ≠ []) (hrule : ObresInRule x k o)
    (hsnap : s.snapshot (s.ctx x k) (x.lanes o.g k) (obresRanges x k o) = .ok bs) (hfree : (s.ctx x k).recordBusy o.d.toNat = false)
    (hroom : roomFor ((s.ctx x k).heldBut { x with records := Store.erase x.records o.d.toNat } (·.heldRecords)) 262144 196608
      (obresRecord x k o bs).cls (obresRecord x k o bs).room = true) :
    exec (.obres o) s = .next ((s.modNowWave (fun w => { w with records := Store.insert w.records o.d.toNat (obresRecord x k o bs) })).matrixDone
      (ObresOp.shape o) true (s.ctx x k) (x.slice k) (x.lanes o.g k)) := by
  have hranges : (x.descriptor k o.quad 0, x.descriptor k o.quad 1) :: (if o.fmt = .q4 then [(x.descriptor k o.quad 2, if o.fmt = .q4 then
      (x.descriptor k o.quad 1 + x.descriptor k o.quad 3 - 1) / x.descriptor k o.quad 3
        * (2 * x.descriptor k o.quad 3 / blockLen o.wide) else 0)] else []) = obresRanges x k o := by
    unfold obresRanges
    split <;> rfl
  refine congrArg Host.Outcome.next (issueSliceWise_holds hr he hk (ObresOp.shape_fields x o) hl ?_)
  simp only [hr.descriptor (mem_slices_of_one hk), List.getD_cons_zero, List.getD_cons_succ, beq_iff_eq, hranges]
  simp only [ObresOp.shape, hsnap]
  rw [if_neg hrule.accepted, if_neg (by simp [hfree]), if_neg (by simpa [obresRecord] using hroom)]
  rfl

end

/-- OBREL with no MMA on its record empties it. -/
theorem exec_obrel (hr : Ready s x) (he : Edged s x) (hk : s.now.slices = [k]) {o : ObrelOp} (hl : x.lanes o.g k ≠ [])
    (hfree : (s.ctx x k).recordBusy o.d.toNat = false) :
    exec (.obrel o) s = .next ((s.modNowWave (fun w => { w with records := Store.erase w.records o.d.toNat })).matrixDone
      { g := o.g, srcs := [] } true (s.ctx x k) (x.slice k) (x.lanes o.g k)) :=
  congrArg Host.Outcome.next (issueSliceWise_holds hr he hk (x.fields_bare o.g) hl (if_neg (by simp [hfree])))

/-! ### Weight slots (14 R281) -/

section

variable {o : WldOp} {bs : List (List Byte)}

/-- Bytes of a row, of the scales and of the image of the panel that a WLD loads. -/
def wldRow (x : Wave) (k : Nat) (o : WldOp) : Nat := panelRow o.fmt (x.descriptor k o.quad 1)
def wldScales (x : Wave) (k : Nat) (o : WldOp) : Nat := panelScales o.fmt (blockLen o.wide) (x.descriptor k o.quad 1)
def wldImage (x : Wave) (k : Nat) (o : WldOp) : Nat := panelImage o.fmt (blockLen o.wide) (x.descriptor k o.quad 1)

/-- Address, depth and sizes of a WLD that reads these bytes are in rule (14 R281). -/
structure WldInRule (x : Wave) (k : Nat) (o : WldOp) (bs : List (List Byte)) : Prop where
  base_aligned : x.descriptor k o.quad 0 % 16 = 0
  depth_pos : 0 < x.descriptor k o.quad 1
  depth_mult : x.descriptor k o.quad 1 % 32 = 0
  fits : if o.z then wldImage x k o ≤ 32768 ∧ x.descriptor k o.quad 3 ≤ 16384
      ∧ maskBytes (wldImage x k o) + 64 * presentChunks (bs.getD 0 []) (wldImage x k o) ≤ x.descriptor k o.quad 3
    else wldRow x k o ≤ x.descriptor k o.quad 3 ∧ wldImage x k o ≤ 16384

/-- A WLD checks its address, its depth and its sizes for nothing else. -/
theorem WldInRule.address_accepted (h : WldInRule x k o bs) : ¬ (decide (x.descriptor k o.quad 0 % 16 ≠ 0)
    || decide (x.descriptor k o.quad 1 = 0) || decide (x.descriptor k o.quad 1 % 32 ≠ 0)) = true := by
  simp [h.base_aligned, h.depth_mult, h.depth_pos.ne']
theorem WldInRule.stream_accepted (h : WldInRule x k o bs) : ¬ (o.z && (decide (32768 < wldImage x k o)
    || decide (16384 < x.descriptor k o.quad 3) || decide (x.descriptor k o.quad 3 < maskBytes (wldImage x k o)))) = true := by
  have hfits := h.fits
  cases hz : o.z
  · simp
  · simp only [hz, if_true] at hfits
    simp only [Bool.true_and, Bool.or_eq_true, decide_eq_true_eq]
    omega
theorem WldInRule.panel_accepted (h : WldInRule x k o bs) :
    ¬ (!o.z && (decide (x.descriptor k o.quad 3 < wldRow x k o) || decide (16384 < wldImage x k o))) = true := by
  have hfits := h.fits
  cases hz : o.z
  · simp only [hz, Bool.false_eq_true, if_false] at hfits
    simp only [Bool.not_false, Bool.true_and, Bool.or_eq_true, decide_eq_true_eq]
    omega
  · simp
theorem WldInRule.chunks_accepted (h : WldInRule x k o bs) : ¬ (o.z && decide (x.descriptor k o.quad 3
    < maskBytes (wldImage x k o) + 64 * presentChunks (bs.getD 0 []) (wldImage x k o))) = true := by
  have hfits := h.fits
  cases hz : o.z
  · simp
  · simp only [hz, if_true] at hfits
    simp only [Bool.true_and, decide_eq_true_eq]
    omega

/-- The scratch ranges of a WLD: its stream, or its rows and their scales. -/
def wldRanges (x : Wave) (k : Nat) (o : WldOp) : List (Nat × Nat) :=
  if o.z then [(x.descriptor k o.quad 0, x.descriptor k o.quad 3)]
  else (x.descriptor k o.quad 0, 63 * x.descriptor k o.quad 3 + wldRow x k o)
    :: (if wldScales x k o = 0 then [] else [(x.descriptor k o.quad 2, wldScales x k o)])

/-- The slot that a WLD makes of what it read. -/
def wldSlot (s : State) (x : Wave) (k : Nat) (o : WldOp) (bs : List (List Byte)) : WeightSlot :=
  { fmt := o.fmt, wide := o.wide, kp := x.descriptor k o.quad 1, z := o.z, loaded := s.now.prompt, cls := x.prio.toNat
    bytes := if o.z then bs.getD 0 []
      else (List.range 64).flatMap (fun n => ((bs.getD 0 []).drop (n * x.descriptor k o.quad 3)).take (wldRow x k o)) ++ bs.getD 1 [] }

/-- WLD with a descriptor in rule, a snapshot to take, no MMA on its slot and room fills the slot. -/
theorem exec_wld (hr : Ready s x) (he : Edged s x) (hk : s.now.slices = [k]) (hl : x.lanes o.g k ≠ []) (hrule : WldInRule x k o bs)
    (hsnap : s.snapshot (s.ctx x k) (x.lanes o.g k) (wldRanges x k o) = .ok bs) (hfree : (s.ctx x k).slotBusy o.d.toNat = false)
    (hroom : roomFor ((s.ctx x k).heldBut { x with slots := Store.erase x.slots o.d.toNat } (·.heldSlots)) 131072 98304
      (wldSlot s x k o bs).cls (wldSlot s x k o bs).room = true) :
    exec (.wld o) s = .next ((s.modNowWave (fun w => { w with slots := Store.insert w.slots o.d.toNat (wldSlot s x k o bs) })).matrixDone
      (WldOp.shape o) false (s.ctx x k) (x.slice k) (x.lanes o.g k)) := by
  refine congrArg Host.Outcome.next (issueSliceWise_holds hr he hk (WldOp.shape_fields x o) hl ?_)
  simp only [hr.descriptor (mem_slices_of_one hk), List.getD_cons_zero, List.getD_cons_succ]
  rw [if_neg hrule.address_accepted]
  refine (if_neg hrule.stream_accepted).trans ((if_neg hrule.panel_accepted).trans ?_)
  have hnotfull : (!_) ≠ true := ne_of_eq_of_ne (congrArg Bool.not hroom) Bool.false_ne_true
  split
  case h_1 a herr => exact nomatch herr.symm.trans hsnap
  case h_2 bs' hbs =>
    obtain rfl : bs' = bs := Except.ok.inj (hbs.symm.trans hsnap)
    exact (if_neg hrule.chunks_accepted).trans ((if_neg (by simp [hfree])).trans (if_neg hnotfull))

end

/-- WINV with no MMA on its slot empties it. -/
theorem exec_winv (hr : Ready s x) (he : Edged s x) (hk : s.now.slices = [k]) {o : WinvOp} (hl : x.lanes o.g k ≠ [])
    (hfree : (s.ctx x k).slotBusy o.d.toNat = false) :
    exec (.winv o) s = .next ((s.modNowWave (fun w => { w with slots := Store.erase w.slots o.d.toNat })).matrixDone
      { g := o.g, srcs := [] } false (s.ctx x k) (x.slice k) (x.lanes o.g k)) :=
  congrArg Host.Outcome.next (issueSliceWise_holds hr he hk (x.fields_bare o.g) hl (if_neg (by simp [hfree])))

/-! ### Tiles and their tokens (14 R283, R286) -/

/-- The zero tile that an MZERO leaves: a claimed tile keeps the class under which it was taken (16 R304). -/
def zeroTile (x : Wave) (o : MzeroOp) : Tile :=
  { threads := false, ty := o.ty, elems := [], cls := match x.tile? o.d.toNat with
      | some t => t.cls
      | none => x.prio.toNat }

/-- MZERO of a tile that the unit holds, or of an unclaimed one that has room, zeroes it. -/
theorem exec_mzero (hr : Ready s x) (he : Edged s x) (hk : s.now.slices = [k]) {o : MzeroOp} (hl : x.lanes o.g k ≠ [])
    (hfree : s.tileBusy (s.ctx x k) o.d.toNat = false)
    (htile : (∃ t, x.tile? o.d.toNat = some t ∧ t.threads = false) ∨ (x.tile? o.d.toNat = none
      ∧ roomFor ((s.core s.now.core).held (·.heldTiles)) 16 12 x.prio.toNat 1 = true)) :
    exec (.mzero o) s = .next ((s.modNowWave (fun w => { w with tiles := Store.insert w.tiles o.d.toNat (zeroTile x o) })).matrixDone
      { g := o.g, srcs := [] } false (s.ctx x k) (x.slice k) (x.lanes o.g k)) := by
  refine congrArg Host.Outcome.next (issueSliceWise_holds hr he hk (x.fields_bare o.g) hl ?_)
  simp only [State.ctx_wave, State.ctx_core, zeroTile, hfree, Bool.false_eq_true, if_false]
  obtain ⟨t, ht, hunit⟩ | ⟨ht, hroom⟩ := htile
  · simp only [ht, Option.map_some, Option.getD_some, hunit, Option.isNone_some, Bool.false_and, Bool.false_eq_true, if_false]
    rfl
  · simp only [ht, Option.map_none, Option.getD_none, Option.isNone_none, hroom, Bool.not_true, Bool.and_false, Bool.false_eq_true, if_false]
    rfl

/-- MACQ of a tile that the unit holds, and that nothing works on, takes its token. -/
theorem exec_macq (hr : Ready s x) (he : Edged s x) (hk : s.now.slices = [k]) {o : TileOp} {t : Tile} (hl : x.lanes o.g k ≠ [])
    (hfree : s.tileBusy (s.ctx x k) o.d.toNat = false) (ht : x.tile? o.d.toNat = some t) (hunit : t.threads = false) :
    exec (.macq o) s = .next ((s.modNowWave (fun w => { w with tiles := Store.insert w.tiles o.d.toNat { t with threads := true } })).matrixDone
      { g := o.g, srcs := [] } true (s.ctx x k) (x.slice k) (x.lanes o.g k)) := by
  refine congrArg Host.Outcome.next (issueSliceWise_holds hr he hk (x.fields_bare o.g) hl ?_)
  simp only [State.ctx_wave, hfree, ht, hunit, Bool.false_eq_true, if_false]
  rfl

/-- MREL gives the token of a tile that the threads hold back to the unit; with free it gives up a tile that nothing works on. -/
theorem exec_mrel (hr : Ready s x) (he : Edged s x) (hk : s.now.slices = [k]) {o : MrelOp} {t : Tile} (hl : x.lanes o.g k ≠ [])
    (ht : x.tile? o.d.toNat = some t) (hok : if o.free then s.tileBusy (s.ctx x k) o.d.toNat = false else t.threads = true) :
    let held : Option Tile := if o.free then none else some { t with threads := false }
    exec (.mrel o) s = .next ((s.modNowWave (fun w => { w with tiles := Store.put w.tiles o.d.toNat held })).matrixDone
      { g := o.g, srcs := [] } true (s.ctx x k) (x.slice k) (x.lanes o.g k)) := by
  refine congrArg Host.Outcome.next (issueSliceWise_holds hr he hk (x.fields_bare o.g) hl ?_)
  simp only [State.ctx_wave, ht]
  cases hfree : o.free <;> simp only [hfree, Bool.false_eq_true, if_false, if_true] at hok
  · simp only [hok, Bool.false_and, Bool.not_true, Bool.and_false, Bool.false_eq_true, if_false]
    rfl
  · simp only [hok, Bool.and_false, Bool.not_true, Bool.false_and, Bool.false_eq_true, if_false]
    rfl

/-- MSTAT reads the state of the wave's tiles, records and slots into its pair. -/
theorem exec_mstat (hr : Ready s x) (he : Edged s x) (hk : s.now.slices = [k]) {o : PairOp} (hl : x.lanes o.g k ≠ []) :
    exec (.mstat o) s = .next ((s.modNow k (fun st => st.writeAll (writeFresh s.fresh k)
      (destWrites (pairReg o.p) true 0 (matrixState s (s.ctx x k))))).matrixDone
        (MstatOp.shape o) false (s.ctx x k) (x.slice k) (x.lanes o.g k)) :=
  congrArg Host.Outcome.next (issueSliceWise_go hr he hk (MstatOp.shape_fields x o) hl (f := fun t =>
    (t.modNow k (fun st => st.writeAll (writeFresh t.fresh k) (destWrites (pairReg o.p) true 0 (matrixState s (s.ctx x k))))).matrixDone
      (MstatOp.shape o) false (s.ctx x k) (x.slice k) (x.lanes o.g k)) rfl)

end

/-- Settles O29, instruction by instruction. -/
theorem matrixStorageCompletes : Obligations.MatrixStorageCompletes := by
  intro s x k hr he hk ctx sl v plain
  refine ⟨fun o bs hl => ?obres, fun o hl => exec_obrel hr he hk hl, fun o bs hl => ?wld, fun o hl => exec_winv hr he hk hl,
    fun o hl => exec_mzero hr he hk hl, fun o t hl => exec_macq hr he hk hl, fun o t hl => exec_mrel hr he hk hl,
    fun o hl => exec_mstat hr he hk hl, ?idle⟩
  case obres =>
    intro base extent stride per hpos hle hstride hbase hmult hblocks hsnap r
    exact exec_obres hr he hk hl ⟨hpos, hle, hstride, hbase, hmult, hblocks⟩ hsnap
  case wld =>
    intro base kp last row nsc image hbase hpos hmult hfits hsnap z
    exact exec_wld hr he hk hl ⟨hbase, hpos, hmult, hfits⟩ hsnap
  case idle =>
    have hidle {sh : Shape} {edge : Bool} {go : State → Ctx → Slice → List Nat → Act} (hf : x.Fields sh.fields) (hl : x.lanes sh.g k = []) :
      Host.Outcome.next (issueEach (planSliceWise sh edge go) s) = (.next (s.advance sh [] k) : Done) :=
        congrArg Host.Outcome.next (issueSliceWise_idle hr hk hf hl)
    exact ⟨fun o => hidle (ObresOp.shape_fields x o), fun o => hidle (x.fields_bare o.g), fun o => hidle (WldOp.shape_fields x o),
      fun o => hidle (x.fields_bare o.g), fun o => hidle (x.fields_bare o.g), fun o => hidle (x.fields_bare o.g),
      fun o => hidle (x.fields_bare o.g), fun o => hidle (MstatOp.shape_fields x o)⟩

end Sys2Proof.Machine
end

section
/-!
PROOFS. Thread access to tiles (14 R284): MRD and MWR over a gang whose tile has its token at the threads.
-/

namespace Sys2Proof.Machine

open Claim

section

variable {s : State} {x : Wave}

/-! ### Plans near those of a lane operation -/

theorem issuePlans_congr (hr : Ready s x) {plan plan' : Ctx → Slice → Plan} {after : List Committed → State → State}
    (h : ∀ k ∈ s.now.slices, plan (s.laneCtx x k) (x.slice k) = plan' (s.laneCtx x k) (x.slice k)) :
    issuePlans plan after s = issuePlans plan' after s := by
  have hp : plans plan s x = plans plan' s x := List.map_congr_left (fun k hk => congrArg (Prod.mk k) (h k hk))
  simp only [issuePlans, hr.wave, hp]

/-- A plan that runs, handing on these values. -/
def Plan.handing (p : Plan) (ps : List (Nat × Nat × W64)) : Plan :=
  match p with
  | .run sl fl us _ qs => .run sl fl us ps qs
  | p => p

@[simp] theorem Plan.handing_isStall (p : Plan) (ps : List (Nat × Nat × W64)) : (p.handing ps).isStall = p.isStall := by cases p <;> rfl
@[simp] theorem Plan.handing_stall? (p : Plan) (ps : List (Nat × Nat × W64)) : (p.handing ps).stall? = p.stall? := by cases p <;> rfl
@[simp] theorem Plan.handing_wait? (p : Plan) (ps : List (Nat × Nat × W64)) : (p.handing ps).wait? = p.wait? := by cases p <;> rfl
@[simp] theorem commitPlan_handing (s : State) (k : Nat) (p : Plan) (ps : List (Nat × Nat × W64)) :
    commitPlan s k (p.handing ps) = commitPlan s k p := by cases p <;> rfl

/-- Values that plans hand on change only what comes after the slices have run. -/
theorem issuePlans_handing (hr : Ready s x) {plan : Ctx → Slice → Plan} {after after' : List Committed → State → State}
    (hafter : ∀ l t, (∀ r ∈ l, r.queues = []) → after' l t = t) (ps : Ctx → Slice → List (Nat × Nat × W64))
    (hrun : ∀ k ∈ s.now.slices, ∃ sl fl us, plan (s.laneCtx x k) (x.slice k) = .run sl fl us [] []) :
    issuePlans (fun c sl => (plan c sl).handing (ps c sl)) after s
      = after (s.now.slices.map (fun k => { k, pushes := ps (s.laneCtx x k) (x.slice k), queues := [] })) (issuePlans plan after' s) := by
  have hstall : s.now.slices.any (fun k => (plan (s.laneCtx x k) (x.slice k)).isStall) = false := by
    refine List.any_eq_false.2 (fun k hk => ?_)
    obtain ⟨sl, fl, us, h⟩ := hrun k hk
    simp [h, Plan.isStall]
  have hwait : waitTogether (s.now.slices.map (fun k => (k, (plan (s.laneCtx x k) (x.slice k)).wait?))) = false := by
    have hnone : s.now.slices.map (fun k => (k, (plan (s.laneCtx x k) (x.slice k)).wait?)) = s.now.slices.map (fun k => (k, none)) := by
      refine List.map_congr_left (fun k hk => ?_)
      obtain ⟨sl, fl, us, h⟩ := hrun k hk
      rw [h]
      rfl
    obtain ⟨k, ks, hks⟩ := List.exists_cons_of_ne_nil hr.gang
    rw [hnone, hks]
    simp [waitTogether]
  have hplans (p : Ctx → Slice → Plan) : plans p s x = s.now.slices.map (fun k => (k, p (s.laneCtx x k) (x.slice k))) := rfl
  simp only [issuePlans, hr.wave, hplans, List.any_map, List.map_map, Function.comp_def, Plan.handing_isStall, Plan.handing_wait?, hstall,
    hwait, Bool.false_eq_true, if_false, List.foldl_map, commitPlan_handing, List.filterMap_map]
  rw [hafter]
  · congr 1
    rw [← List.filterMap_eq_map]
    refine List.filterMap_congr (fun k hk => ?_)
    obtain ⟨sl, fl, us, h⟩ := hrun k hk
    simp [h, Plan.handing]
  · intro r hmem
    obtain ⟨k, hk, hkr⟩ := List.mem_filterMap.1 hmem
    obtain ⟨sl, fl, us, h⟩ := hrun k hk
    simp only [h, Option.some.injEq] at hkr
    rw [← hkr]

/-! ### The token (14 R284) -/

/-- Where the threads hold the tile, a thread access runs as the operation on its operands does. -/
theorem planThread_of_threads {c : Ctx} {d : Nat} {t : Tile} (ht : c.wave.tile? d = some t) (hthreads : t.threads = true) {ops : List LaneOp}
    (hclear : ∀ o ∈ ops, o.Clear c.wave) (g : Option Guard) (sl : Slice) : planThread ops g d c sl = planSlice ops c sl := by
  simp [planThread, planChecks_clear sl hclear, ht, hthreads]

/-- Where nothing popped or pushed, a word of lane operations has nothing left to do for queues. -/
theorem commitQueues_clear (ops : List LaneOp) (l : List Committed) (t : State) (h : ∀ r ∈ l, r.queues = []) : commitQueues ops l t = t := by
  simp [commitQueues, List.flatMap_eq_nil_iff.2 h]

theorem clear_singleton {sh : Shape} (hf : x.Fields sh.fields) (f : LaneIn → LaneOut) : ∀ op ∈ [({ sh, f } : LaneOp)], op.Clear x := by
  intro op hop
  rw [List.mem_singleton.1 hop]
  exact LaneOp.clear_of_fields hf

/-- MRD reads each lane's element (14 R284). -/
theorem runs_mrd (hr : Ready s x) {t : Tile} (hthreads : t.threads = true) {o : MrdOp} (ht : x.tile? o.a.toNat = some t)
    (hf : x.Fields [(.v o.d, false), (o.b.reg, false)]) :
    Runs s x (.mrd o) [x.part o.g (some (.v o.d, false)) (fun k l =>
      word (Store.get t.elems 0 ((x.src k o.b false l).toNat % 4096)))] := by
  have hissue : issuePlans (planMrd o) (commitQueues [{ sh := MrdOp.shape o, f := fun _ => {} }]) s
      = issueLane (MrdOp.shape o) (fun l => word (t.get l.a.toNat)) s := by
    refine issuePlans_congr hr (fun k _ => ?_)
    refine (planThread_of_threads (c := s.laneCtx x k) ht hthreads (clear_singleton hf _) o.g _).trans ?_
    simp only [show (s.laneCtx x k).wave = x from rfl, ht]
    rfl
  exact ⟨_, rfl, hissue ▸ issueLane_ran hr (MrdOp.shape o) (fun l => word (t.get l.a.toNat)) rfl hf⟩

/-- MWR's lane operation, which writes no register. -/
def mwrOp (o : MwrOp) : LaneOp := { sh := MwrOp.shape o, f := fun _ => {} }

/-- What the lanes of a slice write by MWR: the element, the lane of the wave, the value. -/
def mwrWrites (o : MwrOp) (c : Ctx) (sl : Slice) : List (Nat × Nat × W64) :=
  ((mwrOp o).lanes sl).map (fun l => ((c.laneIn sl (MwrOp.shape o) l).b.toNat % 4096, 4 * c.k + l, (c.laneIn sl (MwrOp.shape o) l).a))

/-- In a ready gang these are the elements and values that the operands name. -/
theorem mwrWrites_ready (hr : Ready s x) {o : MwrOp} (hf : x.Fields [(o.a.reg, false), (o.b.reg, false)]) {k : Nat} (hk : k ∈ s.now.slices) :
    mwrWrites o (s.laneCtx x k) (x.slice k)
      = (x.lanes o.g k).map (fun l => ((x.src k o.b false l).toNat % 4096, 4 * k + l, x.src k o.a false l)) := by
  have hq : ∀ r ∈ (MwrOp.shape o).srcs, qNum? r.reg = none := by
    simp only [Wave.fields_cons] at hf
    obtain ⟨⟨ha, -⟩, ⟨hb, -⟩, -⟩ := hf
    simp [MwrOp.shape, srcOf, ha, hb]
  have hlanes : (mwrOp o).lanes (x.slice k) = x.lanes o.g k := LaneOp.lanes_worked (o := mwrOp o) rfl _
  simp only [mwrWrites, hlanes, laneIn_quiet (c := s.laneCtx x k) hr.shared (hr.quiet hk) _ hq]
  rfl

/-- MWR writes each lane's element, ascending (14 R284). -/
theorem exec_mwr (hr : Ready s x) {t : Tile} (hthreads : t.threads = true) {o : MwrOp} (ht : x.tile? o.d.toNat = some t)
    (hf : x.Fields [(o.a.reg, false), (o.b.reg, false)]) :
    ∃ u, Ran s u x (fun _ => [x.part o.g none (fun _ _ => {})])
      ∧ exec (.mwr o) s = .next (u.modNowWave (fun w => { w with tiles := Store.update w.tiles o.d.toNat (fun t =>
          (s.now.slices.flatMap (fun k => (x.lanes o.g k).map (fun l => ((x.src k o.b false l).toNat % 4096, low (x.src k o.a false l))))).foldl
            (fun (t : Tile) e => t.set e.1 e.2) t) })) := by
  have hclear := clear_singleton (sh := MwrOp.shape o) hf (fun _ => {})
  refine ⟨_, issueLane_ran hr (MwrOp.shape o) (fun _ => {}) rfl hf, congrArg Host.Outcome.next ?_⟩
  refine (issuePlans_congr hr (plan' := fun c sl => (planSlice [mwrOp o] c sl).handing (mwrWrites o c sl)) (fun k hk => ?plan)).trans
    ((issuePlans_handing hr (commitQueues_clear [mwrOp o]) _ (fun k hk => ?runs)).trans ?effect)
  case plan =>
    obtain ⟨ms, ws, us, hrun⟩ := planSlice_run (x := x) (c := s.laneCtx x) (k := k) rfl rfl hr.shared (hr.quiet hk) hr.tmask hclear
    unfold planMwr
    simp only [planThread_of_threads (c := s.laneCtx x k) ht hthreads hclear, mwrOp, hrun]
    rfl
  case runs =>
    obtain ⟨ms, ws, us, hrun⟩ := planSlice_run (x := x) (c := s.laneCtx x) (k := k) rfl rfl hr.shared (hr.quiet hk) hr.tmask hclear
    exact ⟨_, _, _, hrun⟩
  case effect =>
    have hpairs : s.now.slices.flatMap (fun k => (x.lanes o.g k).map (fun l => ((x.src k o.b false l).toNat % 4096, low (x.src k o.a false l))))
        = (s.now.slices.flatMap (fun k => mwrWrites o (s.laneCtx x k) (x.slice k))).map (fun e => (e.1, low e.2.2)) := by
      rw [List.map_flatMap]
      refine List.flatMap_congr (fun k hk => ?_)
      rw [mwrWrites_ready hr hf hk, List.map_map]
      rfl
    rw [commitQueues_clear _ _ _ (by simp), hpairs]
    simp only [List.flatMap_map, List.foldl_map]
    rfl

end

/-- Settles O30: the token lets both run as lane operations, and MWR's values go into the tile behind them. -/
theorem tileAccessCompletes : Obligations.TileAccessCompletes := fun _ _ _ hr hthreads =>
  ⟨fun _ => runs_mrd hr hthreads, fun _ => exec_mwr hr hthreads⟩

end Sys2Proof.Machine
end

section
/-!
PROOFS. Course-wide issue and matrix products (14 R281, R282, 16 R294 to R302): the courses of a gang, the pass that an MMA issues, its
entry into the array and its commit.
-/

namespace Sys2Proof.Machine

open Claim

section

variable {s : State} {x : Wave}

/-! ### The courses of the issuing gang (14 R282) -/

/-- The courses whose lower slice issues. -/
def State.courses (s : State) : List Nat := (s.now.slices.filter (fun k => k % 2 = 0)).map (· / 2)

/-- The gang holds its courses whole. -/
def Paired (s : State) : Prop := ∀ k ∈ s.now.slices, k ^^^ 1 ∈ s.now.slices

theorem State.lower_mem {c : Nat} (hc : c ∈ s.courses) : 2 * c ∈ s.now.slices := by
  obtain ⟨k, hk, rfl⟩ := List.mem_map.1 hc
  obtain ⟨hmem, heven⟩ := List.mem_filter.1 hk
  rwa [show 2 * (k / 2) = k from Nat.mul_div_cancel' (Nat.dvd_of_mod_eq_zero (by simpa using heven))]

theorem Paired.upper_mem (hp : Paired s) {c : Nat} (hc : c ∈ s.courses) : 2 * c + 1 ∈ s.now.slices := by
  have h := hp _ (State.lower_mem hc)
  rwa [Nat.xor_one_of_even (even_two_mul c)] at h

theorem Paired.course_mem (hp : Paired s) {k : Nat} (hk : k ∈ s.now.slices) : k / 2 ∈ s.courses := by
  refine List.mem_map.2 ?_
  rcases Nat.even_or_odd k with h | h
  · exact ⟨k, List.mem_filter.2 ⟨hk, by simpa using Nat.even_iff.1 h⟩, rfl⟩
  · have hmate := hp k hk
    rw [Nat.xor_one_of_odd h] at hmate
    obtain ⟨c, rfl⟩ := h
    exact ⟨2 * c, List.mem_filter.2 ⟨hmate, by simp⟩, by omega⟩

theorem Ready.courses_nodup (hr : Ready s x) : s.courses.Nodup := by
  refine (hr.nodup.filter _).map_on (fun a ha b hb h => ?_)
  have ha := (List.mem_filter.1 ha).2
  have hb := (List.mem_filter.1 hb).2
  simp only [decide_eq_true_eq] at ha hb
  omega

theorem Ready.courses_ne_nil (hr : Ready s x) (hp : Paired s) : s.courses ≠ [] := by
  obtain ⟨k, ks, hks⟩ := List.exists_cons_of_ne_nil hr.gang
  exact List.ne_nil_of_mem (hp.course_mem (k := k) (by simp [hks]))

/-- Whole courses whose checks all pass issue together. -/
theorem issueCourses_go (hr : Ready s x) (he : Edged s x) (hp : Paired s) {α : Type} {check : State → Ctx → Slice → Nat → Course α}
    {go : List (Nat × α) → State → State} (a : Nat → α)
    (hcheck : ∀ c ∈ s.courses, check s (s.ctx x (2 * c)) (x.slice (2 * c)) c = .ready (a c)) :
    issueCourses check go s = go (s.courses.map (fun c => (c, a c))) s := by
  have hout : s.now.slices.any (fun k => !(x.slice k).out.isEmpty) = false := by
    simp only [List.any_eq_false]
    intro k hk
    simp [(hr.quiet hk).out]
  have hlate : s.now.slices.filter (fun k => !(x.slice k).deferred.isEmpty) = [] := by
    simp only [List.filter_eq_nil_iff]
    intro k hk
    simp [(he k hk).1]
  have hpaired : s.now.slices.filter (fun k => s.now.slices.contains (k ^^^ 1)) = s.now.slices :=
    List.filter_eq_self.2 (fun k hk => List.contains_iff_mem.2 (hp k hk))
  have hready : s.courses.map (fun c => (c, check s (s.ctx x (2 * c)) ((x.slice (2 * c)).atEdge true) c))
      = s.courses.map (fun c => (c, Course.ready (a c))) :=
    List.map_congr_left (fun c hc => by rw [(hr.quiet (State.lower_mem hc)).atEdge, hcheck c hc])
  have hunpaired : s.now.slices.filter (fun k => !s.now.slices.contains k) = [] := by
    simp only [List.filter_eq_nil_iff]
    intro k hk
    simp [hk]
  unfold issueCourses
  simp only [hr.wave, hout, hlate, hpaired, Bool.false_eq_true, if_false, List.isEmpty_nil, Bool.not_true]
  rw [show (s.now.slices.filter (fun k => k % 2 = 0)).map (· / 2) = s.courses from rfl, hready, hunpaired]
  have hnone : s.courses.findSome? (fun _ => (none : Option Wait)) = none := List.findSome?_eq_none_iff.2 (fun _ _ => rfl)
  have hstay : s.courses.foldl (fun (t : State) _ => t) s = s := List.foldl_fixed _
  simp only [List.findSome?_map, List.any_map, Function.comp_def, List.foldl_map, List.filterMap_map, List.foldl_nil, hnone, hstay,
    List.filterMap_eq_map']
  simp [hr.courses_ne_nil hp]

/-! ### What the issue of a course changes -/

theorem State.core_passes_modSlice (s : State) (c w k d : Nat) (f : Slice → Slice) :
    ((s.modSlice c w k f).core d).passes = (s.core d).passes := by
  unfold State.modSlice
  split
  · rfl
  · split
    · rfl
    · by_cases hd : d = c
      · subst hd
        simp [State.setWave, State.core_setCore]
      · simp [State.setWave, State.core, State.setCore, Store.find?_insert_ne _ _ hd]

theorem State.wave?_modSlice (s : State) (c w k : Nat) (f : Slice → Slice) {y : Wave} (h : s.wave? c w = some y) :
    ∃ m, (s.modSlice c w k f).wave? c w = some { y with slices := m } := by
  unfold State.modSlice
  rw [h]
  simp only []
  split
  · exact ⟨y.slices, h⟩
  · exact ⟨_, State.wave?_setWave ..⟩

/-- u is s but for slices of the wave that issues. -/
structure SlicesOnly (s u : State) (x : Wave) : Prop where
  now : u.now = s.now
  serial : u.serial = s.serial
  passes : (u.core s.now.core).passes = (s.core s.now.core).passes
  wave : ∃ m, u.wave? s.now.core s.now.slot = some { x with slices := m }

theorem Ready.slicesOnly (hr : Ready s x) : SlicesOnly s s x := ⟨rfl, rfl, rfl, x.slices, hr.wave⟩

theorem SlicesOnly.modNow {u : State} (h : SlicesOnly s u x) (k : Nat) (f : Slice → Slice) : SlicesOnly s (u.modNow k f) x := by
  obtain ⟨m, hm⟩ := h.wave
  unfold State.modNow
  rw [h.now]
  obtain ⟨m', hm'⟩ := State.wave?_modSlice u s.now.core s.now.slot k f hm
  exact ⟨(State.now_modSlice ..).trans h.now, (State.serial_modSlice ..).trans h.serial,
    (State.core_passes_modSlice ..).trans h.passes, m', hm'⟩

theorem SlicesOnly.advanceCourse {u : State} (h : SlicesOnly s u x) (sh : Shape) (c : Nat) : SlicesOnly s (u.advanceCourse sh c) x :=
  (((h.modNow _ _).modNow _ _).modNow _ _).modNow _ _

/-- The pc of a slice of the gang that issues. -/
def State.pcNow (s : State) (j : Nat) : Option Pc := (s.slice? s.now.core s.now.slot j).map (·.pc)

theorem State.slice?_modSlice_ne (s : State) {c w k j : Nat} (f : Slice → Slice) (h : j ≠ k) :
    (s.modSlice c w k f).slice? c w j = s.slice? c w j := by
  unfold State.modSlice
  cases hx : s.wave? c w with
  | none => rfl
  | some x =>
    simp only []
    cases hk : Store.find? x.slices k with
    | none => rfl
    | some sl =>
      simp only [State.slice?, State.wave?_setWave, hx, Option.bind_some]
      exact Store.find?_insert_ne _ _ h

theorem State.modSlice_none {c w k : Nat} (h : s.slice? c w k = none) (f : Slice → Slice) : s.modSlice c w k f = s := by
  unfold State.modSlice
  cases hx : s.wave? c w with
  | none => rfl
  | some x =>
    have hk : Store.find? x.slices k = none := by simpa [State.slice?, hx] using h
    simp [hk]

/-- A change of slice k moves its pc alone, and by what it does to it. -/
theorem State.pcNow_modNow (s : State) (k j : Nat) {f : Slice → Slice} {g : Pc → Pc} (hf : ∀ sl, (f sl).pc = g sl.pc) :
    (s.modNow k f).pcNow j = if j = k then (s.pcNow j).map g else s.pcNow j := by
  have hnow : (s.modNow k f).now = s.now := State.now_modSlice ..
  unfold State.pcNow
  rw [hnow]
  by_cases hj : j = k
  · subst hj
    rw [if_pos rfl]
    cases hsl : s.slice? s.now.core s.now.slot j with
    | none => rw [State.modNow, State.modSlice_none hsl, hsl]; rfl
    | some sl =>
      rw [State.modNow, State.slice?_modSlice hsl]
      exact congrArg some (hf sl)
  · rw [if_neg hj, State.modNow, State.slice?_modSlice_ne s f hj]

/-- The slices of the course, and no others, go on to the next word. -/
theorem State.pcNow_advanceCourse (s : State) (sh : Shape) (c j : Nat) :
    (s.advanceCourse sh c).pcNow j = if j / 2 = c then (s.pcNow j).map Pc.next else s.pcNow j := by
  have hedge (u : State) (k : Nat) : (u.modNow k (fun sl => sl.atEdge true)).pcNow j = u.pcNow j := by
    rw [State.pcNow_modNow u k j (f := fun sl => sl.atEdge true) (g := id) (fun _ => rfl)]
    simp
  have hadv (u : State) (sh : Shape) (ls : List Nat) (k : Nat) : (u.advance sh ls k).pcNow j = if j = k then (u.pcNow j).map Pc.next else u.pcNow j :=
    State.pcNow_modNow u k j (fun _ => rfl)
  unfold State.advanceCourse
  rw [hedge, hedge, hadv, hadv]
  by_cases h0 : j = 2 * c
  · rw [if_pos h0, if_neg (by omega), if_pos (by omega)]
  · by_cases h1 : j = 2 * c + 1
    · rw [if_pos h1, if_neg h0, if_pos (by omega)]
    · rw [if_neg h1, if_neg h0, if_neg (by omega)]

/-- The issue of courses, each once. -/
theorem State.advanceCourses (hr : Ready s x) (sh : Shape) (cs : List Nat) :
    SlicesOnly s (cs.foldl (fun (t : State) c => t.advanceCourse sh c) s) x ∧ (cs.Nodup → ∀ j,
      (cs.foldl (fun (t : State) c => t.advanceCourse sh c) s).pcNow j = if j / 2 ∈ cs then (s.pcNow j).map Pc.next else s.pcNow j) := by
  induction cs using List.reverseRecOn with
  | nil => exact ⟨hr.slicesOnly, fun _ _ => by simp⟩
  | append_singleton cs c ih =>
    obtain ⟨honly, hpc⟩ := ih
    simp only [List.foldl_append, List.foldl_cons, List.foldl_nil]
    refine ⟨honly.advanceCourse sh c, fun hn j => ?_⟩
    obtain ⟨hcs, -, hc⟩ := List.nodup_append.1 hn
    rw [State.pcNow_advanceCourse, hpc hcs]
    by_cases hj : j / 2 = c
    · have hnot : j / 2 ∉ cs := fun h => hc _ h c (by simp) hj
      simp [hj, hj ▸ hnot]
    · simp [hj]

/-! ### The issue of an MMA (14 R282) -/

/-- What an MMA asks of one course: its tile, record, slot and offsets. -/
structure MmaFits (x : Wave) (o : MmaOp) (c : Nat) (v : W32) (t : Tile) (r : ObRecord) (z : WeightSlot) (n : Nat) : Prop where
  tile_le : (courseTile o.d.toNat c).1 ≤ 15
  tile : x.tile? (courseTile o.d.toNat c).1 = some t
  unit : t.threads = false
  ty : t.ty = o.acc
  record : Store.find? x.records o.a.toNat = some r
  slot : Store.find? x.slots o.b.toNat = some z
  loaded : z.loaded = true
  combo : r.fmt.combo z.fmt = some (o.acc, n)
  depth : maKb v * n + n ≤ z.kp
  columns : (maKa v * n + n) * r.fmt.nibbles ≤ 2 * r.stride
  rows : 2 * ((maRow0 v + 16 * c + 15) * r.stride) + (maKa v * n + n) * r.fmt.nibbles ≤ 2 * r.extent

theorem Wave.unitTile_of_unit {d c : Nat} {t : Tile} (hle : (courseTile d c).1 ≤ 15) (ht : x.tile? (courseTile d c).1 = some t)
    (hunit : t.threads = false) : x.unitTile d c = .ok t := by
  simp [Wave.unitTile, Nat.not_lt.2 hle, ht, hunit]

/-- A course that fits passes every check of MMA. -/
theorem checkMma_ready (hr : Ready s x) {o : MmaOp} {c : Nat} (hc : c ∈ s.courses) {t : Tile} {r : ObRecord} {z : WeightSlot} {n : Nat}
    (h : MmaFits x o c ((x.slice (2 * c)).raw (.s o.c.toNat)) t r z n) :
    checkMma o s (s.ctx x (2 * c)) (x.slice (2 * c)) c = .ready ((x.slice (2 * c)).raw (.s o.c.toNat)) := by
  unfold checkMma
  simp only [hr.readLoc (State.lower_mem hc), State.ctx_wave, Wave.unitTile_of_unit h.tile_le h.tile h.unit, h.ty, h.record, h.slot, h.loaded,
    h.combo]
  have hdepth := h.depth
  have hcolumns := h.columns
  have hrows := h.rows
  rw [if_neg (by simp), if_neg (by simp), if_neg (by simp; omega), if_neg (by omega)]

/-- The offsets of each course of a gang that issues an MMA. -/
def State.strips (s : State) (x : Wave) (o : MmaOp) : List (Nat × W32) :=
  s.courses.map (fun c => (c, (x.slice (2 * c)).raw (.s o.c.toNat)))

/-- The pass that an MMA makes of the wave y as it stands once its courses have issued. -/
def passOf (s : State) (y : Wave) (o : MmaOp) (cs : List (Nat × W32)) : Pass :=
  { slot := s.now.slot, op := o, cls := y.prio.toNat, since := s.serial, courses := cs, shadows := none
    edges := cs.flatMap (fun r => [2 * r.1, 2 * r.1 + 1].map (fun k => (k, y.restartAt k (y.slice k).lastLive, (y.slice k).marks))) }

theorem passOf_edges (s : State) (y : Wave) (o : MmaOp) (cs : List (Nat × W32)) :
    (passOf s y o cs).edges.map (·.1) = cs.flatMap (fun c => [2 * c.1, 2 * c.1 + 1]) := by
  simp [passOf, List.map_flatMap]

/-- The state u of which the courses have issued, with the pass p of theirs behind those of the core. -/
def State.withPass (u : State) (core : Nat) (p : Pass) : State :=
  { u.setCore core { u.core core with passes := (u.core core).passes ++ [p] } with serial := u.serial + 1 }

theorem State.wave?_withPass (u : State) (core slot : Nat) (p : Pass) : (u.withPass core p).wave? core slot = u.wave? core slot := by
  show Store.find? ((u.setCore core _).core core).waves slot = _
  rw [State.core_setCore]
  rfl

theorem State.passes_withPass (u : State) (core : Nat) (p : Pass) : ((u.withPass core p).core core).passes = (u.core core).passes ++ [p] :=
  congrArg Core.passes (State.core_setCore ..)

theorem issueMma_withPass (hr : Ready s x) (hprompt : s.now.prompt = false) {o : MmaOp} {y : Wave}
    (hy : (s.courses.foldl (fun (t : State) c => t.advanceCourse (MmaOp.shape o) c) s).wave? s.now.core s.now.slot = some y) :
    issueMma o (s.strips x o) s = (s.courses.foldl (fun (t : State) c => t.advanceCourse (MmaOp.shape o) c) s).withPass s.now.core
      (passOf s y o (s.strips x o)) := by
  obtain ⟨honly, -⟩ := State.advanceCourses hr (MmaOp.shape o) s.courses
  have hfold : (s.strips x o).foldl (fun (t : State) r => t.advanceCourse (MmaOp.shape o) r.1) s
      = s.courses.foldl (fun (t : State) c => t.advanceCourse (MmaOp.shape o) c) s := List.foldl_map ..
  unfold issueMma
  simp only [hfold, hy]
  rw [if_neg (by simp [honly.now, hprompt])]
  simp only [State.withPass, passOf, honly.serial]

/-- MMA issues one pass of its courses; every slice goes on (14 R282). -/
theorem exec_mma (hr : Ready s x) (he : Edged s x) (hprompt : s.now.prompt = false) (hp : Paired s) {o : MmaOp}
    (hfits : ∀ c ∈ s.courses, ∃ t r z n, MmaFits x o c ((x.slice (2 * c)).raw (.s o.c.toNat)) t r z n) :
    ∃ u y, exec (.mma o) s = .next (u.withPass s.now.core (passOf s y o (s.strips x o))) ∧ SlicesOnly s u x
      ∧ ∀ k ∈ s.now.slices, u.pcNow k = some (x.slice k).pc.next := by
  obtain ⟨honly, hpc⟩ := State.advanceCourses hr (MmaOp.shape o) s.courses
  obtain ⟨m, hm⟩ := honly.wave
  refine ⟨_, { x with slices := m }, congrArg Host.Outcome.next ?_, honly, fun k hk => ?_⟩
  · refine (issueCourses_go hr he hp (fun c => (x.slice (2 * c)).raw (.s o.c.toNat)) (fun c hc => ?_)).trans (issueMma_withPass hr hprompt hm)
    obtain ⟨t, r, z, n, h⟩ := hfits c hc
    exact checkMma_ready hr hc h
  · rw [hpc hr.courses_nodup, if_pos (hp.course_mem hk), State.pcNow, hr.slice? hk]
    rfl

/-! ### The array (16 R294 to R302) -/

/-- A pass alone in the core is the next to enter, whatever operands have been read by now, once its own have. -/
theorem Core.nextPass_alone {k : Core} {p : Pass} (hpasses : k.passes = [p]) (hwaits : p.shadows = none) (hroom : p.courses.length ≤ 8)
    {read : Pass → Bool} (hread : read p = true) : k.nextPass read = some p := by
  simp [Core.nextPass, Core.passReady, Core.inOrder, Core.shadowRoom, hpasses, hwaits, hread, hroom]

theorem State.enterPass_alone {core : Nat} {p : Pass} (hpasses : (s.core core).passes = [p]) (hwaits : p.shadows = none)
    (hroom : p.courses.length ≤ 8) (hx : s.wave? core p.slot = some x) {read : Pass → Bool} (hread : read p = true) :
    s.enterPass core read = ((s.bump (core / 32) 14 p.courses.length).bump (core / 32) 15 (if 2 ≤ p.courses.length then 1 else 0)).setCore core
      { s.core core with passes := [{ p with shadows := some (p.run x []) }] } := by
  unfold State.enterPass
  simp [Core.nextPass_alone hpasses hwaits hroom hread, hx, hpasses, hwaits]

/-- A pass alone in the core enters the array. -/
theorem exec_mmaPassEnter_alone {core : Nat} {p : Pass} (hpasses : (s.core core).passes = [p]) (hwaits : p.shadows = none)
    (hroom : p.courses.length ≤ 8) (hx : s.wave? core p.slot = some x) :
    exec (.mmaPassEnter core) s = .next (((s.bump (core / 32) 14 p.courses.length).bump (core / 32) 15
      (if 2 ≤ p.courses.length then 1 else 0)).setCore core { s.core core with passes := [{ p with shadows := some (p.run x []) }] }) := by
  refine congrArg Host.Outcome.next ?_
  split
  case isTrue hsome =>
    refine State.enterPass_alone hpasses hwaits hroom hx ?_
    simp only [hpasses, List.any_cons, List.any_nil, Bool.or_false, Core.passReady, Bool.and_eq_true] at hsome
    exact hsome.2.1
  case isFalse => exact State.enterPass_alone hpasses hwaits hroom hx rfl

/-- The oldest pass in the array commits: its shadows become tile rows, and its slices pass their edge. -/
theorem exec_mmaCommit {core : Nat} {p : Pass} {rest : List Pass} {hs : List (Nat × Nat × Store W32)}
    (hpasses : (s.core core).passes = p :: rest) (hshadows : p.shadows = some hs) (hx : s.wave? core p.slot = some x) :
    let tiles := hs.foldl (fun (m : Store Tile) h => Store.update m h.1 (fun t =>
      (List.range 1024).foldl (fun (t : Tile) i => t.set (64 * h.2.1 + i) (Store.get h.2.2 0 i)) t)) x.tiles
    exec (.mmaCommit core) s = .next (p.edges.foldl (fun (t : State) e =>
      t.closeRegionAt core p.slot e.1 e.2.1 e.2.2 { e.2.1.pc with idx := e.2.1.pc.idx - 1 })
        ((s.setCore core { s.core core with passes := rest }).setWave core p.slot { x with tiles })) := by
  intro tiles
  have hleft : (s.setCore core { s.core core with passes := rest }).wave? core p.slot = some x := by
    rw [State.wave?, State.core_setCore]
    exact hx
  refine congrArg Host.Outcome.next ?_
  unfold State.commitPass
  simp only [hpasses, hshadows, State.modWave, hleft]
  rfl

/-- The load of a weight slot completes (14 R281). -/
theorem exec_wldLoadComplete {core slot w : Nat} {z : WeightSlot} (hx : s.wave? core slot = some x) (hz : Store.find? x.slots w = some z) :
    exec (.wldLoadComplete core slot w) s = .next (s.setWave core slot { x with slots := Store.insert x.slots w { z with loaded := true } }) := by
  refine congrArg Host.Outcome.next ?_
  simp only [State.modWave, hx, Store.update, hz]

end

/-- Settles O31: an MMA of whole courses, its pass's entry and commit, and a weight slot's load.  The region edge of a commit is passed at
the restart point of the issue (log 48). -/
theorem matrixProductsComplete : Obligations.MatrixProductsComplete := by
  refine ⟨fun s x o hr he hprompt hp => ?mma, fun s core x p hpasses hwaits hroom hx => exec_mmaPassEnter_alone hpasses hwaits hroom hx,
    fun s core x p rest hs hpasses hshadows hx => exec_mmaCommit hpasses hshadows hx, fun s core slot w x z hx hz => exec_wldLoadComplete hx hz⟩
  intro cs
  have hcs : cs = s.strips x o := by simp [cs, State.strips, State.courses, List.map_map, Function.comp_def]
  clear_value cs
  subst hcs
  intro hfits
  have hcourse : ∀ c ∈ s.courses, ∃ t r z n, MmaFits x o c ((x.slice (2 * c)).raw (.s o.c.toNat)) t r z n := by
    intro c hc
    obtain ⟨t, r, z, n, hle, htile, hunit, hty, hrec, hslot, hloaded, hcombo, hdepth, hcols, hrows⟩ :=
      hfits (c, (x.slice (2 * c)).raw (.s o.c.toNat)) (List.mem_map_of_mem hc)
    exact ⟨t, r, z, n, hle, htile, hunit, hty, hrec, hslot, hloaded, hcombo, hdepth, hcols, hrows⟩
  obtain ⟨u, y, hexec, honly, hpc⟩ := exec_mma hr he hprompt hp hcourse
  obtain ⟨m, hm⟩ := honly.wave
  refine ⟨u.withPass s.now.core (passOf s y o (s.strips x o)), passOf s y o (s.strips x o), hexec, ?passes, rfl, rfl, rfl, rfl,
    passOf_edges .., congrArg (· + 1) honly.serial, fun k hk => ?slices, ?tiles⟩
  case passes => rw [State.passes_withPass, honly.passes]
  case slices =>
    obtain ⟨sl, hsl, hnext⟩ := Option.map_eq_some_iff.1 (hpc k hk)
    rw [honly.now] at hsl
    exact ⟨sl, by rw [State.slice?, State.wave?_withPass]; exact hsl, hnext⟩
  case tiles => rw [State.wave?_withPass, hm]; rfl

end Sys2Proof.Machine
end

section
/-!
PROOFS. Drains (14 R285): the courses of a gang write their rows out, and behind them the largest magnitude.
-/

namespace Sys2Proof.Machine

open Claim

section

variable {s : State} {x : Wave} {o : MdrainOp}

/-! ### What leaves the issuing gang as it is -/

theorem State.now_foldl {α : Type} {f : State → α → State} (hf : ∀ u a, (f u a).now = u.now) (l : List α) (s : State) :
    (l.foldl f s).now = s.now := by
  induction l generalizing s with
  | nil => rfl
  | cons a l ih => exact (ih (f s a)).trans (hf s a)

theorem State.now_tagRelease (s : State) (core slot : Nat) (scope : Sys2Proof.Scope) (place : Place) (addr size id : Nat) (known : Known) :
    (s.tagRelease core slot scope place addr size id known).now = s.now := by
  unfold State.tagRelease
  split
  · rfl
  · split <;> rfl

theorem State.now_tagWrite (s : State) (core slot k : Nat) (scope : Option Sys2Proof.Scope) (ps : List Part) (id : Nat) :
    (s.tagWrite core slot k scope ps id).now = s.now := by
  unfold State.tagWrite
  simp only []
  split
  · rfl
  · refine State.now_foldl (fun u p => ?_) ps s
    rw [State.now_foldl (fun u t => State.now_tagRelease ..)]
    cases scope with
    | none => rfl
    | some c => exact State.now_tagRelease ..

theorem State.now_sendPacket (s : State) (dst vc : Nat) (access : Option Nat) (part : Nat) (body : PacketBody) :
    (s.sendPacket dst vc access part body).now = s.now := rfl

theorem State.now_sendParts (s : State) (id : Nat) (a : Access) (body : Nat → Part → Option PacketBody) (range : Part → Nat × Nat) :
    (s.sendParts id a body range).now = s.now := by
  unfold State.sendParts
  refine State.now_foldl (fun u p => ?_) _ s
  split
  · split
    · rfl
    · split
      · split
        · rw [State.now_sendPacket, apply_ite State.now]
          exact ite_self _
        · rfl
      · rfl
  · rfl

theorem State.now_advanceCourse (s : State) (sh : Shape) (c : Nat) : (s.advanceCourse sh c).now = s.now := by
  unfold State.advanceCourse State.modNow
  simp only [State.now_modSlice, State.now_advance]

/-! ### The check of a course -/

/-- The path on which the writes of a drain count (02 R64). -/
def drainPath (o : MdrainOp) (d : Drain) : Nat :=
  if o.space = .scratch then 2 else if d.parts.any (fun p => p.place.isPeer) then 4 else 1

theorem drainPath_eq (o : MdrainOp) (d : Drain) :
    (if o.space == .scratch then 2 else if d.parts.any (fun p => p.place.isPeer) then 4 else 1) = drainPath o d := by
  simp [drainPath]

/-- What a drain of one course finds: its tile, where its bytes go, its counters' room and nothing left to wait for. -/
structure DrainFits (s : State) (x : Wave) (o : MdrainOp) (c : Nat) (d : Drain) : Prop where
  tile_le : (courseTile o.d.toNat c).1 ≤ 15
  tile : x.tile? (courseTile o.d.toNat c).1 = some d.tile
  unit : d.tile.threads = false
  pair : drainPair o.target d.tile.ty = true
  row0 : d.row0 = (courseTile o.d.toNat c).2
  word : s.drainWord (s.ctx x (2 * c)) (x.slice (2 * c)) o = .ok d.max
  parts : s.drainParts (s.ctx x (2 * c)) o (drainRanges o ((List.range 4).map (fun i =>
    (x.slice (2 * c)).raw (.s (4 * o.quad.toNat + i)))) c) = .ok d.parts
  committed : (s.ctx x (2 * c)).rowsBusy (courseTile o.d.toNat c) = false
  counter : x.counter (drainPath o d) + s.now.slices.length ≤ 255
  peerCounter : ∀ m, d.max = some m → m.1.place.isPeer = true → x.counter 4 + s.now.slices.length ≤ 255
  slices : ∀ k ∈ [2 * c, 2 * c + 1], (s.core s.now.core).uncommitted s.now.slot k = false ∧ s.acquireAhead s.now.core s.now.slot k = none
    ∧ ∀ m, d.max = some m → s.drained s.now.core s.now.slot k { loads := true, stores := true, redm := false, scope := m.2 } = true

/-- A course that fits passes every check of MDRAIN, and waits for nothing. -/
theorem checkMdrain_ready (hr : Ready s x) {c : Nat} (hc : c ∈ s.courses) {d : Drain} (h : DrainFits s x o c d) :
    checkMdrain o s (s.ctx x (2 * c)) (x.slice (2 * c)) c = .ready d := by
  obtain ⟨hu0, ha0, hd0⟩ := h.slices (2 * c) (by simp)
  obtain ⟨hu1, ha1, hd1⟩ := h.slices (2 * c + 1) (by simp)
  have hfree : ¬ (decide (255 < x.counter (if o.space == .scratch then 2 else if d.parts.any (fun p => p.place.isPeer) then 4 else 1)
        + s.now.slices.length)
      || ((d.max.map (fun m => m.1.place.isPeer)).getD false && decide (255 < x.counter 4 + s.now.slices.length))) = true := by
    have hcounter := h.counter
    simp only [drainPath_eq, Bool.or_eq_true, Bool.and_eq_true, decide_eq_true_eq]
    rintro (hfull | ⟨hpeer, hfull⟩)
    · omega
    · obtain ⟨m, hm, hpeer⟩ : ∃ m, d.max = some m ∧ m.1.place.isPeer = true := by
        cases hm : d.max <;> simp_all
      have hpeer := h.peerCounter m hm hpeer
      omega
  have hneed : (d.max.bind (fun m => if [2 * c, 2 * c + 1].all (fun k => s.drained s.now.core s.now.slot k
      { loads := true, stores := true, redm := false, scope := m.2 }) then none
      else some ({ loads := true, stores := true, redm := false, scope := m.2 } : FenceNeed))) = none := by
    cases hm : d.max with
    | none => rfl
    | some m => simp [hd0 m hm, hd1 m hm]
  have hgang : (s.ctx x (2 * c)).gang = s.now.slices := rfl
  unfold checkMdrain
  simp only [State.ctx_wave, State.ctx_core, State.ctx_slot, Wave.unitTile_of_unit h.tile_le h.tile h.unit, hr.quad (State.lower_mem hc), h.word,
    h.parts, h.pair, hu0, hu1, h.committed, ha0, ha1, hgang]
  refine (if_neg hfree).trans ?_
  split
  case h_1 n _ _ hn => exact nomatch hn.symm.trans hneed
  case h_2 hid _ => exact nomatch hid
  case h_3 hid _ _ => exact nomatch hid
  case h_4 => rw [← h.row0]

/-! ### The issue of a drain -/

/-- The bytes that go over the parts of a drain leave where the parts lie. -/
theorem fillParts_place (ps : List Part) (bs : List Byte) : (fillParts ps bs).map (·.place) = ps.map (·.place) := by
  have hfold : ∀ (ps acc : List Part) (bs : List Byte), (ps.foldl (fun (acc : List Part × List Byte) p =>
      (acc.1 ++ [{ p with data := acc.2.take p.size }], acc.2.drop p.size)) (acc, bs)).1.map (·.place)
        = acc.map (·.place) ++ ps.map (·.place) := by
    intro ps
    induction ps with
    | nil => simp
    | cons p ps ih => intro acc bs; simp [ih]
  exact hfold ps [] bs

theorem fillParts_anyPeer (ps : List Part) (bs : List Byte) :
    (fillParts ps bs).any (fun p => p.place.isPeer) = ps.any (fun p => p.place.isPeer) := by
  have h := congrArg (List.any · Place.isPeer) (fillParts_place ps bs)
  simpa only [List.any_map, Function.comp_def] using h

/-- The rows that a drain writes: their bytes, their scales and their largest magnitudes. -/
def drainRows (o : MdrainOp) (d : Drain) : List (List Byte × List Byte × Nat) :=
  (List.range 16).map (fun i => drainRowBytes o d.tile.ty ((List.range 64).map (fun j => d.tile.get (64 * (d.row0 + i) + j))))

/-- The store of a drain: an event of the course's lower slice, whose lanes are those of both (log 47). -/
def drainStore (t : State) (core slot : Nat) (o : MdrainOp) (c : Nat) (d : Drain) (y : Wave) : Access :=
  { core, slot, slice := 2 * c, gen := t.gen core slot, pc := (y.slice (2 * c)).pc, word := t.now.word, path := some (drainPath o d)
    kind := .store, parts := fillParts d.parts ((drainRows o d).flatMap (·.1) ++ (drainRows o d).flatMap (·.2.1)), lanes := 15
    process := y.process, secure := t.secureWave y, noL1 := true
    courseLanes := some ([2 * c, 2 * c + 1].foldl (fun m k => m ||| waveLanes k (~~~(y.slice k).done)) 0) }

/-- The store has gone out. -/
def State.drainStored (t : State) (core slot : Nat) (o : MdrainOp) (c : Nat) (d : Drain) (y : Wave) : State :=
  let a := drainStore t core slot o c d y
  ((t.tagWrite core slot (2 * c) none a.parts t.serial).launchAccess a).sendParts t.serial a
    (fun _ p => some (.write p.addr p.data)) (fun p => (p.addr, p.size))

/-- Behind it the largest magnitude has gone out as an atomic maximum. -/
def State.drainSent (t : State) (core slot : Nat) (o : MdrainOp) (c : Nat) (d : Drain) (y : Wave) : State :=
  let u := t.drainStored core slot o c d y
  match d.max with
  | none => u
  | some (w, scope) => (u.tagWrite core slot (2 * c) (some scope) [w] u.serial).launchAccess { drainStore t core slot o c d y with
      path := if w.place.isPeer then some 4 else none, kind := .atom none .max .n32 scope
      parts := [{ w with data := leBytes 4 (((drainRows o d).map (·.2.2)).foldl max 0) }] }

/-- Both slices of the course pass their edge. -/
def State.drainCourse (t : State) (core slot : Nat) (o : MdrainOp) (c : Nat) (d : Drain) (y : Wave) : State :=
  let u := (t.drainSent core slot o c d y).advanceCourse (MdrainOp.shape o) c
  (u.closeRegion core slot (2 * c) (y.slice (2 * c)).lastLive (y.slice (2 * c)).pc).closeRegion core slot (2 * c + 1)
    (y.slice (2 * c + 1)).lastLive (y.slice (2 * c)).pc

theorem State.now_drainSent (t : State) (core slot : Nat) (o : MdrainOp) (c : Nat) (d : Drain) (y : Wave) :
    (t.drainSent core slot o c d y).now = t.now := by
  have hstored : (t.drainStored core slot o c d y).now = t.now :=
    (State.now_sendParts ..).trans ((State.launchAccess_now ..).trans (State.now_tagWrite ..))
  unfold State.drainSent
  simp only []
  split
  · exact hstored
  · exact (State.launchAccess_now ..).trans ((State.now_tagWrite ..).trans hstored)

theorem State.now_drainCourse (t : State) (core slot : Nat) (o : MdrainOp) (c : Nat) (d : Drain) (y : Wave) :
    (t.drainCourse core slot o c d y).now = t.now := by
  rw [State.drainCourse, State.now_closeRegion, State.now_closeRegion, State.now_advanceCourse, State.now_drainSent]

/-- What a turn without the prompt mark leaves in flight stays there. -/
theorem ite_prompt_of_later {u v w : State} (h : u = v) (hv : v.now.prompt = false) : (if u.now.prompt then w else u) = v := by
  subst h
  simp [hv]

/-- One course drains, and its accesses stay in flight. -/
theorem issueDrain_course {t : State} (hprompt : t.now.prompt = false) {y : Wave} (hy : t.wave? t.now.core t.now.slot = some y)
    (c : Nat) (d : Drain) : issueDrain o c d t = t.drainCourse t.now.core t.now.slot o c d y := by
  unfold issueDrain
  simp only [hy, fillParts_anyPeer, drainPath_eq, List.map_cons, List.map_nil, List.foldl_cons, List.foldl_nil]
  refine ite_prompt_of_later ?_ (by rw [State.now_drainCourse, hprompt])
  unfold State.drainCourse State.drainSent
  cases d.max with
  | none => rfl
  | some m => rfl

theorem issueDrain_none {t : State} (hy : t.wave? t.now.core t.now.slot = none) (c : Nat) (d : Drain) : issueDrain o c d t = t := by
  simp only [issueDrain, hy]

end

/-- Settles O32, course by course.  That a drain's writes are cut at 128-byte lines and belong to the course's lower slice is the model's
reading (log 47); with one row at a peer the whole store counts on path 4. -/
theorem drainsComplete : Obligations.DrainsComplete := by
  intro s x o d hr he hprompt hp core slot cs path hfits drain
  have hready (c : Nat) (hc : c ∈ s.courses) : checkMdrain o s (s.ctx x (2 * c)) (x.slice (2 * c)) c = .ready (d c) := by
    obtain ⟨hle, htile, hunit, hpair, hrow, hword, hparts, hcom, hcount, hpeer, hslices⟩ := hfits c hc
    exact checkMdrain_ready hr hc ⟨hle, htile, hunit, hpair, hrow, hword, hparts, hcom, hcount, hpeer, hslices⟩
  refine congrArg Host.Outcome.next ((issueCourses_go hr he hp d hready).trans ?_)
  rw [List.foldl_map]
  have hdrain (t : State) (c : Nat) (y : Wave) : t.drainCourse core slot o c (d c) y = drain t c y := by
    unfold State.drainCourse State.drainSent
    simp only [drain, List.foldl_cons, List.foldl_nil]
    cases (d c).max with
    | none => rfl
    | some m => rfl
  refine (List.foldl_rel (r := fun t u => t = u ∧ t.now = s.now) ⟨rfl, rfl⟩ (fun c _ t u h => ?step)).1
  obtain ⟨rfl, ht⟩ := h
  have hwave : t.wave? t.now.core t.now.slot = t.wave? core slot := by rw [ht]
  cases hy : t.wave? core slot with
  | none =>
    rw [issueDrain_none (hwave.trans hy)]
    exact ⟨rfl, ht⟩
  | some y =>
    have hnow := (State.now_drainCourse t core slot o c (d c) y).trans ht
    rw [issueDrain_course (ht ▸ hprompt) (hwave.trans hy), ht]
    exact ⟨hdrain t c y, hnow⟩

end Sys2Proof.Machine
end

section
/-!
PROOFS. Kernel object and ring instructions issue (17 R308 to R313, 21 R373, R374): a gang of one slice reads the operands, checks, and
leaves the instruction at its place.
-/

namespace Sys2Proof.Machine

open Claim

section

variable {s : State} {x : Wave} {k : Nat}

/-- What a gang of one slice issues depends on the plan of that slice alone. -/
theorem issueEach_congr_one {plan plan' : State → Ctx → Slice → Act} (hw : s.wave? s.now.core s.now.slot = some x)
    (hk : s.now.slices = [k]) (hp : plan s (s.ctx x k) (x.slice k) = plan' s (s.ctx x k) (x.slice k)) :
    issueEach plan s = issueEach plan' s := by
  simp only [issueEach, hw, hk, hp, List.map_cons, List.map_nil, List.foldl_cons, List.foldl_nil]

/-! ### Operands -/

theorem kernelShape_fields {g : Option Guard} {regs : List SReg} {pairs : List SPair} {quad : Option SQuad} {d : Option SPair} :
    x.Fields (kernelShape g regs pairs quad d).fields := by
  refine Wave.fields_of_s ?_
  cases quad <;> cases d <;> simp [kernelShape, Shape.fields, pairReg, quadSrcs, or_imp, forall_and]

theorem Ready.sreg (hr : Ready s x) (hk : k ∈ s.now.slices) : (s.ctx x k).sreg (x.slice k) = sval x k :=
  funext (fun r => hr.readLoc hk (.s r.toNat))

theorem Ready.pair (hr : Ready s x) (hk : k ∈ s.now.slices) : (s.ctx x k).pair (x.slice k) = pval x k :=
  funext (fun p => hr.readReg hk (r := pairReg p) rfl true 0)

theorem Ready.quads (hr : Ready s x) (hk : k ∈ s.now.slices) : (s.ctx x k).quad (x.slice k) = qval x k :=
  funext (fun q => hr.quad hk q)

/-! ### The plan of a unit's instruction -/

variable {u : KernelUnit} {g : Option Guard} {regs : List SReg} {pairs : List SPair} {quad : Option SQuad} {d : Option SPair}
  {need : Option FenceNeed} {op : State → Ctx → Slice → KernelOp} {v : KernelOp}

/-- Nothing is left that the instruction's release awaits. -/
theorem filter_drained (hd : ∀ n, need = some n → s.drained s.now.core s.now.slot k n = true) :
    need.filter (fun n => !s.drained s.now.core s.now.slot k n) = none := by
  simpa [Option.filter_eq_none_iff] using hd

theorem filter_not_drained {n : FenceNeed} (hd : s.drained s.now.core s.now.slot k n = false) :
    (some n).filter (fun n => !s.drained s.now.core s.now.slot k n) = some n := by simp [hd]

/-- With its release done an instruction acts as its unit has it act before it begins; with one awaited it only stands at its place. -/
theorem State.issueKernel_eq (hr : Ready s x) (hk : k ∈ s.now.slices) (lanes : List Nat) (need : Option FenceNeed) :
    s.issueKernel u (s.ctx x k) lanes v d need =
      let t := if need.isNone then u.issued (issued s x k lanes v d need) x v else issued s x k lanes v d need
      if t.now.prompt then t.tryBegin u { core := s.now.core, slot := s.now.slot, slice := k } else t := by
  rw [State.issueKernel, State.ctx_k, hr.slice? hk]
  rfl

/-- With no lane executing an instruction of a unit only goes on. -/
theorem issueUnit_idle (hr : Ready s x) (hk : s.now.slices = [k]) (hl : x.lanes g k = []) :
    issueUnit u (kernelShape g regs pairs quad d) need d op s = .next (s.advance { g, srcs := [] } [] k) :=
  congrArg Host.Outcome.next ((issueEach_congr_one hr.wave hk (planUnit.eq_1 ..)).trans (issueSliceWise_idle hr hk kernelShape_fields hl))

/-- With a place free on path 5 and its checks passed, an instruction issues: those at issue are the early ones while a release is
awaited. -/
theorem issueUnit_go (hr : Ready s x) (he : Edged s x) (hk : s.now.slices = [k]) (hl : x.lanes g k ≠ []) (hcount : x.counter 5 < 255)
    (hacq : s.acquireAhead s.now.core s.now.slot k = none) {left : Option FenceNeed}
    (hleft : need.filter (fun n => !s.drained s.now.core s.now.slot k n) = left) (hop : op s (s.ctx x k) (x.slice k) = v)
    (hcheck : (if left.isSome then u.early s x v else u.check s x s.now.core v) = none) :
    issueUnit u (kernelShape g regs pairs quad d) need d op s = .next (s.issueKernel u (s.ctx x k) (x.lanes g k) v d left) := by
  subst hop
  refine congrArg Host.Outcome.next ((issueEach_congr_one hr.wave hk (planUnit.eq_1 ..)).trans (issueSliceWise_go hr he hk kernelShape_fields hl
    (f := fun t => t.issueKernel u (s.ctx x k) (x.lanes g k) (op t (s.ctx x k) (x.slice k)) d left) ?_))
  simp only [Ctx.counterFull_one (x := s.ctx x k) hk, State.ctx_wave, State.ctx_k, Nat.not_le.2 hcount, decide_false, hacq, hleft, hcheck]
  rfl

/-- The three ways in which an instruction of a unit issues. -/
theorem issueUnit_issues {i : Instr} (hr : Ready s x) (he : Edged s x) (hk : s.now.slices = [k])
    (hi : exec i s = issueUnit u (kernelShape g regs pairs quad d) need d op s) (hop : op s (s.ctx x k) (x.slice k) = v) :
    Issues s x k u i g need v d := by
  have hmem := mem_slices_of_one hk
  refine ⟨fun hl => hi.trans (issueUnit_idle hr hk hl), fun hl hcount hacq => ⟨fun hd hcheck => ?released, fun n hn hd hearly => ?awaiting⟩⟩
  case released =>
    rw [hi, issueUnit_go (left := none) hr he hk hl hcount hacq (filter_drained hd) hop hcheck, State.issueKernel_eq hr hmem]
    rfl
  case awaiting =>
    subst hn
    rw [hi, issueUnit_go (left := some n) hr he hk hl hcount hacq (filter_not_drained hd) hop hearly, State.issueKernel_eq hr hmem]
    rfl

end

/-- Settles O35: every instruction of both units issues as one driver does.  That AEARM waits for the slice's own stores to scratch is the
model's reading (log 59). -/
theorem kernelInstructionsIssue : Obligations.KernelInstructionsIssue := by
  intro s x k hr he hk
  have hmem := mem_slices_of_one hk
  rw [← hr.sreg hmem, ← hr.pair hmem, ← hr.quads hmem]
  intro r p q now
  have issues {i u g regs pairs quad d need op v} (hi : exec i s = issueUnit u (kernelShape g regs pairs quad d) need d op s)
    (hop : op s (s.ctx x k) (x.slice k) = v) : Issues s x k u i g need v d := issueUnit_issues hr he hk hi hop
  exact ⟨fun o => issues rfl rfl,
    fun o => ⟨issues rfl rfl, issues rfl rfl, issues rfl rfl, issues rfl rfl, issues rfl rfl, issues rfl rfl, issues rfl rfl⟩,
    fun o => ⟨issues rfl rfl, issues rfl rfl, issues rfl rfl, issues rfl rfl, issues rfl rfl⟩,
    fun o => issues rfl rfl, fun o => issues rfl rfl, fun o => issues rfl rfl, fun o => issues rfl rfl,
    fun o => ⟨issues rfl rfl, issues rfl rfl⟩, fun o => issues rfl rfl, fun o => issues rfl rfl, fun o => issues rfl rfl,
    fun o => issues rfl rfl⟩

end Sys2Proof.Machine
end

section
/-!
PROOFS. Kernel instructions begin (17 R311): what comes of trying one whose slice stands alone at it, and whose checks pass.
-/

namespace Sys2Proof.Machine

open Claim

section

variable {s : State} {w : SliceRef} {x : Wave} {kw : KernelWait}

/-- What comes of trying an instruction: it waits, traps, or its slice goes on. -/
def State.begun (s : State) (w : SliceRef) (kw : KernelWait) : Begun → State
  | .wait ask t => { t with serial := t.serial + 1 }.modSlice w.core w.slot w.slice (fun sl =>
      { sl with kwait := some { kw with need := none, ask, since := some (kw.since.getD t.serial) } })
  | .trap t => s.trapKernel w kw t
  | .done lo hi t => t.startReturn w kw (.result lo hi)
  | .task k t => t.startReturn w kw k

/-- A unit that acts no more at issue tries the instruction, whatever release it awaited. -/
theorem State.tryBegin_of_stands {u : KernelUnit} (h : Stands s w x kw) (hissued : u.issued s x kw.op = s)
    (hcheck : u.check s x w.core kw.op = none) : s.tryBegin u w = s.begun w kw (u.attempt s w x kw) := by
  obtain ⟨need, hkw, hdrained⟩ := h.kwait
  have hdone : need.any (fun n => !s.drained w.core w.slot w.slice n) = false := by
    cases need with
    | none => rfl
    | some n => simp [hdrained n rfl]
  have hsame : { kw with need := none } = kw := by rw [← h.need]
  have hask : kw.ask.isSome = false := by simp [h.ask]
  simp only [State.tryBegin, h.wave, h.wait, hkw, h.kret, hdone, hissued, ite_self, hsame, hask, hcheck, Bool.false_eq_true, if_false]
  cases u.attempt s w x kw <;> rfl

theorem State.beginMates_of_stands (h : Stands s w x kw) (u : KernelUnit) : s.beginMates u w = s.tryBegin u w := by
  rw [State.beginMates, h.alone]
  rfl

/-- KERNEL_OP_BEGIN of an instruction that has no more to do at issue. -/
theorem exec_kernelOpBegin_of_stands (h : Stands s w x kw) (hmark : s.markReady x kw.op = s) :
    exec (.kernelOpBegin w) s = .next (s.begun w kw (anyUnit.attempt s w x kw)) :=
  congrArg Host.Outcome.next ((State.beginMates_of_stands h anyUnit).trans (State.tryBegin_of_stands h hmark h.clear))

/-- Only a ROTJOIN acts at issue. -/
theorem State.markReady_of_kernel {op : KernelOp} (hop : isRingOp op = false) : s.markReady x op = s := by
  unfold State.markReady
  split
  · exact nomatch hop
  · rfl

theorem anyUnit_attempt_kernel (hop : isRingOp kw.op = false) : anyUnit.attempt s w x kw = tryKernel s w x kw :=
  if_neg (by simp [hop])

/-- A kernel object instruction that begins with a result. -/
theorem begins_of_tryKernel {op : KernelOp} {lo hi : W32} {t : State} (h : Stands s w x kw) (hop : kw.op = op) (hkernel : isRingOp op = false)
    (ht : tryKernel s w x kw = .done lo hi t) : Begins s w kw lo hi t := by
  subst hop
  rw [Begins, exec_kernelOpBegin_of_stands h (State.markReady_of_kernel hkernel), anyUnit_attempt_kernel hkernel, ht]
  rfl

end

end Sys2Proof.Machine
end

section
/-!
PROOFS. Handles, ports and wait sets (17 R315 to R317, R320 to R323): what the instructions on them come to when they are tried.
-/

namespace Sys2Proof.Machine

open Claim

section

variable {s : State} {w : SliceRef} {x : Wave} {kw : KernelWait}

/-! ### Objects and handles -/

theorem State.body?_of_port {i : Nat} {p : PortBody} (h : s.port? i = some p) : s.body? i = some (.port p) := by
  unfold State.port? at h
  unfold State.body?
  split at h
  · next ho =>
    rw [ho]
    exact congrArg (some ∘ ObjBody.port) (Option.some.inj h)
  · exact nomatch h

/-- The slot behind the object that a handle names. -/
theorem State.slot_of_handleObj {process i : Nat} {h : W32} (hi : s.handleObj process h = some i) :
    ∃ e, (s.process? process).bind (fun p => p.handle? h) = some e ∧ e.index = i := Option.map_eq_some_iff.1 hi

/-! ### OINFO (17 R317) -/

section

variable {h : W32} {e : HandleSlot}

theorem tryInfo_kind (hask : kw.ask = none) (he : (s.process? x.process).bind (fun p => p.handle? h) = some e) {o : Obj}
    (ho : s.obj? e.index = some o) :
    tryInfo s w x kw h 0 = .done (BitVec.ofNat 32 (bodyType o.body * 2 ^ 28) ||| e.rights.setWidth 32) 0 s := by
  simp only [tryInfo, hask, he, ho, Option.isSome_none, Bool.false_eq_true, if_false, if_true, Option.map_some, Option.getD_some]

variable {sel : Nat}

theorem tryInfo_port (hask : kw.ask = none) (hsel : sel ≠ 0) (he : (s.process? x.process).bind (fun p => p.handle? h) = some e)
    {p : PortBody} (hb : s.body? e.index = some (.port p)) :
    tryInfo s w x kw h sel = .done (BitVec.ofNat 32 (p.queue.filter (·.ready)).length) p.notify s := by
  simp only [tryInfo, hask, he, hsel, hb, Option.isSome_none, Bool.false_eq_true, if_false]

theorem tryInfo_timer (hask : kw.ask = none) (hsel : sel ≠ 0) (he : (s.process? x.process).bind (fun p => p.handle? h) = some e)
    {t : Timer} (hb : s.body? e.index = some (.timer t)) :
    tryInfo s w x kw h sel = .done
      (if t.expired then (if t.period.isSome ∧ t.armed then 3 else 2) else if t.armed then 1 else 0)
      (if t.armed then BitVec.ofNat 32 (t.deadline - s.cltime t.cluster) else 0) s := by
  simp only [tryInfo, hask, he, hsel, hb, Option.isSome_none, Bool.false_eq_true, if_false, Bool.and_eq_true, apply_ite (BitVec.ofNat 32)]
  rfl

theorem tryInfo_graph (hask : kw.ask = none) (hsel : sel ≠ 0) (he : (s.process? x.process).bind (fun p => p.handle? h) = some e)
    {g : GraphBody} (hb : s.body? e.index = some (.graph g)) :
    tryInfo s w x kw h sel = .done (if g.running then 1 else 0) g.iterations s := by
  simp only [tryInfo, hask, he, hsel, hb, Option.isSome_none, Bool.false_eq_true, if_false]

end

/-! ### PSEND (17 R320) -/

theorem State.chip_modPort (s : State) (i : Nat) (f : PortBody → PortBody) : (s.modPort i f).chip = s.chip := by
  unfold State.modPort
  split <;> rfl

/-- A message without grants and reply whose place is taken is queued at once. -/
theorem State.beginSend_plain {m : MessageRead} (hgrants : m.grants = []) (hreply : m.reply = none) (i key : Nat) :
    s.beginSend x w m s.chip i key = .done 0 0
      (s.fillPlace i (s.chip, key) { bytes := m.bytes, payload := m.payload, grants := [], reply := none }) := by
  simp only [State.beginSend, State.carry, hreply, hgrants, State.takePages, List.foldl_nil, ite_self, State.stepSend, List.filter_nil,
    List.all_nil, List.isEmpty_nil, Bool.not_true, Bool.false_eq_true, if_false, if_true]

theorem trySend_of_room {h addr : W32} {wait : Bool} {i : Nat} {p : PortBody} {m : MessageRead} (hi : s.handleObj x.process h = some i)
    (hp : s.port? i = some p) (hm : s.checkMessage x w.core h addr.toNat = .ok m) (hgrants : m.grants = []) (hreply : m.reply = none)
    (hopen : p.closed = false) (hroom : s.portFull i p m.plen = false) (hturn : s.outranked x kw = false) :
    let u := (s.modPort i (fun p => { p with queue := p.queue ++ [{ sender := (s.chip, kw.id), plen := m.plen }] })).addPool i m.plen
    2 ^ 20 ≤ poolSize - u.poolUsed i →
    trySend s w x kw h addr wait = .done 0 0
      (u.fillPlace i (s.chip, kw.id) { bytes := m.bytes, payload := m.payload, grants := [], reply := none }) := by
  intro u hpool
  have hplace : s.reservePlace i (s.chip, kw.id) m.plen (s.outranked x kw) = (0, u) := by
    simp only [State.reservePlace, hp, hopen, hroom, hturn, Bool.or_self, Bool.false_eq_true, if_false]
    rfl
  have hchip : u.chip = s.chip := State.chip_modPort ..
  simp only [trySend, hi, State.body?_of_port hp, hm, hplace, Nat.not_lt.2 hpool, if_false]
  rw [← hchip, State.beginSend_plain hgrants hreply]

/-! ### PRECV and PNOTE (17 R321, R322) -/

/-- The message that a PRECV finds ready at the head of its port is received at once when its pages all lie here. -/
theorem tryReceive_of_head {desc : List W32} {landing : Option W64} {wait : Bool} {i : Nat} {p : PortBody} {m : Message} {at_ : Place × Nat}
    (hi : s.handleObj x.process (desc.headD 0) = some i) (hp : s.port? i = some p)
    (hbuffer : s.recordAt x w.core (desc.getD 1 0).toNat (desc.getD 2 0).toNat = .ok at_) (hhead : p.queue.head? = some m)
    (hready : m.ready = true) (hclaimed : m.claimed = false) (hturn : s.outranked x kw = false)
    (hok : s.refusal x.process m (landing.map (·.toNat)) (desc.getD 2 0).toNat = 0) (hhere : ∀ g ∈ m.carried.grants, g.away s.chip = false) :
    let task : ReceiveTask := { port := i, process := x.process, landing := landing.getD 0, buffer := (desc.getD 1 0).toNat, team := x.team
                                cluster := w.core / 32, ask := 0 }
    tryReceive s w x kw desc landing wait = .done (BitVec.ofNat 32 m.plen) 0 ((s.receive task m).acquire w.core w.slot .cq) := by
  intro task
  have hfound : p.queue.head?.filter (fun m => m.ready && !m.claimed && !s.outranked x kw) = some m := by
    simp [hhead, hready, hclaimed, hturn]
  have hnone : m.carried.grants.filter (fun g => g.away s.chip) = [] := List.filter_eq_nil_iff.2 (fun g hg => by simp [hhere g hg])
  simp only [tryReceive, hi, hp, Option.bind_some, Option.map_some, hbuffer, hfound, hok, hnone, List.isEmpty_nil, ne_eq, not_true_eq_false,
    if_false, if_true]
  rfl

theorem tryNote_of_port {h v : W32} {i : Nat} {p : PortBody} (hask : kw.ask = none) (hi : s.handleObj x.process h = some i)
    (hp : s.port? i = some p) : tryNote s w x kw h v = .done 0 0 (s.notifyPort i v) := by
  simp only [tryNote, hask, hi, State.body?_of_port hp, Option.isSome_none, Bool.false_eq_true, if_false]
  rfl

/-! ### Wait sets (17 R323) -/

section

variable {h : W32} {i c : Nat} {ms : List (W32 × Member)}

/-- A member that the set has room for, whose key is free and whose object stands in no set, joins it, and its home is asked after it
where a peer keeps it. -/
theorem tryAdd_of_room {d : List W32} {key : W32} {sel : MemberSel} {m : Member} (hi : s.handleObj x.process h = some i)
    (hset : s.waitSet? i = some (c, ms)) (hm : s.memberOf x w.core d sel = some m) (hroom : ms.length < c) (hkey : ∀ y ∈ ms, y.1 ≠ key)
    (hfree : ∀ j ∈ memberObj m, s.inSet j = false) :
    let r := ((memberObj m).foldl State.holdObj s).pollMember (key, m)
    tryAdd s w x h key d sel = .done 0 0 (r.2.setMembers i (ms ++ [r.1])) := by
  intro r
  have haccepted : (decide (c ≤ ms.length) || ms.any (fun y => decide (y.1 = key)) || (memberObj m).any s.inSet) = false := by
    simpa [hroom] using ⟨fun a b hab => hkey (a, b) hab, hfree⟩
  simp only [tryAdd, hi, hset, hm, Option.bind_some, Option.map_some, haccepted, Bool.false_eq_true, if_false]
  rfl

theorem tryDel_of_member {key : W32} {m : W32 × Member} (hi : s.handleObj x.process h = some i) (hset : s.waitSet? i = some (c, ms))
    (hm : ms.find? (fun m => m.1 = key) = some m) :
    tryDel s x h key = .done 0 0 (((s.setMembers i (ms.erase m)).dropMembers [m]).unref (memberObj m.2)) := by
  simp only [tryDel, hi, hset, hm, Option.bind_some, Option.map_some]
  rfl

/-- A member leaves its ready state to the WSWAIT that takes it, if it is a timer. -/
def State.takeMember (s : State) : Member → State
  | .timer j => s.modTimer j (fun t => { t with expired := false })
  | _ => s

theorem tryWaitSet_of_ready {key : W32} {m : Member} (hi : s.handleObj x.process h = some i) (hset : s.waitSet? i = some (c, ms))
    (hready : s.readyMember ms = some (key, m)) (poll expired : Bool) :
    tryWaitSet s w x h poll expired = .done key 0 ((s.takeMember m).acquire w.core w.slot .cq) := by
  simp only [tryWaitSet, hi, Option.bind_some, hset, hready]
  cases m <;> rfl

theorem tryWaitSet_of_none (hi : s.handleObj x.process h = some i) (hset : s.waitSet? i = some (c, ms)) (hready : s.readyMember ms = none)
    (poll expired : Bool) : tryWaitSet s w x h poll expired =
      if poll then .done 0 1 (s.acquire w.core w.slot .cq) else if expired then .done 0 2 (s.acquire w.core w.slot .cq) else .wait none s := by
  simp only [tryWaitSet, hi, Option.bind_some, hset, hready]
  rfl

theorem State.takeMember_of_ne_timer {m : Member} (h : ∀ j, m ≠ .timer j) : s.takeMember m = s := by
  unfold State.takeMember
  split
  · exact absurd rfl (h _)
  · rfl

end

end

/-- Settles O36, instruction by instruction.  That WSADD asks the peer that keeps a new member is the model's reading (log 33). -/
theorem portInstructionsTakeEffect : Obligations.PortInstructionsTakeEffect := by
  intro s w x kw h
  refine ⟨fun kind d v u hop hc => begins_of_tryKernel h hop rfl ?create, fun kind d u hop hc => begins_of_tryKernel h hop rfl ?full,
    fun v hop => begins_of_tryKernel h hop rfl ?close, fun v rights p e r u hop hp he hnew => begins_of_tryKernel h hop rfl ?dup,
    fun v p e o hop hp he ho => begins_of_tryKernel h hop rfl ?kind, fun v sel i b hop hsel hi hb => ?info,
    fun v addr wait i p m hop hi hp hm hgrants hreply hopen hroom hturn hpool => begins_of_tryKernel h hop rfl ?send,
    fun desc landing wait i p m at_ hop hi hp hbuffer hhead hready hclaimed hturn hok hhere => begins_of_tryKernel h hop rfl ?receive,
    fun v n i p hop hi hp => begins_of_tryKernel h hop rfl ?note,
    fun v d key sel i c ms m hop hi hset hm hroom hkey hfree => begins_of_tryKernel h hop rfl ?add,
    fun v key i c ms m hop hi hset hm => begins_of_tryKernel h hop rfl ?del,
    fun v t poll start i c ms key m hop hi hset hready => ?ready,
    fun v t start i c ms hop hi hset hready => begins_of_tryKernel h hop rfl ?poll⟩
  case create => simp only [tryKernel, hop, tryCreate, hc]
  case full =>
    simp only [tryKernel, hop, tryCreate, hc]
    rfl
  case close =>
    rw [tryKernel, hop]
    rfl
  case dup => simp only [tryKernel, hop, tryDup, hp, Option.bind_some, he, hnew]
  case kind =>
    rw [tryKernel, hop]
    exact tryInfo_kind h.ask (by rw [hp, Option.bind_some, he]) ho
  case info =>
    obtain ⟨e, he, rfl⟩ := State.slot_of_handleObj hi
    refine ⟨fun p hp => ?port, fun t ht => ?timer, fun g hg => ?graph⟩
    all_goals
      subst b
      refine begins_of_tryKernel h hop rfl ?_
      rw [tryKernel, hop]
    case port => exact tryInfo_port h.ask hsel he hb
    case timer => exact tryInfo_timer h.ask hsel he hb
    case graph => exact tryInfo_graph h.ask hsel he hb
  case send =>
    rw [tryKernel, hop]
    exact trySend_of_room hi hp hm hgrants hreply hopen hroom hturn hpool
  case receive =>
    rw [tryKernel, hop]
    exact tryReceive_of_head hi hp hbuffer hhead hready hclaimed hturn hok hhere
  case note =>
    rw [tryKernel, hop]
    exact tryNote_of_port h.ask hi hp
  case add =>
    rw [tryKernel, hop]
    exact tryAdd_of_room hi hset hm hroom hkey hfree
  case del =>
    rw [tryKernel, hop]
    exact tryDel_of_member hi hset hm
  case ready =>
    have hbegins : Begins s w kw key 0 ((s.takeMember m).acquire w.core w.slot .cq) := by
      refine begins_of_tryKernel h hop rfl ?_
      rw [tryKernel, hop]
      exact tryWaitSet_of_ready hi hset hready poll false
    refine ⟨fun j hj => ?timer, fun hm => ?other⟩
    case timer =>
      subst hj
      exact hbegins
    case other => rwa [State.takeMember_of_ne_timer hm] at hbegins
  case poll =>
    rw [tryKernel, hop]
    exact (tryWaitSet_of_none hi hset hready true false).trans (if_pos rfl)

end Sys2Proof.Machine
end

section
/-!
PROOFS. Timers, names, graphs, launches and vectors (17 R324 to R328): what the instructions on them come to when they are tried.
-/

namespace Sys2Proof.Machine

open Claim

section

variable {s : State} {w : SliceRef} {x : Wave} {kw : KernelWait} {h : W32} {i : Nat}

/-! ### Timers (17 R324) -/

/-- A timer armed for no time has expired, and stays armed if it is periodic. -/
theorem tryArm_of_room {dur : W64} (hi : s.handleObj x.process h = some i) (hroom : s.deadlines (w.core / 32) i < 4096) (per : Bool) :
    let t : Timer := { cluster := w.core / 32, armed := true, deadline := s.cltime (w.core / 32) + dur.toNat
                       period := if per then some dur.toNat else none }
    tryArm s w x h dur per = .done 0 0 (s.modTimer i (fun _ => if dur = 0 then { t with expired := true, armed := per } else t)) := by
  intro t
  have hexpire : (if dur = 0 then t.expire else t) = if dur = 0 then { t with expired := true, armed := per } else t :=
    ite_congr rfl (fun hdur => by cases per <;> simp [t, Timer.expire, hdur]) (fun _ => rfl)
  simp only [tryArm, hi, timerPlaces, Nat.not_le.2 hroom, if_false]
  exact congrArg (fun t => Begun.done 0 0 (s.modTimer i (fun _ => t))) hexpire

theorem tryCancel_of_timer {t : Timer} (hi : s.handleObj x.process h = some i) (hb : s.body? i = some (.timer t)) :
    tryCancel s x h = if t.armed || t.expired then .done 0 0 (s.modTimer i (fun t => { cluster := t.cluster })) else .done 0 11 s := by
  simp only [tryCancel, hi, hb]
  rfl

/-! ### Names of this chip (17 R325) -/

section

variable {name : W64}

theorem tryLook_unbound (hhome : s.nameHome name = s.chip) (hn : s.lookName name = none) : tryLook s w x kw name = .done 0 4 s := by
  simp only [tryLook, hhome, hn, if_true]
  rfl

theorem tryLook_bound (hhome : s.nameHome name = s.chip) {chip port : Nat} {v : W32} {u : State}
    (hn : s.lookName name = some (chip, port)) (hport : chip = s.chip → (s.port? port).isSome = true)
    (hto : s.handleTo w.core x.process chip port (rightSend ||| rightDuplicate ||| rightClose) = .ok (v, u)) :
    tryLook s w x kw name = .done v 0 u := by
  have hstands : (decide (chip = s.chip) && (s.port? port).isNone) = false := by simpa using hport
  simp only [tryLook, hhome, hn, State.lookHandle, hstands, hto, if_true, Bool.false_eq_true, if_false]

theorem tryBind_here (hhome : s.nameHome name = s.chip) (hi : s.handleObj x.process h = some i) :
    tryBind s w x kw name (some h) = .status (s.bindName name s.chip i x.process).1 (s.bindName name s.chip i x.process).2 := by
  simp only [tryBind, hhome, Option.bind_some, hi, Option.getD_some, if_true]

theorem State.bindName_free {chip port process : Nat} (hfree : ∀ n ∈ s.names, n.1 ≠ name) (hroom : s.names.length < 65536) :
    s.bindName name chip port process = (0, { s with names := s.names ++ [(name, chip, port, process)] }) := by
  have hnew : s.names.any (fun n => decide (n.1 = name)) = false := List.any_eq_false.2 (fun n hn => by simp [hfree n hn])
  simp only [State.bindName, hnew, namePlaces, Nat.not_le.2 hroom, Bool.false_eq_true, if_false]

theorem State.bindName_taken {chip port process : Nat} (hn : ∃ n ∈ s.names, n.1 = name) : s.bindName name chip port process = (8, s) := by
  have htaken : s.names.any (fun n => decide (n.1 = name)) = true := by simpa using hn
  simp only [State.bindName, htaken, if_true]

theorem tryBind_unbind (hhome : s.nameHome name = s.chip) {n : W64 × Nat × Nat × Nat}
    (hn : s.names.find? (fun n => n.1 = name && n.2.1 = s.chip && n.2.2.2 = x.process) = some n) :
    tryBind s w x kw name none = .done 0 0 { s with names := s.names.erase n } := by
  simp only [tryBind, hhome, State.unbindName, hn, if_true]
  rfl

end

/-! ### Graphs (17 R326) -/

section

variable {process : Nat} {g : GraphBody}

theorem tryGraph_running (hi : s.handleObj x.process h = some i) (hg : s.graph? i = some (process, g)) (hrun : g.running = true) :
    tryGraph s x h = .done 0 12 s := by
  simp only [tryGraph, hi, hg, Option.bind_some, Option.map_some, hrun, if_true]
  rfl

theorem tryGraph_idle (hi : s.handleObj x.process h = some i) (hg : s.graph? i = some (process, g)) (hrun : g.running = false)
    (hrange : s.rangeFault { s.processAsker process 0 with write := true } g.array.toNat (64 * g.count) = none)
    (harray : arrayOk ((List.range g.count).map (s.nodeAt process g)) = true) :
    tryGraph s x h = .done 0 0 ((s.modGraph i (fun g => { g with
      running := true, iterations := 0, prio := x.prio.toNat, refused := false, out := 0 })).armGraph i) := by
  simp only [tryGraph, hi, hg, Option.bind_some, Option.map_some, hrun, hrange, harray, Bool.not_true, Bool.false_eq_true, if_false]
  rfl

/-- A GCOND reads the condition word of its node and leaves the new one, as an atomic at .DV. -/
theorem tryCond_of_node {node v : W32} {place : Place} {a : Nat} {rep : Bool} {xl : Option Xlat}
    (hi : s.handleObj x.process h = some i) (hg : s.graph? i = some (process, g)) (hnode : node.toNat < g.count)
    (hkind : (s.nodeAt process g node.toNat).kind = 1)
    (hat : s.resolve { s.processAsker process 0 with write := true } ((g.array.toNat + 64 * node.toNat + 0x14) % 2 ^ 64) = .ok (place, a, rep, xl))
    (kind : GcondKind) :
    let old : W32 := BitVec.ofNat 32 (ofLeBytes (s.blockBytes (dieOf w.core) (s.fresh + 20000) place a 4))
    let t := s.homeWrite place a (leBytes 4 (condNew kind old v).toNat) rep noAccess
    tryCond s w x h node v kind =
      .done old 0 ((t.drainReplicas.takeTags w.core w.slot w.slice .dv (t.metTags place a 4)).acquire w.core w.slot .dv) := by
  intro old t
  simp only [tryCond, hi, Option.bind_some, hg, Nat.not_le.2 hnode, hkind, hat, decide_false, ne_eq, not_true_eq_false, Bool.or_self,
    Bool.false_eq_true, if_false]
  rfl

end

/-! ### LAUNCH (17 R327) -/

theorem tryLaunch_eq (a : W64) : tryLaunch s x a = if 1024 ≤ s.launchQueue.length then .done 0 5 s else
    .done 0 0 (s.submit { recAddr := a, process := x.process, floor := x.prio.toNat, source := .wave, age := 0
                          cls := max x.prio.toNat (s.recordClass x.process a.toNat) }) := rfl

end

/-- Settles O37, instruction by instruction. -/
theorem unitInstructionsTakeEffect : Obligations.UnitInstructionsTakeEffect := by
  intro s w x kw h
  refine ⟨fun v dur per i hop hi hroom => begins_of_tryKernel h hop rfl ?arm, fun v i t hop hi hb => ?cancel, fun name hop hhome => ?look,
    fun name v i hop hhome hi => ?bind, fun name n hop hhome hn => begins_of_tryKernel h hop rfl ?unbind,
    fun v i process g hop hi hg => ?graph, fun v node n kind i process g place a rep xl hop hi hg hnode hkind hat => ?cond,
    fun v flush hop => begins_of_tryKernel h hop rfl ?hint, fun a hop => ?launch⟩
  case arm =>
    rw [tryKernel, hop]
    exact tryArm_of_room hi hroom per
  case cancel =>
    refine ⟨fun hset => begins_of_tryKernel h hop rfl ?_, fun harmed hexpired => begins_of_tryKernel h hop rfl ?_⟩
    all_goals rw [tryKernel, hop]
    · exact (tryCancel_of_timer hi hb).trans (if_pos (by simpa using hset))
    · exact (tryCancel_of_timer hi hb).trans (if_neg (by simp [harmed, hexpired]))
  case look =>
    refine ⟨fun hn => begins_of_tryKernel h hop rfl ?_, fun chip port v u hn hport hto => begins_of_tryKernel h hop rfl ?_⟩
    all_goals rw [tryKernel, hop]
    · exact tryLook_unbound hhome hn
    · exact tryLook_bound hhome hn hport hto
  case bind =>
    refine ⟨fun hfree hroom => begins_of_tryKernel h hop rfl ?_, fun hn => begins_of_tryKernel h hop rfl ?_⟩
    all_goals rw [tryKernel, hop]
    · exact (tryBind_here hhome hi).trans (by rw [State.bindName_free hfree hroom]; rfl)
    · exact (tryBind_here hhome hi).trans (by rw [State.bindName_taken hn]; rfl)
  case unbind =>
    rw [tryKernel, hop]
    exact tryBind_unbind hhome hn
  case graph =>
    refine ⟨fun hrun => begins_of_tryKernel h hop rfl ?_, fun hrun hrange harray => begins_of_tryKernel h hop rfl ?_⟩
    all_goals rw [tryKernel, hop]
    · exact tryGraph_running hi hg hrun
    · exact tryGraph_idle hi hg hrun hrange harray
  case cond =>
    refine begins_of_tryKernel h hop rfl ?_
    rw [tryKernel, hop]
    exact (tryCond_of_node hi hg hnode hkind hat kind).trans (by cases kind <;> rfl)
  case hint =>
    rw [tryKernel, hop]
    rfl
  case launch =>
    refine ⟨fun hroom => begins_of_tryKernel h hop rfl ?_, fun hfull => begins_of_tryKernel h hop rfl ?_⟩
    all_goals rw [tryKernel, hop]
    · exact (tryLaunch_eq a).trans (if_neg (Nat.not_le.2 hroom))
    · exact (tryLaunch_eq a).trans (if_pos hfull)

end Sys2Proof.Machine
end

section
/-!
PROOFS. Results of kernel instructions (17 R311, R312): the slice goes on, its result pair awaited, until the result is written.
-/

namespace Sys2Proof.Machine

section

variable {s : State} {w : SliceRef}

/-- The slice goes on behind an instruction that has begun, whose result pair it awaits: at the next word, and for an edge in a new
region. -/
def State.goOnBehind (s : State) (w : SliceRef) (kw : KernelWait) (sl : Slice) (task : KernelTask) : State :=
  let t := s.modSlice w.core w.slot w.slice (fun sl => { sl.tickWindows with
    pc := sl.pc.next, wait := none, kwait := none, kret := some { d := kw.d, id := kw.id, edge := opEdge kw.op, task }
    out := sl.out ++ (resultLocs kw.d).map (fun l => { loc := l, by_ := .kernel, pc := sl.pc, id := kw.id }) })
  if opEdge kw.op then t.closeRegion w.core w.slot w.slice (sl.lastLive ||| liveOf (resultLocs kw.d)) sl.pc else t

theorem State.now_goOnBehind (s : State) (w : SliceRef) (kw : KernelWait) (sl : Slice) (task : KernelTask) :
    (s.goOnBehind w kw sl task).now = s.now := by
  unfold State.goOnBehind
  dsimp only
  split
  · exact (State.now_closeRegion ..).trans (State.now_modSlice ..)
  · exact State.now_modSlice ..

/-- An instruction with a result pair that returns at a step of its own returns nothing yet. -/
theorem State.startReturn_of_not_prompt {sl : Slice} {kw : KernelWait} (hsl : s.slice? w.core w.slot w.slice = some sl)
    (hd : kw.d.isNone = false) (hprompt : s.now.prompt = false) (task : KernelTask) :
    s.startReturn w kw task = s.goOnBehind w kw sl task := by
  have hlater : ((s.goOnBehind w kw sl task).now.prompt || kw.d.isNone) = false := by
    rw [State.now_goOnBehind, hprompt, hd, Bool.or_self]
  unfold State.startReturn
  rw [hsl]
  exact if_neg (Bool.eq_false_iff.1 hlater)

/-- The unit returns the result of an instruction that waits for nothing else. -/
theorem State.stepReturn_result {k : KernelReturn} {a : Access} {p : SPair} {lo hi : W32} (ha : Store.find? s.inflight k.id = some a)
    (htask : k.task = .result lo hi) (hd : k.d = some p) :
    s.stepReturn k = ((s.landAll a k.id (destWrites (pairReg p) true 0 (hi ++ lo))).modKernel k.id (fun sl =>
      { sl with kret := none })).finish k.id a := by
  simp only [State.stepReturn, ha, htask, State.writeResult, hd]

end

/-- Settles O38: the wait for a result, and its return. -/
theorem kernelResultsReturn : Obligations.KernelResultsReturn := by
  refine ⟨fun s w sl kw p lo hi hsl hd hprompt => ?awaited, fun s w sl k a p lo hi hslot hsl hret htask hd ha => ?returned⟩
  case awaited =>
    intro u
    have hlocs : resultLocs kw.d = pairLocs p := by rw [hd, resultLocs]
    rw [State.startReturn_of_not_prompt hsl (by simp [hd]) hprompt]
    simp only [State.goOnBehind, hlocs, u]
  case returned =>
    have hk : s.kernelReturn w = some k := by simp only [State.kernelReturn, hslot, if_true, hsl, Option.bind_some, hret]
    change execKernelResultReturn w s = _
    simp only [execKernelResultReturn, hk, State.stepReturn_result ha htask hd]

end Sys2Proof.Machine
end

section
/-!
PROOFS. Events of timers, wait sets, graphs and vectors (17 R323, 19 R349, R350, R352, 25 R431).
-/

namespace Sys2Proof.Machine

open Claim

section

variable {s : State} {w : SliceRef} {x : Wave} {kw : KernelWait} {i : Nat}

/-! ### Timers (19 R350) -/

/-- A change of a timer depends on what the timer is alone. -/
theorem State.modTimer_congr {t : Timer} {f g : Timer → Timer} (hb : s.body? i = some (.timer t)) (h : f t = g t) :
    s.modTimer i f = s.modTimer i g := by
  unfold State.body? at hb
  unfold State.modTimer
  split at hb
  · next o ho =>
    obtain ⟨body, refs, owner⟩ := o
    obtain rfl : body = .timer t := Option.some.inj hb
    simp only [ho, h]
  · exact nomatch hb

theorem exec_timerExpiry_due {t : Timer} (hb : s.body? i = some (.timer t)) (harmed : t.armed = true)
    (hdue : t.deadline ≤ s.cltime t.cluster) : exec (.timerExpiry t.cluster i) s = .next (s.modTimer i Timer.expire) := by
  change execTimerExpiry t.cluster i s = _
  simp only [execTimerExpiry, hb, harmed, hdue, decide_true, Bool.and_self, if_true]

/-! ### Wait sets (17 R323, 19 R349) -/

section

variable {h t : W32} {poll : Bool} {start : Nat}

theorem kernelTrap_of_stands {op : KernelOp} (hs : Stands s w x kw) (hop : kw.op = op) (hkernel : isRingOp op = false) :
    s.kernelTrap x w.core kw.op = none := by
  subst hop
  exact (if_neg (by simp [hkernel])).symm.trans hs.clear

/-- WSWAIT_TIMEOUT tries the WSWAIT of a slice with what has become of its timeout. -/
theorem exec_wswaitTimeout_of_stands (hs : Stands s w x kw) (hop : kw.op = .wswait h t poll start) :
    exec (.wswaitTimeout w) s = .next (s.begun w kw (tryWaitSet s w x h poll (s.timedOut w.core t start))) := by
  refine congrArg Host.Outcome.next ((State.beginMates_of_stands hs _).trans
    ((State.tryBegin_of_stands hs rfl (kernelTrap_of_stands hs hop rfl)).trans ?_))
  simp only [hop]
  rfl

theorem exec_kernelOpBegin_wswait (hs : Stands s w x kw) (hop : kw.op = .wswait h t poll start) :
    exec (.kernelOpBegin w) s = .next (s.begun w kw (tryWaitSet s w x h poll false)) := by
  have hkernel : isRingOp kw.op = false := by rw [hop]; rfl
  rw [exec_kernelOpBegin_of_stands hs (State.markReady_of_kernel hkernel), anyUnit_attempt_kernel hkernel, tryKernel, hop]

/-- A set's home asks after the members that peers keep. -/
def State.pollSet (s : State) (i : Nat) (ms : List (W32 × Member)) : State :=
  let polled := ms.foldl (fun (r : List (W32 × Member) × State) m => (r.1 ++ [(r.2.pollMember m).1], (r.2.pollMember m).2)) ([], s)
  polled.2.setMembers i polled.1

/-- With one slice waiting on the set, it is that slice's instruction that is tried. -/
theorem exec_waitSetMemberReady_one {u : State} {c : Nat} {ms : List (W32 × Member)} (hset : s.waitSet? i = some (c, ms))
    (hu : s.pollSet i ms = u) (hop : kw.op = .wswait h t poll start) (hi : u.handleObj x.process h = some i)
    (hone : u.kernelWaiters = [(w, x, kw)]) : exec (.waitSetMemberReady i) s = .next (u.tryBegin kernelUnit w) := by
  subst hu
  change execWaitSetMemberReady i s = _
  unfold execWaitSetMemberReady
  simp only [hset]
  change Host.Outcome.next (List.foldl _ (s.pollSet i ms) (sortBy _ (List.filter _ (s.pollSet i ms).kernelWaiters))) = _
  rw [hone, List.filter_cons_of_pos (by simp only [hop]; exact decide_eq_true hi)]
  rfl

end

end

/-- Settles O41, event by event.  That a set's home asks the peers that keep its members is the model's reading (log 33). -/
theorem unitEventsComplete : Obligations.UnitEventsComplete := by
  refine ⟨fun s cluster i t hb harmed hcluster hdue => ?timer, fun s w x kw h t start i c ms hs hop hi hset hready => ?timeout,
    fun s w x kw h t poll start i c0 ms0 c ms key m hset => ?wake, fun s launch l i k hl hsource hreported => ?node,
    fun s v x hx hhold hcount hlong => ?hold⟩
  case timer =>
    subst hcluster
    rw [exec_timerExpiry_due hb harmed hdue]
    exact ⟨fun p hp => congrArg Host.Outcome.next (State.modTimer_congr hb (by simp [Timer.expire, hp])),
      fun hp => congrArg Host.Outcome.next (State.modTimer_congr hb (by simp [Timer.expire, hp]))⟩
  case timeout =>
    refine ⟨fun ht hlong => ?passed, fun hnot => ?running⟩
    case passed =>
      have hout : s.timedOut w.core t start = true := by simp only [State.timedOut, ne_eq, ht, not_false_eq_true, hlong, decide_true, Bool.and_self]
      rw [exec_wswaitTimeout_of_stands hs hop, hout, tryWaitSet_of_none hi hset hready]
      rfl
    case running =>
      have hout : s.timedOut w.core t start = false := by
        rcases hnot with ht | hshort
        · simp [State.timedOut, ht]
        · simp [State.timedOut, hshort]
      rw [exec_wswaitTimeout_of_stands hs hop, hout, exec_kernelOpBegin_wswait hs hop]
  case wake =>
    intro polled u hs hop hi hset' hready hone v
    have hv : u.takeMember m = v := by cases m <;> rfl
    have htry : tryKernel u w x kw = .done key 0 (v.acquire w.core w.slot .cq) := by
      rw [tryKernel, hop, ← hv]
      exact tryWaitSet_of_ready hi hset' hready poll false
    refine (exec_waitSetMemberReady_one hset rfl hop hi hone).trans (congrArg Host.Outcome.next ?_)
    exact (State.tryBegin_of_stands hs rfl (kernelTrap_of_stands hs hop rfl)).trans (congrArg (u.begun w kw) htry)
  case node =>
    change execGraphNodeComplete launch s = _
    simp only [execGraphNodeComplete, hl, hsource, hreported, if_true]
  case hold =>
    change execCoalescerHoldExpiry v s = _
    simp [execCoalescerHoldExpiry, State.raiseVector, hx, hhold, hcount, hlong]

end Sys2Proof.Machine
end

section
/-!
PROOFS. The fabric's events (19 R353, 20 R362 to R366, R370): packets that arrive or pass a bridge, this package's own requests, banks of
receive buffers, and updates of access tables.
-/

namespace Sys2Proof.Machine

section

variable {s : State} {port : Nat} {p : Packet}

/-! ### Packets that arrive (20 R362, R363) -/

/-- A packet comes in by a port that serves its channel, from another chip of the clique. -/
theorem State.arrivesOn_of_served {q : Port} (hq : Store.find? s.ports port = some q) (hserves : q.serves p.vc = true)
    (hsrc : p.src < s.cliqueSize) (hother : p.src ≠ s.chip) (hseq : p.seq < 2 ^ 32) : s.arrivesOn port p = true := by
  simp only [State.arrivesOn, hq, hserves, hsrc, hother, hseq, ne_eq, not_false_eq_true, decide_true, Bool.and_self]

theorem exec_packetReceive_stomped (hstomped : p.stomped = true) : exec (.packetReceive port p) s = .next s :=
  if_pos (by simp [hstomped])

section

variable (harrives : s.arrivesOn port p = true) (hdst : p.dst = s.chip) (hwhole : p.stomped = false)

include harrives hdst hwhole

/-- A packet that fails its check is refused, and its source is told. -/
theorem exec_packetReceive_refused (hcheck : p.checkOk = false) :
    exec (.packetReceive port p) s = .next (s.putWire (.nack p.src p.vc p.seq)) := by
  change execPacketReceive port p s = _
  simp [execPacketReceive, harrives, hdst, hwhole, hcheck]

/-- A repeated packet is answered again with what the window holds for it. -/
theorem exec_packetReceive_repeated (hcheck : p.checkOk = true)
    (hold : ((s.heed p).stream p.src p.vc).recorded p.seq = true ∨ 1024 ≤ ((s.heed p).stream p.src p.vc).ahead p.seq) :
    exec (.packetReceive port p) s = .next ((s.heed p).answerPacket p (((s.heed p).stream p.src p.vc).recordedReply p.seq)) := by
  have hagain : (((s.heed p).stream p.src p.vc).recorded p.seq || decide (1024 ≤ ((s.heed p).stream p.src p.vc).ahead p.seq)) = true := by
    simpa using hold
  change execPacketReceive port p s = _
  simp only [execPacketReceive, harrives, hdst, hwhole, hcheck, hagain, decide_true, Bool.and_self, Bool.not_true, Bool.or_self,
    Bool.false_eq_true, if_false, if_true]

/-- A new packet is performed, with what then no longer waits, or held. -/
theorem exec_packetReceive_new {t : State} {x : InStream} (hcheck : p.checkOk = true) (ht : s.heed p = t)
    (hx : t.stream p.src p.vc = x) (hnew : x.recorded p.seq = false) (hnear : x.ahead p.seq < 1024) (hfirst : ∀ h ∈ x.held, h.seq ≠ p.seq) :
    exec (.packetReceive port p) s = if t.mayPerform x p then .next ((t.performPacket p).drainStream p.src p.vc 1024)
      else .next (t.setStream p.src p.vc { x with held := x.held ++ [p] }) := by
  have hunheld : x.held.any (fun h => h.seq = p.seq) = false := List.any_eq_false.2 (fun h hh => by simp [hfirst h hh])
  change execPacketReceive port p s = _
  simp only [execPacketReceive, harrives, hdst, hwhole, hcheck, ht, hx, hnew, Nat.not_le.2 hnear, hunheld, decide_true, decide_false,
    Bool.and_self, Bool.not_true, Bool.or_self, Bool.false_eq_true, if_false]

end

/-! ### Bridges (20 R363, R366) -/

/-- A detour packet at a bridge: it ends stomped, or goes on if the destination's table allows it. -/
theorem exec_bridgeForward_arrived (harrives : s.arrivesOn port p = true) (hdst : p.dst < s.cliqueSize) (hother : p.dst ≠ s.chip)
    (hsrc : p.dst ≠ p.src) (failed : Bool) : exec (.bridgeForward port p failed) s = .next (if failed then
      (({ s with ports := Store.update s.ports port (fun q => { q with stomps := q.stomps + 1 }) } : State).putWire
        (.forward { p with stomped := true })).putWire (.stompedNotice p.src p.vc p.seq)
      else s.putWire (if s.bridgeAllows p then .forward p else .denial p.src p.vc p.seq)) := by
  change execBridgeForward port p failed s = _
  cases failed <;> simp [execBridgeForward, harrives, hdst, hother, hsrc]

end

section

variable {s : State} {dst vc seq : Nat} {p : Sent}

/-! ### This package's own requests (20 R364, R370) -/

theorem State.resend_without_room (hroom : s.hasRoom p = false) : s.resend p = s := if_pos (by simp [hroom])

theorem State.resend_again (hroom : s.hasRoom p = true) (hattempts : p.attempts < 5) :
    s.resend p = { s with sent := s.sent.map (fun q => if q = p then { p with attempts := p.attempts + 1, since := s.time } else q) } := by
  simp [State.resend, hroom, hattempts]

theorem State.resend_over (hroom : s.hasRoom p = true) (hattempts : 5 ≤ p.attempts) : s.resend p = s.respondTo p (.error 0x41) := by
  simp [State.resend, hroom, Nat.not_lt.2 hattempts]

section

variable (hsent : s.sentAt dst vc seq = some p)

include hsent

theorem exec_fabricResponseReceive_sent (r : PeerReply) :
    exec (.fabricResponseReceive dst vc seq r) s = .next (if s.hasRoom p then s.respondTo p r else s) := by
  change execFabricResponseReceive dst vc seq r s = _
  simp only [execFabricResponseReceive, hsent]

theorem exec_stompedNoticeReceive_sent : exec (.stompedNoticeReceive dst vc seq) s = .next (s.resend p) := by
  change execStompedNoticeReceive dst vc seq s = _
  simp only [execStompedNoticeReceive, hsent]

theorem exec_nackReceive_sent : exec (.nackReceive dst vc seq) s = .next (s.resend p) := by
  change execNackReceive dst vc seq s = _
  simp only [execNackReceive, hsent]

theorem exec_resendTimeout_sent : exec (.resendTimeout dst vc seq) s = .next (if 8000 ≤ s.time - p.since then s.resend p else s) := by
  change execResendTimeout dst vc seq s = _
  simp only [execResendTimeout, hsent]

end

end

/-! ### Receive buffers (20 R365) -/

theorem State.retireBank_new {s : State} {port bank : Nat} {p : Port} (hp : Store.find? s.ports port = some p) (hbank : bank < 24)
    (hnew : p.retired.contains bank = false) :
    let r := p.retired ++ [bank]
    s.retireBank port bank = { s with ports := Store.insert s.ports port { p with
      retired := r, inService := p.inService && 24 - r.length ≠ 0 } } := by
  simp only [State.retireBank, hp, hnew, portBanks, hbank, Port.banks, decide_true, Bool.not_false, Bool.and_self, if_true]
  rfl

section

variable {s : State} {id : Nat} {u : TableUpdate} {rs : List PeerReply}

/-! ### Updates of access tables (19 R353, 20 R366) -/

/-- An update whose replicas have all acknowledged is done. -/
theorem State.replicasDone_of_acknowledged (hrs : s.answers u.ask = some rs) (hdone : ∀ r ∈ rs, PeerReply.failed r = false) :
    s.replicasDone u = (true, { s with inflight := Store.erase s.inflight u.ask }) := by
  have hnone : (s.peers.zip rs).filter (fun r => PeerReply.failed r.2) = [] :=
    List.filter_eq_nil_iff.2 (fun r hr => by simp [hdone r.2 (List.of_mem_zip hr).2])
  simp only [State.replicasDone, hrs, hnone, List.isEmpty_nil, if_true]

variable (hu : s.updates.find? (fun u => u.id = id) = some u) (hrs : s.answers u.ask = some rs) (hdone : ∀ r ∈ rs, PeerReply.failed r = false)

include hu hrs hdone

theorem exec_accessTableUpdate_complete (hkind : u.remove = false ∨ u.entry.kind ≠ 1) : exec (.accessTableUpdate (.complete id)) s =
    .next (({ s with inflight := Store.erase s.inflight u.ask, updates := s.updates.erase u } : State).answerAsker u.asker) := by
  have hgrant : (u.remove && decide (u.entry.kind = 1)) = false := by simpa [or_iff_not_imp_left] using hkind
  change execAccessTableUpdate (.complete id) s = _
  simp only [execAccessTableUpdate, hu, hgrant, State.replicasDone_of_acknowledged hrs hdone, Bool.false_eq_true, if_false]

theorem exec_grantEntryRemoveAck_complete (hremove : u.remove = true) (hkind : u.entry.kind = 1) (hidle : s.admitted u.entry = false) :
    exec (.grantEntryRemoveAck id) s =
      .next (({ s with inflight := Store.erase s.inflight u.ask, updates := s.updates.erase u } : State).answerAsker u.asker) := by
  change execGrantEntryRemoveAck id s = _
  simp only [execGrantEntryRemoveAck, hu, hremove, hkind, hidle, State.replicasDone_of_acknowledged hrs hdone, decide_true, Bool.and_self,
    Bool.not_true, Bool.or_self, Bool.false_eq_true, if_false]

end

/-- Settles O53, event by event.  That a packet is performed once nothing is held for what its source has given up, and that the secure
world's writes of range entries are an event, are the model's readings (log 60, 85). -/
theorem fabricEventsComplete : Obligations.FabricEventsComplete := by
  refine ⟨?receive, fun s port p harrives hdst hother hsrc => ?bridge, fun s dst vc seq p hsent => ?request,
    fun s port bank p hp hbank hnew => congrArg Host.Outcome.next (State.retireBank_new hp hbank hnew),
    fun s e remove hkind hstands => ?write, ?complete⟩
  case receive =>
    intro s port p q t x hq hserves hsrc hother hseq hdst
    have harrives := State.arrivesOn_of_served hq hserves hsrc hother hseq
    refine ⟨fun hwhole hcheck hnew hnear hfirst => ?fresh, fun hwhole hcheck hold => ?again,
      fun hstomped => exec_packetReceive_stomped hstomped, fun hwhole hcheck => exec_packetReceive_refused harrives hdst hwhole hcheck⟩
    case fresh =>
      have hdue := exec_packetReceive_new harrives hdst hwhole hcheck (t := t) rfl rfl hnew hnear hfirst
      exact ⟨fun hmay => hdue.trans (if_pos hmay), fun hmay => hdue.trans (if_neg (by simp [x, hmay]))⟩
    case again => exact exec_packetReceive_repeated harrives hdst hwhole hcheck hold
  case bridge =>
    have hbridge := exec_bridgeForward_arrived harrives hdst hother hsrc
    refine ⟨?stomped, fun hallows => ?passed, fun hdenied => ?denied⟩
    case stomped =>
      rw [hbridge true]
      simp [State.putWire]
    case passed =>
      rw [hbridge false]
      simp [State.putWire, hallows]
    case denied =>
      rw [hbridge false]
      simp [State.putWire, hdenied]
  case request =>
    rw [exec_stompedNoticeReceive_sent hsent, exec_nackReceive_sent hsent, exec_resendTimeout_sent hsent]
    refine ⟨exec_fabricResponseReceive_sent hsent, fun hroom => ?waits, fun hroom hattempts => ?again, fun hroom hattempts => ?ended,
      fun hearly => congrArg Host.Outcome.next (if_neg (Nat.not_le.2 hearly))⟩
    case waits => simp [State.resend_without_room hroom]
    case again =>
      rw [State.resend_again hroom hattempts]
      exact ⟨rfl, rfl, fun hlate => congrArg Host.Outcome.next (if_pos hlate)⟩
    case ended =>
      rw [State.resend_over hroom hattempts]
      exact ⟨rfl, rfl, fun hlate => congrArg Host.Outcome.next (if_pos hlate)⟩
  case write =>
    change execAccessTableUpdate (.write e remove) s = _
    cases remove <;> exact congrArg Host.Outcome.next (if_pos (by simpa [hkind] using hstands))
  case complete =>
    intro s id u rs hu hrs hdone t
    exact ⟨exec_accessTableUpdate_complete hu hrs hdone, exec_grantEntryRemoveAck_complete hu hrs hdone⟩

end Sys2Proof.Machine
end

section
/-!
PROOFS. Ring instructions begin (21 R377, R379, R381, R383, R384): what comes of trying one whose slice stands alone at it, and whose
checks pass.
-/

namespace Sys2Proof.Machine

open Claim

section

variable {s : State} {w : SliceRef} {x : Wave} {kw : KernelWait}

/-! ### The two ways in which a ring instruction is tried -/

/-- A ROTJOIN marks this chip ready only while its ring is armed, with a job, and has not been marked. -/
theorem State.markReady_of_settled {op : KernelOp} {i : Nat} {r : Ring} (hring : s.ringOf x op = some (i, r))
    (hsettled : r.state = .armed → r.jobState = 1 → r.ready = true) : s.markReady x op = s := by
  unfold State.markReady
  split
  · next j q heq =>
    obtain ⟨rfl, rfl⟩ : i = j ∧ r = q := by simpa using hring.symm.trans heq
    exact if_neg (by simpa using hsettled)
  · rfl

theorem State.markReady_of_not_join {op : KernelOp} (hop : ∀ h t start, op ≠ .rotjoin h t start) : s.markReady x op = s := by
  unfold State.markReady
  split
  · exact absurd rfl (hop _ _ _)
  · rfl

theorem rotationTrap_of_stands (h : Stands s w x kw) (hring : isRingOp kw.op = true) : s.rotationTrap x w.core kw.op = none :=
  (if_pos hring).symm.trans h.clear

/-- A ring instruction that begins with a result at KERNEL_OP_BEGIN. -/
theorem begins_of_tryRotation {lo hi : W32} {t : State} (h : Stands s w x kw) (hring : isRingOp kw.op = true)
    (hmark : s.markReady x kw.op = s) (ht : tryRotation s w x kw = .done lo hi t) : Begins s w kw lo hi t := by
  have hattempt : anyUnit.attempt s w x kw = .done lo hi t := (if_pos hring).trans ht
  rw [Begins, exec_kernelOpBegin_of_stands h hmark, hattempt]
  rfl

/-- One that begins with a result at an event of its own. -/
theorem ringBegins_of_attempt {e : Instr} {lo hi : W32} {t : State} (h : Stands s w x kw) (hring : isRingOp kw.op = true)
    (hmark : s.markReady x kw.op = s) {attempt : State → SliceRef → Wave → KernelWait → Begun}
    (he : exec e s = .next (s.beginMates { rotationUnit with attempt } w)) (ht : attempt s w x kw = .done lo hi t) :
    RingBegins s w kw e lo hi t := by
  have htried : s.tryBegin { rotationUnit with attempt } w = s.begun w kw (attempt s w x kw) :=
    State.tryBegin_of_stands h hmark (rotationTrap_of_stands h hring)
  rw [RingBegins, he, State.beginMates_of_stands h, htried, ht]
  rfl

/-! ### ROTARM (21 R377) -/

theorem tryRotarm_of_room {a h : W32} {r : Ring} {u : State} (hr : s.readRing x w.core a.toNat = .ok r) (hroom : s.liveRings < 64)
    (hnew : s.create w.core x.process (.ring { r with marks := s.heldMarks.filter (fun m => m.ringid = r.ringid) }) 0x7F = .ok (h, u)) :
    let v : State := { u with heldMarks := u.heldMarks.filter (fun m => m.ringid ≠ r.ringid) }
    tryRotarm s w x a = .done h 0 ((v.removeRanges x.team r.slotRanges).modTeam x.team (fun t => { t with pins := t.pins + 1 })) := by
  simp only [tryRotarm, hr, Nat.not_le.2 hroom, if_false, hnew]

section

variable {i : Nat} {r : Ring}

/-! ### ROTJOIN (21 R379) -/

/-- With this chip marked, or nothing to mark, a ROTJOIN answers by the state of its ring. -/
theorem tryRotjoin_of_ring (hring : s.ringOf x kw.op = some (i, r)) (hsettled : r.state = .armed → r.jobState = 1 → r.ready = true)
    (expired : Bool) : tryRotjoin s x kw expired =
      if r.state = .ended then .status 3 s
      else if r.state = .failed then .status (if r.mismatch.any (fun n => kw.id < n) then 15 else 16) s
      else if r.state = .running then .done (BitVec.ofNat 32 (r.position s.chip)) 0 s
      else if r.jobState = 0 then .status 18 s
      else if expired then .status 2 s
      else .wait none s := by
  simp only [tryRotjoin, State.markReady_of_settled hring hsettled, hring]
  cases r.state <;> rfl

/-- The status of a failed ring's ROTJOIN: was the instruction there when the marks were found to differ? -/
theorem joinStatus (n : Option Nat) (id : Nat) : BitVec.ofNat 32 (if n.any (fun n => id < n) then 15 else 16) =
    if ∃ k, n = some k ∧ id < k then 15 else 16 := by
  cases n <;> simp [apply_ite (BitVec.ofNat 32)]

/-! ### AEARM (21 R381) -/

theorem tryAearm_of_idle {a : W32} {j : Job} {rs : List (Nat × Nat)} (hring : s.ringOf x kw.op = some (i, r))
    (hstate : r.state = .armed ∨ r.state = .running) (hidle : (s.cluster (w.core / 32)).job = none)
    (hj : s.readJob x w.core i (headSize r.hcode) a.toNat = .ok (j, rs)) (load : Bool) :
    tryAearm s w x kw a load = .done 0 0 (s.armJob x i j rs load) := by
  rcases hstate with hstate | hstate <;>
    simp only [tryAearm, hring, hstate, hidle, hj, Option.isSome_none, Bool.false_eq_true, if_false] <;> rfl

/-! ### AEWAIT (21 R383) -/

theorem tryAewait_of_ring (hring : s.ringOf x kw.op = some (i, r)) (poll expired : Bool) :
    let done : W32 := BitVec.ofNat 32 r.jobDone
    let u := s.acquire w.core w.slot .dv
    tryAewait s w x kw poll expired =
      if r.jobState = 0 then .done 0 18 u
      else if r.jobState = 2 then .done done 0 u
      else if r.jobState = 3 || r.state = .failed || r.state = .ended then .done done 16 u
      else if poll then .done done 1 u
      else if expired then .done done 2 u
      else .wait none s := by
  simp only [tryAewait, hring]
  rfl

/-! ### ROTEND (21 R384) -/

theorem tryRotend_of_ring (hring : s.ringOf x kw.op = some (i, r)) (abort : Bool) : tryRotend s x kw abort =
    if r.state = .ended then .done 0 (if r.failed then 16 else 0) s
    else if r.state = .failed then .done 0 16 (s.endRing i)
    else if abort then .done 0 0 ((s.failRing i 0 false).endRing i)
    else if r.over then .done 0 0 (s.endRing i)
    else .wait none s := by
  have hcode : BitVec.ofNat 32 (if r.failed then 16 else 0) = if r.failed then 16 else 0 := apply_ite ..
  simp only [tryRotend, hring, Begun.status, hcode]
  rfl

end

end

/-- Settles O39, instruction by instruction.  That a ROTJOIN returns 15 only when it had issued before its ring's marks were found to
differ is the model's reading (log 59). -/
theorem ringInstructionsTakeEffect : Obligations.RingInstructionsTakeEffect := by
  intro s w x kw h
  refine ⟨fun a r v u hop hr hroom => ?rotarm, fun v t start i r hop hring => ?rotjoin,
    fun v a load i r j rs hop hring hstate hidle hj => ?aearm, fun v t poll start i r hop hring => ?aewait,
    fun v abort i r hop hring => ?rotend⟩
  all_goals have hunit : isRingOp kw.op = true := by rw [hop]; rfl
  case rotarm =>
    intro mine hnew
    refine begins_of_tryRotation h hunit (State.markReady_of_not_join (by simp [hop])) ?_
    rw [tryRotation, hop]
    exact tryRotarm_of_room hr hroom hnew
  case rotjoin =>
    have joins {lo hi : W32} {u : State} (hsettled : r.state = .armed → r.jobState = 1 → r.ready = true)
        (ht : tryRotjoin s x kw false = .done lo hi u) : Begins s w kw lo hi u :=
      begins_of_tryRotation h hunit (State.markReady_of_settled hring hsettled) (by rw [tryRotation, hop]; exact ht)
    refine ⟨fun hrun => ?running, fun harmed hjob => ?unarmed, fun hended => ?ended, fun hfailed => ?failed,
      fun harmed hjob hready ht hlong => ?timeout⟩
    case running =>
      refine joins (by simp [hrun]) ?_
      rw [tryRotjoin_of_ring hring (by simp [hrun])]
      simp [hrun]
    case unarmed =>
      refine joins (by simp [hjob]) ?_
      rw [tryRotjoin_of_ring hring (by simp [hjob])]
      simp [harmed, hjob, Begun.status]
    case ended =>
      refine joins (by simp [hended]) ?_
      rw [tryRotjoin_of_ring hring (by simp [hended])]
      simp [hended, Begun.status]
    case failed =>
      refine joins (by simp [hfailed]) ?_
      rw [tryRotjoin_of_ring hring (by simp [hfailed]), ← joinStatus]
      simp [hfailed, Begun.status]
    case timeout =>
      have hsettled : r.state = .armed → r.jobState = 1 → r.ready = true := fun _ _ => hready
      have hout : s.timedOut w.core t start = true := by simpa [State.timedOut, hlong] using ht
      refine ringBegins_of_attempt h hunit (State.markReady_of_settled hring hsettled) rfl ?_
      simp only [hop, hout]
      rw [tryRotjoin_of_ring hring hsettled]
      simp [harmed, hjob, Begun.status]
  case aearm =>
    refine begins_of_tryRotation h hunit (State.markReady_of_not_join (by simp [hop])) ?_
    rw [tryRotation, hop]
    exact tryAearm_of_idle hring hstate hidle hj load
  case aewait =>
    intro u done
    have hmark : s.markReady x kw.op = s := State.markReady_of_not_join (by simp [hop])
    have waits {lo hi : W32} {v : State} (ht : tryAewait s w x kw poll false = .done lo hi v) : Begins s w kw lo hi v :=
      begins_of_tryRotation h hunit hmark (by rw [tryRotation, hop]; exact ht)
    refine ⟨fun hjob => waits ?_, fun hjob => waits ?_, fun hjob => waits ?_, fun hjob hrun hpoll => waits ?_,
      fun hjob hrun hpoll ht hlong => ?timeout⟩
    case timeout =>
      have hout : s.timedOut w.core t start = true := by simpa [State.timedOut, hlong] using ht
      refine ringBegins_of_attempt h hunit hmark rfl ?_
      simp only [hop, hout]
      rw [tryAewait_of_ring hring]
      simp [hjob, hrun, hpoll, u, done]
    all_goals rw [tryAewait_of_ring hring]
    · simp [hjob, u]
    · simp [hjob, u, done]
    · simp [hjob, u, done]
    · simp [hjob, hrun, hpoll, u, done]
  case rotend =>
    have hmark : s.markReady x kw.op = s := State.markReady_of_not_join (by simp [hop])
    have ends {lo hi : W32} {u : State} (ht : tryRotend s x kw abort = .done lo hi u) : Begins s w kw lo hi u :=
      begins_of_tryRotation h hunit hmark (by rw [tryRotation, hop]; exact ht)
    refine ⟨fun hrun habort hover => ?done, fun hfailed => ends ?_, fun hended => ends ?_, fun hstate habort => ends ?_⟩
    case done =>
      have ht : tryRotend s x kw abort = .done 0 0 (s.endRing i) := by
        rw [tryRotend_of_ring hring]
        simp [hrun, habort, hover]
      exact ⟨ends ht, ringBegins_of_attempt h hunit hmark rfl (by simp only [hop, ht])⟩
    all_goals rw [tryRotend_of_ring hring]
    · simp [hfailed]
    · simp [hended]
    · rcases hstate with hstate | hstate <;> simp [hstate, habort]

end Sys2Proof.Machine
end

section
/-!
PROOFS. Events of rings (21 R379, R382, R386, 23 R395 to R398, R407): marks, blocks and their packets, reservations, consumption and
failure.
-/

namespace Sys2Proof.Machine

open Claim

section

variable {s : State} {i : Nat} {r : Ring}

/-! ### A ring changed, and what leaves it -/

theorem State.obj?_of_ring (h : s.ring? i = some r) : ∃ refs owner, s.obj? i = some { body := .ring r, refs, owner } := by
  unfold State.ring? at h
  split at h
  · next q refs owner ho =>
    obtain rfl : q = r := Option.some.inj h
    exact ⟨refs, owner, ho⟩
  · exact nomatch h

theorem State.ring?_modRing (h : s.ring? i = some r) (f : Ring → Ring) : (s.modRing i f).ring? i = some (f r) := by
  obtain ⟨refs, owner, ho⟩ := State.obj?_of_ring h
  have hmod : s.modRing i f = s.setObj i { body := .ring (f r), refs, owner } := by simp only [State.modRing, ho]
  rw [hmod]
  simp [State.ring?, State.obj?, State.setObj, Store.find?_insert_self]

/-- A change of a ring depends on what the ring is alone. -/
theorem State.modRing_congr (h : s.ring? i = some r) {f g : Ring → Ring} (hfg : f r = g r) : s.modRing i f = s.modRing i g := by
  obtain ⟨refs, owner, ho⟩ := State.obj?_of_ring h
  simp only [State.modRing, ho, hfg]

@[simp] theorem State.chip_modRing (s : State) (i : Nat) (f : Ring → Ring) : (s.modRing i f).chip = s.chip := by
  unfold State.modRing
  split <;> rfl

theorem State.ring?_of_objects {t : State} (h : t.objects = s.objects) (i : Nat) : t.ring? i = s.ring? i := by
  simp only [State.ring?, State.obj?, h]

theorem State.objects_pokeN_scratch (core : Nat) (bs : List Byte) :
    ∀ (s : State) (a : Nat), (s.pokeN (.scratch core) a bs).objects = s.objects := by
  induction bs with
  | nil => exact fun s a => rfl
  | cons b bs ih => exact fun s a => (ih _ _).trans (State.objects_setCore ..)

@[simp] theorem State.objects_pokeScratch (s : State) (at_ : Nat × Nat) (off : Nat) (bs : List Byte) :
    (s.pokeScratch at_ off bs).objects = s.objects := by
  have huntag (t : State) (p : Place) (a n id : Nat) : (t.untag p a n id).objects = t.objects := by
    unfold State.untag
    split <;> rfl
  exact (huntag ..).trans (State.objects_pokeN_scratch ..)

/-! ### Marks (21 R379) -/

section

variable {m : ReadyMark}

theorem exec_ringReadyMarkReceive_unknown (hname : s.ringNamed m.ringid = none) :
    exec (.ringReadyMarkReceive m) s = .next { s with heldMarks := s.heldMarks ++ [m] } := by
  change Host.Outcome.next (s.receiveMark m) = _
  simp only [State.receiveMark, hname]

/-- The marks of an armed ring that this chip has marked agree: it runs once every other member has marked it. -/
theorem State.judgeRing_agreed (hring : s.ring? i = some r) (harmed : r.state = .armed) (hready : r.ready = true)
    (hagree : ∀ n ∈ r.marks, n = r.mark n.chip) : s.judgeRing i =
      if (r.chips.filter (· ≠ s.chip)).all (fun c => r.marks.any (fun n => n.chip = c)) then s.startRing i else s := by
  have hsame : r.marks.any (fun n => n ≠ r.mark n.chip) = false := List.any_eq_false.2 (fun n hn => by simpa using hagree n hn)
  simp only [State.judgeRing, hring, harmed, hready, hsame, ne_eq, not_true_eq_false, decide_false, Bool.not_true, Bool.or_self,
    Bool.false_eq_true, if_false]

/-- Every other member has marked the ring. -/
theorem all_marked_iff {cs : List Nat} {chip : Nat} {ms : List ReadyMark} :
    (cs.filter (· ≠ chip)).all (fun c => ms.any (fun n => n.chip = c)) = true ↔ ∀ c ∈ cs, c ≠ chip → ∃ n ∈ ms, n.chip = c := by
  simp [or_iff_not_imp_left]

/-- A mark that agrees with this chip's ring joins the others, and the ring is judged. -/
theorem exec_ringReadyMarkReceive_agreed (hname : s.ringNamed m.ringid = some i) (hring : s.ring? i = some r) (harmed : r.state = .armed)
    (hready : r.ready = true) (hm : m = r.mark m.chip) (hagree : ∀ n ∈ r.marks, n = r.mark n.chip) :
    let u := s.modRing i (fun r => { r with marks := r.marks ++ [m] })
    exec (.ringReadyMarkReceive m) s = .next
      (if (r.chips.filter (· ≠ s.chip)).all (fun c => (r.marks ++ [m]).any (fun n => n.chip = c)) then u.startRing i else u) := by
  intro u
  have hu : u.ring? i = some { r with marks := r.marks ++ [m] } := State.ring?_modRing hring _
  have hall : ∀ n ∈ r.marks ++ [m], n = r.mark n.chip := by
    intro n hn
    rcases List.mem_append.1 hn with hn | hn
    · exact hagree n hn
    · rw [List.mem_singleton.1 hn]
      exact hm
  change Host.Outcome.next (s.receiveMark m) = _
  rw [State.receiveMark, hname]
  refine congrArg Host.Outcome.next ((State.judgeRing_agreed hu harmed hready hall).trans ?_)
  rw [State.chip_modRing]
  rfl

end

/-! ### Blocks and reservations (23 R395 to R398) -/

section

variable (hring : s.ring? i = some r) (hrun : r.state = .running)

include hring hrun

section

variable {o : Obj} {j : Nat} (ho : s.obj? i = some o) (hj : j < r.total) (hown : j % r.size = 0) (hfree : r.slotFree j = true)
  (hgot : (r.index j).got = [])

include ho hj hown hfree hgot

theorem exec_ringBlockInject_read {b : List Byte} (hb : s.localBlock (objIndex o.owner) r (j / r.size) = .ok b) :
    exec (.ringBlockInject i j) s = .next (s.landBlock i j b) := by
  change execRingBlockInject i j s = _
  simp only [execRingBlockInject, ho, hring, hrun, hj, hown, hfree, hgot, hb, decide_true, Bool.and_self, if_true]

/-- An own block that cannot be read fails the ring. -/
theorem exec_ringBlockInject_unreadable {code : Byte} (hb : s.localBlock (objIndex o.owner) r (j / r.size) = .error code) :
    exec (.ringBlockInject i j) s = .next (s.failRing i code false) := by
  change execRingBlockInject i j s = _
  simp only [execRingBlockInject, ho, hring, hrun, hj, hown, hfree, hgot, hb, decide_true, Bool.and_self, if_true]

end

theorem exec_ringReservationReceive_due {k : Nat} (hk : k < r.total) (hother : k % r.size ≠ 0) : exec (.ringReservationReceive i k) s =
    .next ((s.modRing i (fun q => q.setIndex (r.source k).2 ((q.index (r.source k).2).setWant (r.source k).1))).forwardIndex i (r.source k).2) := by
  change Host.Outcome.next (s.receiveReservation i k) = _
  simp only [State.receiveReservation, hring, hrun, hk, hother, decide_true, Bool.or_true, ne_eq, not_false_eq_true, Bool.and_self, if_true]

/-- A packet due at its slot lands at its place, and goes on from there. -/
theorem exec_ringBlockPacketReceive_due {j n : Nat} {bs : List Byte} (hj : j < r.total) (hother : j % r.size ≠ 0) (hfree : r.slotFree j = true)
    (hn : 4096 * n < r.bytes) (hlength : bs.length = r.packetBytes n) (hnew : n ∉ (r.index j).got) :
    let got := (r.index j).got ++ [n]
    exec (.ringBlockPacketReceive i j { number := n, bytes := bs }) s = .next (((s.pokeScratch (r.slotAt j) (4096 * n) bs).modRing i
      (fun q => q.setIndex j { r.index j with got, present := r.whole got })).forwardIndex i j) := by
  intro got
  have hpacket : n < r.packets := by unfold Ring.packets; omega
  change Host.Outcome.next (s.receiveBlock i j { number := n, bytes := bs }) = _
  simp only [State.receiveBlock, State.landPackets, hring, hrun, hj, hother, hfree, hpacket, hlength, hnew, List.contains_eq_mem,
    decide_true, decide_false, ne_eq, not_false_eq_true, Bool.not_false, Bool.and_self, if_true]
  refine congrArg (fun t : State => Host.Outcome.next (t.forwardIndex i j)) (State.modRing_congr (r := r) ?_ rfl)
  exact (State.ring?_of_objects (State.objects_pokeScratch ..) i).trans hring

/-- An index consumed and forwarded is freed, and the fourth after it reserved. -/
theorem exec_ringIndexFree_due {j : Nat} (hj : j < r.total) (hpresent : (r.index j).present = true) (hconsumed : (r.index j).consumed = true)
    (hheld : (r.index j).freed = false) (hforwarded : r.forwarded j = true) : exec (.ringIndexFree i j) s =
      .next (((s.modRing i (fun q => q.setIndex j { r.index j with freed := true })).reserveIndex i (j + 4)).settleRing i) := by
  change execRingIndexFree i j s = _
  simp only [execRingIndexFree, hring, hrun, hj, hpresent, hconsumed, hheld, hforwarded, decide_true, Bool.not_false, Bool.and_self, if_true]

end

/-! ### The attention engine (21 R382, 23 R396) -/

/-- The next index that stands whole is consumed; it is not the last. -/
theorem exec_aeBlockConsume_due {cl : Nat} {j : Job} (hjob : (s.cluster cl).job = some j) (hring : s.ring? j.ring = some r)
    (hrun : r.state = .running) (hmore : r.next + 1 < r.total) (hpresent : (r.index r.next).present = true)
    (hnew : (r.index r.next).consumed = false) :
    let j' := j.consume (s.peekN 0 (.scratch (r.slotAt r.next).1) (r.slotAt r.next).2 r.bytes)
    exec (.aeBlockConsume cl) s = .next (((s.putJob j'.team cl j'.recAddr.toNat j'.done 0 1).setJob cl (some j')).modRing j.ring (fun q =>
      { q.setIndex r.next { r.index r.next with consumed := true } with jobDone := j'.done })) := by
  change execAeBlockConsume cl s = _
  simp only [execAeBlockConsume, hjob, hring, hrun, Nat.lt_of_succ_lt hmore, hpresent, hnew, Nat.ne_of_lt hmore, decide_true, Bool.not_false,
    Bool.and_self, if_true, if_false]
  rfl

/-! ### Failure (21 R386, 23 R407) -/

theorem exec_ringFailureNotice_unknown {ringid : W32} {code : Byte} (hname : s.ringNamed ringid = none) :
    exec (.ringFailureNotice ringid code) s = .next { s with heldMarks := s.heldMarks.filter (fun m => m.ringid ≠ ringid) } := by
  change Host.Outcome.next (s.receiveFailure ringid code) = _
  simp only [State.receiveFailure, hname]

/-- A ring without a job on its engine fails: the other members are told. -/
theorem State.failRing_without_job (hring : s.ring? i = some r) (hstate : r.state = .armed ∨ r.state = .running) (hjob : s.ringJob i r = none)
    (code : Byte) : s.failRing i code false = (told (s.modRing i (fun r =>
      { r with state := .failed, failed := true, failCode := code, mismatch := none, jobState := if r.jobState = 1 then 3 else r.jobState }))
        r (.ringFail r.ringid code)).settleRing i := by
  have hlive : (r.state = .failed || r.state = .ended) = false := by rcases hstate with h | h <;> simp [h]
  simp only [State.failRing, hring, hlive, hjob, told, Bool.false_eq_true, if_false]

end

/-- Settles O40, event by event.  When a mark is held and when it is judged, and that a failure notice of an unknown ring voids the held
marks, are the model's readings (log 59). -/
theorem ringEventsComplete : Obligations.RingEventsComplete := by
  refine ⟨fun s m => ⟨exec_ringReadyMarkReceive_unknown, fun i r hname hring harmed hready hm => ?mark⟩,
    fun s i r hring hrun => ⟨fun o j b ho hj hown hfree hgot hb => exec_ringBlockInject_read hring hrun ho hj hown hfree hgot hb,
      fun o j code ho hj hown hfree hgot hb => exec_ringBlockInject_unreadable hring hrun ho hj hown hfree hgot hb,
      fun k hk hother => exec_ringReservationReceive_due hring hrun hk hother,
      fun j n bs hj hother hfree hn hlength hnew => exec_ringBlockPacketReceive_due hring hrun hj hother hfree hn hlength hnew,
      fun j hj hpresent hconsumed hheld hforwarded => exec_ringIndexFree_due hring hrun hj hpresent hconsumed hheld hforwarded,
      fun cl j hjob hi hmore hpresent hnew => ?consume⟩,
    fun s ringid code => ⟨exec_ringFailureNotice_unknown, fun i r hname hring hstate hjob => ?fail⟩⟩
  case mark =>
    intro r' u hagree
    have hjudged := exec_ringReadyMarkReceive_agreed hname hring harmed hready hm hagree
    refine ⟨fun hall => hjudged.trans (congrArg Host.Outcome.next (if_pos (all_marked_iff.2 hall))),
      fun ⟨c, hc, hother, hmissing⟩ => hjudged.trans (congrArg Host.Outcome.next (if_neg (fun hall => ?_)))⟩
    obtain ⟨n, hn, hchip⟩ := all_marked_iff.1 hall c hc hother
    exact hmissing n hn hchip
  case consume =>
    subst hi
    exact exec_aeBlockConsume_due hjob hring hrun hmore hpresent hnew
  case fail =>
    change Host.Outcome.next (s.receiveFailure ringid code) = _
    simp only [State.receiveFailure, hname]
    exact congrArg Host.Outcome.next (State.failRing_without_job hring hstate hjob code)

end Sys2Proof.Machine
end

section
/-!
PROOFS. Commands on processes (19 R343, 12 R236): a control port's command at the head of the unit's list is performed, refused, or goes
on later.
-/

namespace Sys2Proof.Machine

open Claim

section

variable {s u : State} {c c' : Command} {rest : List Command} {e : Instr} {code : Nat} {applies : Command → Bool}
  {f : Command → State → Performed}

/-! ### The head command, when its code is the event's and the event's row applies to it -/

variable (he : exec e s = performCommand code applies f s) (hs : s.commands = c :: rest) (hcode : c.code.toNat = code)
  (happlies : applies c = true)

include he hs hcode happlies

theorem answers_of_performed {v : W32} (hf : f c s = .done v u) : Answers s c rest e u v 0 := by
  simp only [Answers, he, performCommand, hs, hcode, happlies, hf, decide_true, Bool.and_self, if_true]

theorem bad_of_performed (hf : f c s = .bad) : Bad s c rest e := by
  simp only [Bad, Answers, he, performCommand, hs, hcode, happlies, hf, decide_true, Bool.and_self, if_true]

theorem exec_of_performed_later (hf : f c s = .later c' u) : exec e s = .next { u with commands := c' :: rest } := by
  simp only [he, performCommand, hs, hcode, happlies, hf, decide_true, Bool.and_self, if_true]

end

/-- Settles O47, command by command.  The packing of the vector window, the limits of root, window and page, and the slots that start anew
are the model's readings (log 34, 54, 84). -/
theorem processCommandsComplete : Obligations.ProcessCommandsComplete := by
  intro s c rest hs
  refine ⟨fun hcode => ?shootdown, fun hcode => ?table, fun hcode => ?create, fun hcode => ?finish⟩
  case shootdown =>
    have he : exec .cmdShootdown s = _ := execCmdShootdown.eq_1 s
    refine ⟨fun p q hfirst hp hpage => ?starts, fun id hawait hdown => ?acknowledged, fun hfirst hbad => ?refused⟩
    case starts =>
      refine exec_of_performed_later he hs (congrArg BitVec.toNat hcode) rfl ?_
      simp only [hfirst, hp, hpage, ne_eq, not_true_eq_false, if_false]
    case acknowledged =>
      refine answers_of_performed he hs (congrArg BitVec.toNat hcode) rfl ?_
      simp only [hawait, hdown, if_true]
    case refused =>
      refine bad_of_performed he hs (congrArg BitVec.toNat hcode) rfl ?_
      simp only [hfirst]
      split
      · rfl
      · next p q hp => exact if_pos (by simpa [hp] using hbad)
  case table =>
    have he : exec .cmdSetHandleTable s = _ := execCmdSetHandleTable.eq_1 s
    refine ⟨fun p q hp hmin hmax halign hfits => ?fits, fun hbad => ?refused⟩
    case fits =>
      refine answers_of_performed he hs (congrArg BitVec.toNat hcode) rfl ?_
      have hall : q.table.all (fun e => !e.2.used || e.1 < c.op1) = true := by
        refine List.all_eq_true.2 (fun e he => ?_)
        cases hused : e.2.used
        · rfl
        · exact decide_eq_true (hfits e he hused)
      simp only [hp, hmin, hmax, halign, hall, decide_true, Bool.and_self, if_true]
    case refused =>
      refine bad_of_performed he hs (congrArg BitVec.toNat hcode) rfl ?_
      split
      · rfl
      · next p q hp =>
        have hbad : c.op1 < 2 ∨ 2 ^ 24 < c.op1 ∨ c.op2.toNat % 8 ≠ 0 := by simpa [hp] using hbad
        exact if_neg (by simp; omega)
  case create =>
    have he : exec .cmdCreateProcess s = _ := execCmdCreateProcess.eq_1 s
    refine ⟨fun i hi hkind hwindow hpage hroot => ?made, fun hbad => ?refused⟩
    case made =>
      intro p v port u hroom
      refine answers_of_performed he hs (congrArg BitVec.toNat hcode) rfl ?_
      have hchecks : (4 ≤ c.op0 || 2048 < c.op1 % 65536 + c.op1 / 65536 || c.op2.toNat % 4096 ≠ 0 || 2 ^ 52 ≤ c.op2.toNat) = false := by
        simp; omega
      simp only [hi, hchecks, Bool.false_eq_true, if_false]
      have made_of {t : State} (ht : t = u) : Performed.done (BitVec.ofNat 32 (t.objId i))
          (if dieObjects - t.dieCount (pegDie (t.commandCore c)) < 4096 then t.raiseKernel (t.commandCore c) c.process 2 else t)
          = .done (BitVec.ofNat 32 (u.objId i)) u := by rw [ht, if_neg (Nat.not_lt.2 hroom)]
      refine made_of ?_
      change (match c.op0.testBit 1, port with
        | true, some j => (v.putHandle i 1 j rightSend).2
        | _, _ => v) = if c.op0.testBit 1 then (port.map (fun j => (v.putHandle i 1 j rightSend).2)).getD v else v
      cases c.op0.testBit 1 <;> cases port <;> rfl
    case refused =>
      refine bad_of_performed he hs (congrArg BitVec.toNat hcode) rfl ?_
      split
      · rfl
      · next i hi =>
        have hbad : 4 ≤ c.op0 ∨ 2048 < c.op1 % 65536 + c.op1 / 65536 ∨ c.op2.toNat % 4096 ≠ 0 ∨ 2 ^ 52 ≤ c.op2.toNat := by
          simpa [hi] using hbad
        exact if_pos (by simp; omega)
  case finish =>
    have he : exec .cmdEndProcess s = _ := execCmdEndProcess.eq_1 s
    refine ⟨fun p q hp => answers_of_performed he hs (congrArg BitVec.toNat hcode) rfl ?_, fun hp => ?refused⟩
    · simp only [hp]
    case refused =>
      refine bad_of_performed he hs (congrArg BitVec.toNat hcode) rfl ?_
      simp only [hp]

end Sys2Proof.Machine
end

section
/-!
PROOFS. Commands on host queues, vectors, keys, attestation and fuses (25 R421, R431, 27 R447, R449, R458).
-/

namespace Sys2Proof.Machine

open Claim

section

variable {s : State} {c : Command} {rest : List Command}

/-! ### Fuse commands (27 R447) -/

/-- An operand that names a fuse word asks for no GENSECRET. -/
theorem Command.secret_of_word (hword : c.op0 < 1024) : c.secret = false :=
  Nat.testBit_lt_two_pow (hword.trans (by decide))

theorem acceptsSecret_fromCommand (z : Security) : z.acceptsSecret true = false := rfl

end

/-- Settles O48, command by command.  That the ring lies in the host's memory, that the link key is installed under the same conditions,
and the status of a GENSECRET are the model's readings (log 54); the signature of a report is that of log 24. -/
theorem queueKeyAndFuseCommandsComplete : Obligations.QueueKeyAndFuseCommandsComplete := by
  intro s c rest hs
  refine ⟨fun hcode p q b v place t hp hb hv hring ht hop => ?queue, fun hcode => ?vector, fun hcode => ?key, fun hcode b u hb => ?attest,
    fun hcode hstarted => ?fuse⟩
  case queue =>
    intro tail v'
    have hchecks : (c.op0 / 512 ≠ 0 || c.op0 / 64 % 4 ≠ 0) = false := by simp; omega
    have he : exec .cmdSetHostQueue s = _ := execCmdSetHostQueue.eq_1 s
    refine answers_of_performed he hs (congrArg BitVec.toNat hcode) rfl ?_
    simp only [hp, hb, hv, hring, ht, hchecks, Bool.not_true, Bool.or_self, Bool.false_eq_true, if_false]
    rfl
  case vector =>
    have he : exec .cmdSetVector s = _ := execCmdSetVector.eq_1 s
    refine ⟨fun hv hmin hmax hhold => ?set, fun hbad => ?refused⟩
    case set =>
      refine answers_of_performed he hs (congrArg BitVec.toNat hcode) rfl (if_neg ?_)
      simp; omega
    case refused =>
      refine bad_of_performed he hs (congrArg BitVec.toNat hcode) rfl (if_pos ?_)
      simp; omega
  case key =>
    have he : exec .cmdInstallKey s = _ := execCmdInstallKey.eq_1 s
    refine ⟨fun b hb hsecure hop hlc hport hzeros => ?installed, fun hbad => ?refused⟩
    case installed =>
      intro w k z
      refine answers_of_performed he hs (congrArg BitVec.toNat hcode) rfl ?_
      have hzero : (b.drop 96).any (· ≠ 0) = false := List.any_eq_false.2 (fun y hy => by simp [hzeros y hy])
      have htenant : s.security.tenantKeys = true := by simpa [Security.tenantKeys] using hlc
      have hindex : (decide (1 ≤ c.op0) && decide (c.op0 ≤ 63) || decide (c.op0 = 0xFF)) = true := by simpa using hop
      simp only [hb, hsecure, hport, hzero, htenant, hindex, Bool.not_true, Bool.or_self, Bool.false_eq_true, if_false]
      rfl
    case refused =>
      refine bad_of_performed he hs (congrArg BitVec.toNat hcode) rfl ?_
      split
      · rfl
      · next b hb =>
        refine if_pos ?_
        rcases hbad with hnone | hsecure | hzero | hport
        · exact absurd (hb.symm.trans hnone) (by simp)
        · simp [hsecure]
        · simp [hzero]
        · simp [hport]
  case attest =>
    intro secret hu
    have he : exec .cmdAttest s = _ := execCmdAttest.eq_1 s
    refine answers_of_performed he hs (congrArg BitVec.toNat hcode) rfl ?_
    simp only [hb, secret] at hu ⊢
    simp only [hu]
  case fuse =>
    have he : exec .cmdFuseblow s = _ := execCmdFuseblow.eq_1 s
    have applies (hword : c.op0 < 1024) : (!c.secret && !c.started) = true := by rw [Command.secret_of_word hword, hstarted]; rfl
    refine ⟨fun b hword hb hsecure haccepts hidle => ?blow, fun hword hbad => ?refused, fun hsecret => ?gensecret⟩
    case blow =>
      intro c'
      have hchecks : (!c.secure || c.op0 / 1024 ≠ 0 || !s.security.acceptsBlow true c.op0 (ofLeBytes b)) = false := by
        simp [hsecure, haccepts, Nat.div_eq_of_lt hword]
      let z : Security := { s.security with blowing := some ([(c.op0, BitVec.ofNat 64 (ofLeBytes b))], some c', none) }
      refine exec_of_performed_later (c' := c') (u := { s with security := z }) he hs (congrArg BitVec.toNat hcode) (applies hword) ?_
      simp only [hb, hchecks, hidle, Option.isSome_none, Bool.false_eq_true, if_false]
      rfl
    case refused =>
      refine bad_of_performed he hs (congrArg BitVec.toNat hcode) (applies hword) ?_
      split
      · rfl
      · next b hb => exact if_pos (by simp [hb] at hbad; simp [hbad])
    case gensecret =>
      have he : exec .cmdGensecret s = _ := execCmdGensecret.eq_1 s
      refine bad_of_performed he hs (congrArg BitVec.toNat hcode) ?_ (if_pos ?_)
      · have hsec : c.secret = true := hsecret
        rw [hsec, hstarted]
        rfl
      · simp [acceptsSecret_fromCommand]

end Sys2Proof.Machine
end

section
/-!
PROOFS. Commands on trace rings, stops, counters and the event ring (28 R460, R469 to R471, 25 R430).
-/

namespace Sys2Proof.Machine

open Claim

/-- Settles O49, command by command.  That a descriptor is checked also by the form that disables, and that a resume of a wave that does not
exist answers 0, are the model's readings (log 54). -/
theorem traceAndEventCommandsComplete : Obligations.TraceAndEventCommandsComplete := by
  intro s c rest hs
  refine ⟨fun hcode r u hop hfree hring => ?trace, fun hcode => ?stops, fun hcode => ?resume, fun hcode => ?counters,
    fun hcode hfree => ?events⟩
  case trace =>
    intro trace
    have he : exec .cmdTraceRing s = _ := execCmdTraceRing.eq_1 s
    have hchecks : (12 ≤ c.op0 % 16 || c.op0 / 512 ≠ 0 || c.op0 / 16 % 16 ≠ 0) = false := by simp; omega
    have hflushed : (!(s.cluster (c.op0 % 16)).begun.isEmpty && (s.cluster (c.op0 % 16)).trace.isSome) = false := by
      rcases hfree with hbegun | htrace
      · simp [hbegun]
      · simp [htrace]
    have henable : (if c.op0.testBit 8 then some r else none) = trace := by
      have hbit : c.op0.testBit 8 = true ↔ 256 ≤ c.op0 := by
        simp only [Nat.testBit_eq_decide_div_mod_eq, decide_eq_true_eq]; omega
      exact if_congr hbit rfl rfl
    refine answers_of_performed he hs (congrArg BitVec.toNat hcode) rfl ?_
    simp only [hchecks, hflushed, hring, henable, Bool.false_eq_true, if_false]
  case stops =>
    have he : exec .cmdSetStops s = _ := execCmdSetStops.eq_1 s
    refine ⟨fun p q hp hbit hop => ?set, fun hbad => ?refused⟩
    case set =>
      have hchecks : (!s.security.dbgctl.getLsbD 1 || 4 ≤ c.op1) = false := by simpa [hbit] using hop
      refine answers_of_performed he hs (congrArg BitVec.toNat hcode) rfl ?_
      simp only [hp, hchecks, Bool.false_eq_true, if_false]
    case refused =>
      refine bad_of_performed he hs (congrArg BitVec.toNat hcode) rfl ?_
      split
      · rfl
      · next p q hp => exact if_pos (by simpa [hp] using hbad)
  case resume =>
    have he : exec .cmdResume s = _ := execCmdResume.eq_1 s
    refine ⟨fun hwave hslices => answers_of_performed he hs (congrArg BitVec.toNat hcode) rfl (if_neg ?_),
      fun hbad => bad_of_performed he hs (congrArg BitVec.toNat hcode) rfl (if_pos (by simpa using hbad))⟩
    simp; omega
  case counters =>
    have he : exec .cmdCounterSnapshot s = _ := execCmdCounterSnapshot.eq_1 s
    refine ⟨fun u hop hclear halign hu => ?written, fun hbad => ?refused⟩
    case written =>
      have hchecks : (!(c.op0 < 12 || c.op0 = 16 || c.op0 = 17) || 2 ≤ c.op1 || c.op2.toNat % 128 ≠ 0) = false := by simp; omega
      refine answers_of_performed he hs (congrArg BitVec.toNat hcode) rfl ?_
      simp only [hchecks, hu, Bool.false_eq_true, if_false]
    case refused => exact bad_of_performed he hs (congrArg BitVec.toNat hcode) rfl (if_pos (by simp; omega))
  case events =>
    have he : exec .cmdEventRing s = _ := execCmdEventRing.eq_1 s
    have hflushed : (s.eventRing.isSome && !s.events.isEmpty) = false := by
      rcases hfree with hevents | hring
      · simp [hevents]
      · simp [hring]
    refine ⟨fun r u hop hring => ?disabled, fun r u hop hring => ?enabled,
      fun hbad => bad_of_performed he hs (congrArg BitVec.toNat hcode) rfl (if_pos hbad)⟩
    all_goals
      refine answers_of_performed he hs (congrArg BitVec.toNat hcode) rfl ?_
      simp [hop, hflushed, hring]

end Sys2Proof.Machine
end

section
/-!
PROOFS. The debug unit (27 R447, R453, R454): a command that is accepted is served, every other is answered with status 2.
-/

namespace Sys2Proof.Machine

section

variable {s : State} {src : DebugSource} {r : DebugReq} {e : Instr} {cmd : Nat} {accept : State → DebugReq → Bool}
  {f : DebugReq → State → State}

/-! ### Acceptance -/

section

variable (he : exec e s = serveDebug cmd src accept f s) (hr : s.servedRequest src = some r) (hcmd : r.cmd = cmd)

include he hr hcmd

theorem exec_of_accepted (haccept : accept s r = true) : exec e s = .next (f r s) := by
  simp only [he, serveDebug, hr, hcmd, haccept, ne_eq, not_true_eq_false, if_false, if_true]

theorem exec_of_refused (haccept : accept s r = false) : exec e s = .next (s.respond src 2 0) := by
  simp only [he, serveDebug, hr, hcmd, haccept, ne_eq, not_true_eq_false, Bool.false_eq_true, if_false]

end

/-- Nothing of a slice is reached while the port is closed. -/
theorem stoppedSlice_of_closed (hclosed : s.security.dbgctl.getLsbD 0 = false) : stoppedSlice s r = false := by
  simp only [stoppedSlice, portOpen, hclosed, Bool.false_and]

theorem stoppedSlice_of_open {x : Wave} {sl : Slice} (hopen : s.security.dbgctl.getLsbD 0 = true) (hsl : s.debugSlice r = some (x, sl)) :
    stoppedSlice s r = true := by
  simp only [stoppedSlice, portOpen, hopen, hsl, Option.isSome_some, Bool.and_self]

theorem earlyLife_of_le (hlc : s.security.lcstate ≤ 1) : earlyLife s r = true := decide_eq_true hlc

theorem earlyLife_of_ge (hlc : 2 ≤ s.security.lcstate) : earlyLife s r = false := decide_eq_false (Nat.not_le.2 hlc)

/-! ### Memory -/

theorem DebugReq.inHbm_iff : r.inHbm = true ↔ r.addr + 2 ^ r.size ≤ 768 * 2 ^ 30 ∧ r.addr % 2 ^ r.size = 0 := by
  simp only [DebugReq.inHbm, Bool.and_eq_true, decide_eq_true_eq]
  rfl

section

variable (hr : s.servedRequest src = some r) (hopen : s.security.dbgctl.getLsbD 0 = true)

include hr hopen

/-- A MEMREAD of HBM whose line no copy engine owns. -/
theorem exec_memread_here (hcmd : r.cmd = 1) (hhere : r.inHbm = true) (hfree : s.ownedLine .hbm r.addr (2 ^ r.size) = false) :
    let t := s.checkLine .hbm r.addr
    exec (.memread src) s = .next (t.respond src 0
      (BitVec.ofNat 64 (ofLeBytes (t.homeRead (primaryDie r.addr) .hbm r.addr (2 ^ r.size) (t.fresh + 4096))))) := by
  have he : exec (.memread src) s = _ := execMemread.eq_1 src s
  rw [exec_of_accepted he hr hcmd hopen]
  simp only [hhere, DebugReq.bytes, hfree, Bool.not_true, Bool.false_eq_true, if_false]

theorem exec_memwrite_here (hcmd : r.cmd = 2) (hhere : r.inHbm = true) (hfree : s.ownedLine .hbm r.addr (2 ^ r.size) = false) :
    exec (.memwrite src) s = .next ((s.homePut .hbm r.addr (leBytes (2 ^ r.size) r.data.toNat) false).respond src 0 0) := by
  have he : exec (.memwrite src) s = _ := execMemwrite.eq_1 src s
  rw [exec_of_accepted he hr hcmd hopen]
  simp only [hhere, DebugReq.bytes, hfree, Bool.not_true, Bool.false_eq_true, if_false]

/-- An address outside HBM, or misaligned, is answered with status 3. -/
theorem exec_memread_away (hcmd : r.cmd = 1) (haway : r.inHbm = false) : exec (.memread src) s = .next (s.respond src 3 0) := by
  have he : exec (.memread src) s = _ := execMemread.eq_1 src s
  rw [exec_of_accepted he hr hcmd hopen]
  simp only [haway, Bool.not_false, if_true]

theorem exec_memwrite_away (hcmd : r.cmd = 2) (haway : r.inHbm = false) : exec (.memwrite src) s = .next (s.respond src 3 0) := by
  have he : exec (.memwrite src) s = _ := execMemwrite.eq_1 src s
  rw [exec_of_accepted he hr hcmd hopen]
  simp only [haway, Bool.not_false, if_true]

/-! ### Registers of a stopped slice -/

section

variable {x : Wave} {sl : Slice} (hsl : s.debugSlice r = some (x, sl))

include hsl

theorem exec_regread_stopped (hcmd : r.cmd = 3) {l : Loc} (hl : r.loc x = some l) :
    exec (.regread src) s = .next (s.respond src 0 (((s.debugCtx r x).readLoc sl l).setWidth 64)) := by
  have he : exec (.regread src) s = _ := execRegread.eq_1 src s
  rw [exec_of_accepted he hr hcmd (stoppedSlice_of_open hopen hsl)]
  simp only [hsl, hl]

theorem exec_regwrite_stopped (hcmd : r.cmd = 4) {l : Loc} (hl : r.loc x = some l) :
    exec (.regwrite src) s = .next ((s.putReg r.core r.slot r.slice l (r.data.setWidth 32)).respond src 0 0) := by
  have he : exec (.regwrite src) s = _ := execRegwrite.eq_1 src s
  rw [exec_of_accepted he hr hcmd (stoppedSlice_of_open hopen hsl)]
  simp only [hsl, hl]

/-- A field or lane that names no register of the slice is answered with status 3. -/
theorem exec_regread_nowhere (hcmd : r.cmd = 3) (hl : r.loc x = none) : exec (.regread src) s = .next (s.respond src 3 0) := by
  have he : exec (.regread src) s = _ := execRegread.eq_1 src s
  rw [exec_of_accepted he hr hcmd (stoppedSlice_of_open hopen hsl)]
  simp only [hsl, hl]

theorem exec_regwrite_nowhere (hcmd : r.cmd = 4) (hl : r.loc x = none) : exec (.regwrite src) s = .next (s.respond src 3 0) := by
  have he : exec (.regwrite src) s = _ := execRegwrite.eq_1 src s
  rw [exec_of_accepted he hr hcmd (stoppedSlice_of_open hopen hsl)]
  simp only [hsl, hl]

theorem exec_srread_stopped (hcmd : r.cmd = 5) (hnum : r.num ≤ 14) : exec (.srread src) s = .next (s.respond src 0
    (if r.num = 9 then BitVec.ofNat 64 r.lane else s.readSr r.core r.slot r.slice x sl r.num)) := by
  have he : exec (.srread src) s = _ := execSrread.eq_1 src s
  rw [exec_of_accepted he hr hcmd (by simp [stoppedSlice_of_open hopen hsl, hnum]), hsl]

theorem exec_srwrite_stopped (hcmd : r.cmd = 6) (hnum : r.num ≤ 2) :
    exec (.srwrite src) s = .next ((s.writeSr r.core r.slot x.process r.num r.data).respond src 0 0) := by
  have he : exec (.srwrite src) s = _ := execSrwrite.eq_1 src s
  rw [exec_of_accepted he hr hcmd (by simp [stoppedSlice_of_open hopen hsl, hnum]), hsl]

end

/-! ### The secure control port -/

/-- A whole message of a command that exists joins the unit's list. -/
theorem exec_cmdport_message (hcmd : r.cmd = 10) (hfree : s.commands.any (fun c => c.debug = some src) = false) {b : List Byte}
    (halign : r.addr % 64 = 0) (hb : s.secureBytes 0 (BitVec.ofNat 64 r.addr) 64 = some b) (hzero : word32 b 0 = 0) (hmin : 1 ≤ word32 b 12)
    (hmax : word32 b 12 ≤ 14) : exec (.cmdport src) s = .next { s with commands := s.commands ++
      [{ code := BitVec.ofNat 32 (word32 b 12), secure := true, process := 0, reply := none, debug := some src
         ops := (List.range 4).map (fun k => BitVec.ofNat 32 (word32 b (0x30 + 4 * k))) }] } := by
  have hcode : (BitVec.ofNat 32 (word32 b 12)).toNat = word32 b 12 := by
    rw [BitVec.toNat_ofNat]; omega
  have hne : BitVec.ofNat 32 (word32 b 12) ≠ 0 := fun h => by
    have hzero12 : word32 b 12 = 0 := hcode.symm.trans (congrArg BitVec.toNat h)
    omega
  have hknown : (word32 b 0 ≠ 0 || BitVec.ofNat 32 (word32 b 12) = 0 || 14 < (BitVec.ofNat 32 (word32 b 12)).toNat) = false := by
    simp only [hzero, hne, hcode, Nat.not_lt.2 hmax, ne_eq, not_true_eq_false, decide_false, Bool.or_self]
  have he : exec (.cmdport src) s = _ := execCmdport.eq_1 src s
  rw [exec_of_accepted he hr hcmd hopen]
  simp only [hfree, halign, hb, hknown, ne_eq, not_true_eq_false, Bool.false_eq_true, if_false]

end

/-! ### Fuses (27 R447) -/

section

variable (hr : s.servedRequest src = some r)

include hr

theorem exec_fuseread_accepted (hcmd : r.cmd = 7) (haccept : s.security.lcstate ≤ 1 ∨ s.security.dbgctl.getLsbD 0 = true) :
    exec (.fuseread src) s = .next (s.respond src 0 (s.security.fuseData (r.arg % 1024))) := by
  have he : exec (.fuseread src) s = _ := execFuseread.eq_1 src s
  exact exec_of_accepted he hr hcmd (by simpa [earlyLife, portOpen] using haccept)

theorem exec_fuseblow_accepted (hcmd : r.cmd = 8) (hlc : s.security.lcstate ≤ 1)
    (haccepts : s.security.acceptsBlow false (r.arg % 1024) r.data.toNat = true) (hidle : s.security.blowing = none) :
    exec (.fuseblow src) s = .next { s with security := { s.security with blowing := some ([(r.arg % 1024, r.data)], none, some src) } } := by
  have he : exec (.fuseblow src) s = _ := execFuseblow.eq_1 src s
  rw [exec_of_accepted he hr hcmd (by simp [earlyLife_of_le hlc, haccepts])]
  simp only [hidle, Option.isSome_none, Bool.false_eq_true, if_false]

theorem exec_gensecret_accepted (hcmd : r.cmd = 9) (hlc : s.security.lcstate ≤ 1) (hblank : ∀ i < 4, Store.get s.security.fuses 0 (32 + i) = 0)
    (hidle : s.security.blowing = none) : exec (.gensecret src) s =
      .next { s with security := { s.security with blowing := some (s.secretWords, none, some src) } } := by
  have haccepts : s.security.acceptsSecret false = true := by
    have hstate : s.security.lcstate = 0 ∨ s.security.lcstate = 1 := by omega
    simpa [Security.acceptsSecret, hstate] using hblank
  have he : exec (.gensecret src) s = _ := execGensecret.eq_1 src s
  rw [exec_of_accepted he hr hcmd (by simp [earlyLife_of_le hlc, haccepts])]
  simp only [hidle, Option.isSome_none, Bool.false_eq_true, if_false]

end

end

/-- Settles O45, command by command.  The status of a field or lane that names no register of the slice, and that the lane counts in the
wave, are the model's readings (log 36). -/
theorem debugCommandsComplete : Obligations.DebugCommandsComplete := by
  refine ⟨fun s src r hr hopen => ⟨fun hcmd => ?read, fun hcmd => ?write, fun hcmd hfree b halign hb hzero hmin hmax => ?message,
    fun x sl hsl => ⟨
      fun hcmd => ⟨fun l hl => exec_regread_stopped hr hopen hsl hcmd hl, exec_regread_nowhere hr hopen hsl hcmd⟩,
      fun hcmd => ⟨fun l hl => exec_regwrite_stopped hr hopen hsl hcmd hl, exec_regwrite_nowhere hr hopen hsl hcmd⟩,
      fun hcmd hnum => exec_srread_stopped hr hopen hsl hcmd hnum,
      fun hcmd hnum => exec_srwrite_stopped hr hopen hsl hcmd hnum⟩⟩,
    fun s src r hr => ⟨exec_fuseread_accepted hr, exec_fuseblow_accepted hr, exec_gensecret_accepted hr⟩,
    fun s src r hr => ⟨fun hclosed => ?closed, fun hlc => ?late⟩⟩
  case read =>
    exact ⟨fun hhere hfree => exec_memread_here hr hopen hcmd (DebugReq.inHbm_iff.2 hhere) hfree,
      fun haway => exec_memread_away hr hopen hcmd (Bool.eq_false_iff.2 (haway ∘ DebugReq.inHbm_iff.1))⟩
  case write =>
    exact ⟨fun hhere hfree => exec_memwrite_here hr hopen hcmd (DebugReq.inHbm_iff.2 hhere) hfree,
      fun haway => exec_memwrite_away hr hopen hcmd (Bool.eq_false_iff.2 (haway ∘ DebugReq.inHbm_iff.1))⟩
  case message => exact exec_cmdport_message hr hopen hcmd hfree halign hb hzero hmin hmax
  case closed =>
    simp only [List.forall_mem_cons, List.not_mem_nil, false_imp_iff, implies_true, and_true]
    have hslice : stoppedSlice s r = false := stoppedSlice_of_closed hclosed
    exact ⟨fun hcmd => exec_of_refused (execMemread.eq_1 src s) hr hcmd hclosed,
      fun hcmd => exec_of_refused (execMemwrite.eq_1 src s) hr hcmd hclosed,
      fun hcmd => exec_of_refused (execRegread.eq_1 src s) hr hcmd hslice,
      fun hcmd => exec_of_refused (execRegwrite.eq_1 src s) hr hcmd hslice,
      fun hcmd => exec_of_refused (execSrread.eq_1 src s) hr hcmd (by simp [hslice]),
      fun hcmd => exec_of_refused (execSrwrite.eq_1 src s) hr hcmd (by simp [hslice]),
      fun hcmd => exec_of_refused (execCmdport.eq_1 src s) hr hcmd hclosed⟩
  case late =>
    have hport (hclosed : s.security.dbgctl.getLsbD 0 = false) : portOpen s r = false := hclosed
    have hearly : earlyLife s r = false := earlyLife_of_ge hlc
    exact ⟨fun hcmd hclosed => exec_of_refused (execFuseread.eq_1 src s) hr hcmd (by simp only [hearly, hport hclosed, Bool.or_self]),
      fun hcmd => exec_of_refused (execFuseblow.eq_1 src s) hr hcmd (by simp [hearly]),
      fun hcmd => exec_of_refused (execGensecret.eq_1 src s) hr hcmd (by simp [hearly])⟩

end Sys2Proof.Machine
end

section
/-!
PROOFS. The test access port and the doorbell of the debug window (27 R453, R454, R456).
-/

namespace Sys2Proof.Machine

section

variable {s : State}

theorem exec_bypass_unnamed {code : BitVec 8} (hcode : code ∉ [0x00#8, 0x01#8, 0x02#8, 0x20#8, 0x21#8]) :
    exec (.bypass code) s = .next (s.tapLoad code [false]) := by
  have hother : [0x00, 0x01, 0x02, 0x20, 0x21].contains code.toNat = false := by
    refine Bool.eq_false_iff.2 (fun hin => hcode ?_)
    simpa [BitVec.toNat_eq] using hin
  exact congrArg Host.Outcome.next (if_neg (Bool.eq_false_iff.1 hother))

theorem State.barOpen_iff : s.barOpen = true ↔ s.cxlUp = true ∨ s.phase = .recovery := by simp [State.barOpen]

end

/-- Settles O46.  What the data register holds between capture and update, and the cells and their outputs, are presumed from IEEE 1149.1
(log 25); that the window answers while the links are up or recovery waits is a choice of the model (log 63). -/
theorem tapInstructionsComplete : Obligations.TapInstructionsComplete := by
  intro s z
  refine ⟨fun dr => rfl, fun pins dr => rfl, rfl, fun dr => rfl, rfl, fun code hcode => exec_bypass_unnamed hcode, rfl,
    fun req => ⟨fun hopen => ?opened, fun hdown hphase => ?closed⟩⟩
  case opened => exact congrArg Host.Outcome.next (if_pos (State.barOpen_iff.2 hopen))
  case closed =>
    refine congrArg Host.Outcome.next (if_neg (fun hopen => ?_))
    rcases State.barOpen_iff.1 hopen with hup | hrecovery
    · exact Bool.false_ne_true (hdown.symm.trans hup)
    · exact hphase hrecovery

end Sys2Proof.Machine
end

section
/-!
PROOFS. Fuses, wipes, entropy failures, uncorrectable errors, reset, boot, recovery and power faults (27 R446, R447, R450, R455 to R457,
R459, 29 R475, R477).
-/

namespace Sys2Proof.Machine

section

variable {s : State}

/-! ### Boot (27 R455) -/

/-- After sensing the flash image boots, where the lifecycle state boots one and no check fails; otherwise recovery begins. -/
theorem exec_resetRelease_reset (hphase : s.phase = .reset) : exec .resetRelease s =
    let t := s.senseFuses
    let i := BootImage.ofBytes (Memory.get s.security.flash)
    .next (if t.security.lcstate ≠ 0 && t.security.imageReason i = 0 then t.acceptImage i
      else { t with phase := .recovery, security := { t.security with recovery := some {} } }) :=
  if_neg (not_not.2 hphase)

/-! ### Recovery (27 R456) -/

section

variable {r : Recovery} (hr : s.security.recovery = some r)

include hr

theorem exec_recoveryGo_waiting (hstate : r.state = 1 ∨ r.state = 5) (addr len : W64) : exec (.recoveryGo addr len) s =
    .next { s with security := { s.security with recovery := some { state := 2, reason := 0, addr, len } } } := by
  have hdue : (r.state = 1 || r.state = 5) = true := by simpa using hstate
  change execRecoveryGo addr len s = _
  simp only [execRecoveryGo, hr, hdue, if_true]

theorem exec_recoveryFetchComplete_failed (hstate : r.state = 2) :
    exec (.recoveryFetchComplete true) s = .next (s.rejectImage r 6) := by
  change execRecoveryFetchComplete true s = _
  simp only [execRecoveryFetchComplete, hr, hstate, ne_eq, not_true_eq_false, if_false, if_true]

/-- An image whose length is the one the host gave is accepted, or rejected with the reason of the check that failed. -/
theorem exec_recoveryFetchComplete_read {i : BootImage} (hstate : r.state = 2)
    (hi : BootImage.ofBytes (fun o => if o < r.len.toNat then Memory.get s.host (r.addr.toNat + o) else 0) = i)
    (hlen : r.len.toNat = 0x8000 + i.length) : exec (.recoveryFetchComplete false) s =
      .next (if s.security.imageReason i = 0 then s.acceptImage i else s.rejectImage r (s.security.imageReason i)) := by
  change execRecoveryFetchComplete false s = _
  simp only [execRecoveryFetchComplete, hr, hstate, hi, ne_eq, not_true_eq_false, Bool.false_eq_true, if_false]
  by_cases hreason : s.security.imageReason i = 0 <;> simp [hreason, hlen]

end

/-! ### Fuses and keys (27 R447, R450) -/

theorem exec_keywipeComplete_wiping (hwiping : s.security.wiping = true) : exec .keywipeComplete s = .next { s with
    security := { s.security with wiping := false, wipeSinceNonce := true, installSinceWipe := false, wipeSinceReset := true }
    cores := s.cores.map (fun c => (c.1, { c.2 with l1 := c.2.l1.filter (fun l =>
      !(l.1 / 2 ^ 52 % 32 = 0 && Store.get s.lineGen 0 (l.1 % 2 ^ 52) / 2 ^ 32 ≠ 0)) })) } :=
  if_pos hwiping

end

/-- Settles O50, event by event.  That the checks of boot and recovery are one step and that every supervisor wave begins at the image's
entry, that every fuse word is sensed, and what a power fault clears, are the model's readings (log 37, 55, 70). -/
theorem machineEventsComplete : Obligations.MachineEventsComplete := by
  intro s z
  refine ⟨fun ws c src hblowing => ?blown, exec_keywipeComplete_wiping, rfl, fun line => rfl, fun port bank => rfl, fun core i => rfl,
    fun hphase => ?boot, fun r addr len hr hstate => exec_recoveryGo_waiting hr hstate addr len, fun r hr hstate => ?recovery, rfl,
    fun hphase => congrArg Host.Outcome.next (if_pos hphase)⟩
  case blown =>
    intro fuses t u
    change execFuseBlowComplete s = _
    have hstate : s.security.blowing = some (ws, c, src) := hblowing
    cases c <;> cases src <;> simp only [execFuseBlowComplete, hstate] <;> rfl
  case boot =>
    intro t i
    rw [exec_resetRelease_reset hphase]
    refine ⟨fun hlc hreason => congrArg Host.Outcome.next (if_pos (by simpa using ⟨hlc, hreason⟩)),
      fun hbad => congrArg Host.Outcome.next (if_neg (fun hgood => ?_))⟩
    obtain ⟨hlc, hreason⟩ : t.security.lcstate ≠ 0 ∧ t.security.imageReason i = 0 := by simpa using hgood
    exact hbad.elim hlc (fun h => h hreason)
  case recovery =>
    intro i
    have hread := exec_recoveryFetchComplete_read (i := i) hr hstate rfl
    exact ⟨exec_recoveryFetchComplete_failed hr hstate, fun hreason hlen => (hread hlen).trans (congrArg Host.Outcome.next (if_pos hreason)),
      fun hreason hlen => (hread hlen).trans (congrArg Host.Outcome.next (if_neg hreason))⟩

end Sys2Proof.Machine
end

section
/-!
PROOFS. The host's side (20 R356, R357, 25 R420, R427, R428, 12 R237, 29 R478): cliques and links, queue tails and their records, the
host's accesses, and snoops.
-/

namespace Sys2Proof.Machine

section

variable {s : State}

/-! ### The clique and the links (20 R356, R357, 29 R478) -/

theorem exec_cliqueFormation_once {size chip : Nat} {ports : List (Nat × Nat)} (hphase : s.phase = .running) (halone : s.cliqueSize = 1)
    (hmin : 8 ≤ size) (hmax : size ≤ 16) (hchip : chip < size) (hports : portsOk size chip ports = true) :
    exec (.cliqueFormation size chip ports) s = .next { s with
      chip, cliqueSize := size
      ports := ports.foldl (fun (m : Store Port) p => Store.insert m p.1 { inService := true, peer := p.2 }) s.ports } :=
  if_pos (by simp [hphase, halone, hmin, hmax, hchip, hports])

theorem exec_cxlHostLinkBringup_running {base bytes : Nat} (hphase : s.phase = .running) (hrange : base + bytes ≤ 768 * 2 ^ 30) :
    exec (.cxlHostLinkBringup base bytes) s = .next { s with cxlUp := true, exposedBase := base, exposedBytes := bytes } :=
  if_pos (by simp only [hphase, hbmBytes, hrange, decide_true, Bool.and_self])

/-! ### Host queues (25 R420, R428) -/

section

variable {q : Nat} {h : HostQueue} (henabled : h.enabled = true) (hgoing : h.stopped = false)

include henabled hgoing

theorem HostQueue.live_of : h.live = true := by simp [HostQueue.live, henabled, hgoing]

/-- The device reads the tail of a queue that works, behind what the host has written. -/
theorem exec_hostTailSnoop_live {writes : List (Nat × Byte)} {t : State} (ht : s.hostStore writes = t) (hq : Store.find? t.queues q = some h)
    {b : List Byte} (hb : t.readVirtual (t.queueAsker h.process) h.tail.toNat 8 = .ok b) :
    exec (.hostTailSnoop q writes) s = .next (t.takeTail q (ofLeBytes b) h) := by
  change execHostTailSnoop q writes s = _
  simp only [execHostTailSnoop, ht, hq, HostQueue.live_of henabled hgoing, hb, Bool.not_true, Bool.false_eq_true, if_false]

theorem exec_hostQueueRecordHandoff_due (hq : Store.find? s.queues q = some h) (hhand : h.request = false) (hnew : h.head < h.seen)
    (hroom : s.launchQueue.length < 1024) {b : List Byte} (hb : s.readVirtual (s.queueAsker h.process) (h.recordAt h.head) 128 = .ok b) :
    exec (.hostQueueRecordHandoff q) s = .next ((s.submit
      { recAddr := BitVec.ofNat 64 (h.recordAt h.head), process := h.process, floor := h.floor, source := .host q, age := 0
        cls := max (LaunchRecord.ofBytes b).cls h.floor, bytes := some b }).advanceHead q) := by
  change execHostQueueRecordHandoff q s = _
  simp only [execHostQueueRecordHandoff, hq, HostQueue.live_of henabled hgoing, hhand, hnew, launchPlaces, hroom, hb, Bool.not_false,
    decide_true, Bool.and_self, if_true]

theorem exec_hostRequestRecord_due (hq : Store.find? s.queues q = some h) (hrequest : h.request = true) (hout : h.out = 0)
    (hnew : h.head < h.seen) : exec (.hostRequestRecord q) s =
      .next (({ s with queues := Store.insert s.queues q { h with out := 1 } } : State).sendRecord h.core
        { kind := 6, cls := 1, addr := BitVec.ofNat 64 (h.recordAt h.head), aux := BitVec.ofNat 32 q }) := by
  change execHostRequestRecord q s = _
  simp only [execHostRequestRecord, hq, HostQueue.live_of henabled hgoing, hrequest, hout, hnew, decide_true, Bool.and_self, if_true]

end

/-! ### The host's accesses (25 R427, R444) -/

section

variable {a : HostAccess}

/-- Before the links are in service, and outside the exposed range, nothing is reached. -/
theorem exec_hostMemoryAccess_unreached (hout : s.cxlUp = false ∨ a.addr < s.exposedBase ∨ s.exposedBase + s.exposedBytes < a.addr + a.size) :
    exec (.hostMemoryAccess a) s = .next s :=
  if_pos (by simpa [or_assoc] using hout)

section

variable (hup : s.cxlUp = true) (hbase : s.exposedBase ≤ a.addr) (hend : a.addr + a.size ≤ s.exposedBase + s.exposedBytes)

include hup hbase hend

theorem reached_of_exposed : (!s.cxlUp || a.addr < s.exposedBase || s.exposedBase + s.exposedBytes < a.addr + a.size) = false := by
  simp only [hup, Nat.not_lt.2 hbase, Nat.not_lt.2 hend, decide_false, Bool.not_true, Bool.or_self]

/-- On a line that a copy engine owns an access waits. -/
theorem exec_hostMemoryAccess_owned (howned : s.ownedLine .hbm a.addr a.size = true) : exec (.hostMemoryAccess a) s = .next s := by
  change execHostMemoryAccess a s = _
  simp only [execHostMemoryAccess, reached_of_exposed hup hbase hend, howned, Bool.false_eq_true, if_false, if_true]

variable (hfree : s.ownedLine .hbm a.addr a.size = false)

include hfree

theorem exec_hostMemoryAccess_load (hload : a.store = none) : exec (.hostMemoryAccess a) s = .next (s.checkLine .hbm a.addr) := by
  change execHostMemoryAccess a s = _
  simp only [execHostMemoryAccess, reached_of_exposed hup hbase hend, hfree, hload, Bool.false_eq_true, if_false]

theorem exec_hostMemoryAccess_store {bs : List Byte} (hstore : a.store = some bs) : exec (.hostMemoryAccess a) s =
    .next (if s.secureAt a.addr || s.secureAt (a.addr + a.size - 1) then s else s.homePut .hbm a.addr (bs.take a.size) false) := by
  change execHostMemoryAccess a s = _
  simp only [execHostMemoryAccess, reached_of_exposed hup hbase hend, hfree, hstore, Bool.false_eq_true, if_false]

end

end

/-! ### Snoops (12 R237) -/

theorem find?_hostLines_snoopLine (s : State) (line : Nat) : Store.find? (s.snoopLine line).hostLines line = none :=
  Store.find?_erase_self ..

/-- A line on which no store of the device stands is only given up. -/
theorem State.snoopLine_clean {line : Nat}
    (hclean : Store.find? s.hostLines line = none ∨ ∃ x, Store.find? s.hostLines line = some x ∧ x.dirty = []) :
    s.snoopLine line = { s with hostLines := Store.erase s.hostLines line } := by
  rcases hclean with hnone | ⟨x, hx, hdirty⟩
  · simp only [State.snoopLine, hnone, List.foldl_nil]
  · simp only [State.snoopLine, hx, hdirty, List.map_nil, List.eraseDups_nil, List.foldl_nil]

end

/-- Settles O51, event by event.  That the exposed range comes with the links, and that one request of a queue is outstanding at a time, are
readings of the model (log 38, 63). -/
theorem hostEventsComplete : Obligations.HostEventsComplete := by
  intro s
  refine ⟨fun size chip ports => exec_cliqueFormation_once, fun base bytes => exec_cxlHostLinkBringup_running, fun q writes h b => ?tail,
    fun q h b hq henabled hgoing hhand hnew hroom => ?handoff, fun q h hq henabled hgoing hrequest hout hnew => ?request,
    fun a hup hbase hend => ?access, fun a => exec_hostMemoryAccess_unreached,
    fun line => ⟨⟨_, rfl, find?_hostLines_snoopLine s line⟩, fun hclean => congrArg Host.Outcome.next (State.snoopLine_clean hclean)⟩⟩
  case tail =>
    intro t hq henabled hgoing hb tail
    rw [exec_hostTailSnoop_live henabled hgoing (t := t) rfl hq hb]
    refine ⟨fun hhigher hin => ?taken, fun hlower => congrArg Host.Outcome.next (if_pos hlower), fun hhigher hout => ?stopped⟩
    case taken => exact congrArg Host.Outcome.next ((if_neg (Nat.not_le.2 hhigher)).trans (if_neg (Nat.not_lt.2 hin)))
    case stopped => exact congrArg Host.Outcome.next ((if_neg (Nat.not_le.2 hhigher)).trans (if_pos hout))
  case handoff => exact fun hb => exec_hostQueueRecordHandoff_due henabled hgoing hq hhand hnew hroom hb
  case request => exact exec_hostRequestRecord_due henabled hgoing hq hrequest hout hnew
  case access =>
    refine ⟨exec_hostMemoryAccess_owned hup hbase hend, fun hfree => ⟨exec_hostMemoryAccess_load hup hbase hend hfree,
      fun bs hstore => ⟨fun hfirst hlast => ?written, fun hsecure => ?discarded⟩⟩⟩
    all_goals rw [exec_hostMemoryAccess_store hup hbase hend hfree hstore]
    case written => exact congrArg Host.Outcome.next (if_neg (by simp [hfirst, hlast]))
    case discarded => exact congrArg Host.Outcome.next (if_pos (by simpa using hsecure))

end Sys2Proof.Machine
end

section
/-!
PROOFS. The state right after reset (25 R431, 27 R443, R450, R451, R453, R457, R459).
-/

namespace Sys2Proof.Machine

/-- Every core is as a core without waves, records and bytes of scratch. -/
theorem State.core_reset (c : Nat) : State.reset.core c = {} := rfl

theorem State.canonical_reset : State.reset.Canonical where
  hbm := Memory.wf_nil
  tier2 := Memory.wf_nil
  host := Memory.wf_nil
  scratch c := (State.core_reset c).symm ▸ Memory.wf_nil

/-- Settles O60.  That no key is left, and that no event ring and no host queue is enabled, are choices of the model where the spec gives no
reset value (log 22, 24). -/
theorem resetState : Obligations.ResetState := by
  unfold Obligations.ResetState
  intro s
  have hcore (c : Nat) : s.core c = {} := State.core_reset c
  refine ⟨rfl, State.canonical_reset, fun c w => ?wave, fun c => ?core, rfl, fun n => rfl, rfl, rfl, rfl, rfl, rfl, rfl, fun v => ?vector,
    rfl, rfl, rfl, rfl⟩
  case wave => rw [State.wave?, hcore, Store.find?_nil]
  case core => rw [hcore]; exact ⟨rfl, rfl⟩
  case vector => exact ⟨rfl, rfl, rfl⟩

end Sys2Proof.Machine
end
